-- ==== Sys2Proof/Word.lean ====
section
/-! DEFINITION. The word types of the Onaing module (R11) and the plain shapes every other file uses: bytes, 32- and
64-bit words, and a sparse map from a number to a value, held as a list of pairs in rising order of the number. -/

namespace Sys2Proof

/-- A byte of memory. -/
abbrev Byte := BitVec 8

/-- The 32-bit register word. -/
abbrev Word32 := BitVec 32

/-- A 64-bit word: an instruction word, a clause header, an address, a register pair. -/
abbrev Word64 := BitVec 64

/-- A sparse map: pairs of a key and a value, keys rising. A key that is not listed holds the map's default. -/
abbrev SMap (α : Type) := List (Nat × α)

/-- A 32-bit exception, status or trap word holding a small number. -/
abbrev w32 (n : Nat) : Word32 := BitVec.ofNat 32 n

/-- A 64-bit word holding a number modulo 2^64. -/
abbrev w64 (n : Nat) : Word64 := BitVec.ofNat 64 n

end Sys2Proof
end

