-- ==== Sys2Proof/Config.lean ====
section
/-! DEFINITION. The values the manual leaves open (each an opaque constant: nothing can evaluate one or prove a value of
one) and the sizes the manual fixes. The assumption log says where each is applied. -/

namespace Sys2Proof.Config

/-- The choice among the values the manual allows a read to return (R129, R170, R227): `pick counter key`, taken modulo the number of
allowed values. Log entry 10. -/
opaque pick : Nat → Nat → Nat

/-- A word of a constant bank whose page did not translate at launch start: launch, and bank and index (R169, R170 state no value). Log entry 10. -/
opaque early : Nat → Nat → BitVec 32

/-- Whether the exp2 unit returns, for this operand, the neighbour of 2^x above the exact value rather than the one
below (R332 bounds the result to the two). Log entry 11. -/
opaque exp2Up : BitVec 32 → Bool

/-- A byte read from memory that lies on a peer device, which R1 puts outside this device. Log entry 12. -/
opaque peerByte : Nat → Nat → BitVec 8

/-- A byte of ciphertext: tenant key, tweak (physical address [51:5]), the 32 bytes of the data unit, the byte's place in it (R446, R469 name AES-256-XTS and give no
key). Log entry 13. -/
opaque cipherUnit : Nat → Nat → List (BitVec 8) → Nat → BitVec 8

/-- The SHA3-256 digest of a list of numbers (R464, R465 name the function and do not define it). Log entry 13. -/
opaque sha3 : List Nat → BitVec 256

/-- The bytes of a park record: R62 says what the 512 bytes hold and gives no layout. The contents, as numbers, and the byte. Log entry 27. -/
opaque parkByte : List Nat → Nat → BitVec 8

/-- Whether an ML-DSA-44 signature verifies: key hash, message, signature (R464, R467). Log entry 13. -/
opaque mldsaVerify : BitVec 256 → List Nat → Nat → Bool

/-- The random stream of the security engine and of the Depot: nonces, tenant keys, capability nonces (R437, R467, R469).
Log entry 13. -/
opaque random : Nat → Nat

/-- The Glastad image in the on-module flash, its security version, and its signatures by the maker and the owner (R464). Log entry 28. -/
opaque flashContent : List Nat
opaque flashVersion : Nat
opaque makerSignature : Nat
opaque ownerSignature : Nat
/-- The fused maker key hash (R464). Log entry 28. -/
opaque makerKey : BitVec 256
/-- Whether memory training succeeds at a boot (R450, R464), and the bytes of the memory at an expander port that trains, by boot and port (R447). Log
entry 28. -/
opaque trains : Nat → Bool
opaque expander : Nat → Nat → Option Nat
/-- What the measurement slots 0, 1, 2 and 4 measure: the ROM, the Depot and security engine firmware, the debug fuses (R465). Log entry 28. -/
opaque measured : Nat → List Nat
/-- The certificate of the device identity key, by the maker (R466). Log entry 28. -/
opaque certificate : Nat

/-- The ECDSA P-384 signature of the device identity key over a response (R466). Log entry 13. -/
opaque sign : List Nat → Nat

/-- The device on the Causeway fabric that homes a region whose home map entry names a die of another device: address
space id and 2 MiB region. `none` is this device (the home map entry of R376 has no device field). Log entry 12. -/
opaque homeDevice : Nat → Nat → Option (BitVec 16)

/-- Whether a tenant's pinned memory may turn out too small for a reservation (R411). Log entry 14. -/
opaque tight : Nat → Bool

/-- Whether a reservation in such memory cannot be made, so that the Depot refuses with reason 7 (R410, R411, R436). Log entry 14. -/
opaque reservationFails : Nat → Bool

/-- R411: where the reservations of a launch lie in the tenant's pinned memory, and the bytes of the spill space of a workgroup. Log entry 14. -/
opaque pinBase : Nat → Nat
opaque spillBytes : Nat

/-- R419: the checksum of a context image, over its fields and sections. Log entry 27. -/
opaque checksum : List (BitVec 8) → BitVec 32

/-- R460, R461: the rank (eight per stack, twelve stacks), taken modulo 96, that holds a 32-byte unit of the first tier. Log entry 72. -/
opaque rankOf : Nat → Nat

/-- R20, R21: cores of the module. -/
def cores : Nat := 512
/-- R23: thread slots of a core. -/
def threadSlots : Nat := 2048
/-- R23: group slots of a core. -/
def groupSlots : Nat := 64
/-- R23: meeting records of a core. -/
def meetRecords : Nat := 32
/-- R23, R382: operand log entries of a core. -/
def logEntries : Nat := 64
/-- R44: vector registers of a core. -/
def vregsPerCore : Nat := 131072
/-- R82 R315: words the matrix queue holds. -/
def matrixQueue : Nat := 16
/-- R296: the limits on unacknowledged packets and operations of a core's channel engine. -/
def channelLimit : Nat := 512
/-- R299: stream entries of a resequencer. -/
def streamEntries : Nat := 4096
/-- R23, R79: the entries of a retirement tracker, and the channels with unacknowledged packets that still let a retirement pass. -/
def trackerChannels : Nat := 14
/-- R375: which of the home die's three HBM controllers serves a region, taken modulo 3: address-space id and region. Log entry 81. -/
opaque controller : Nat → Nat → Nat

/-- R27: home slices of a die's L2, and the lines of one: 6 MiB of 128 bytes. -/
def l2Slices : Nat := 32
def sliceLines : Nat := 49152
/-- R23: lines of an L1: 256 KiB of 128 bytes. R209: lines of a cluster's instruction cache: 128 KiB. -/
def l1Lines : Nat := 2048
def icacheLines : Nat := 1024
/-- R380: entries of a TLB. -/
def tlbEntries : Nat := 4096
/-- R28: bytes of the HBM of one compute die: three stacks of 64 GiB. -/
def hbmPerDie : Nat := 3 * 64 * 2 ^ 30
/-- R1, R29: the LPDDR6 on the module. R447: the most that the expanders provide together. -/
def lpddrBytes : Nat := 2 ^ 40
def expanderBytes : Nat := 31 * 2 ^ 40

end Sys2Proof.Config
end

