-- ==== Sys2Proof/Syntax.lean ====
section
/-! DEFINITION. The instruction words of the Onaing module and the other steps of its table, one constructor per row of
spec/opcode_table.json. The instruction words hold the typed fields of R112 to R118; the steps hold the numbers that say
where they happen. -/

namespace Sys2Proof

/-- The head of every instruction word, below the opcode (R112). -/
structure Head where
  stall : BitVec 4
  ct : BitVec 3
  pred : BitVec 3
  neg : Bool
deriving DecidableEq, Repr

/-- A source operand (R120). `sca` holds the 8-bit field of kind 01, whose values from 0x58 up are illegal operands. -/
inductive Src where
  | vec (r : BitVec 8)
  | sca (f : BitVec 8)
  | cst (bank : BitVec 2) (word : BitVec 6)
  | short (v : BitVec 8)
  | long
deriving DecidableEq, Repr

/-- A destination: the kind bit dk and the 8-bit field (R114, R121). -/
structure Dst where
  sca : Bool
  f : BitVec 8
deriving DecidableEq, Repr

/-- The register that holds an indirect target or source value (R180): kind bit xk and number. -/
structure XReg where
  sca : Bool
  r : BitVec 8
deriving DecidableEq, Repr

/-- The data and base fields of format M (R115): kind and number of the data register, kind and number of the base. -/
structure MOpnd where
  dk : Bool
  data : BitVec 8
  bk : BitVec 2
  base : BitVec 8
  off : BitVec 8
deriving DecidableEq, Repr

/-- The 32 bits of a long-literal word, when the word has one (R123). -/
abbrev Lit := Option (BitVec 32)

/-- Rounding modes (R85). -/
inductive Rnd where
  | rne | rz | rd | ru
deriving DecidableEq, Repr

/-- Float types of CVT (R159). -/
inductive FTy where
  | f32 | f16 | bf16
deriving DecidableEq, Repr

/-- Integer types of CVT (R159). -/
inductive ITy where
  | s32 | b32 | s64 | b64
deriving DecidableEq, Repr

/-- How a compare combines with a predicate (R148). -/
inductive Comb where
  | none | and | or | xor
deriving DecidableEq, Repr

/-- Types of REDG and SCAN (R148). -/
inductive RTy where
  | s32 | b32 | f32
deriving DecidableEq, Repr

/-- Operations of REDG and SCAN (R148). -/
inductive ROp where
  | add | min | max | and | or | xor | first
deriving DecidableEq, Repr

/-- Special registers (R176). -/
inductive SReg where
  | tid | lane | gid | gw | wgx | wgy | wgz | stage | gang | grank | core | die | dev | gen | par | root | copy | phase | ms | cyc
deriving DecidableEq, Repr

/-- Scopes (R115). -/
inductive Scope where
  | none | wg | gang | die | dev | sys
deriving DecidableEq, Repr

/-- Orders (R115). -/
inductive Order where
  | rlx | acq | rel | ar
deriving DecidableEq, Repr

/-- Access sizes (R115). -/
inductive Size where
  | b8 | b16 | b32 | b64 | b128
deriving DecidableEq, Repr

/-- Types of RED.fadd (R233). -/
inductive FaddTy where
  | f32 | f16 | bf16
deriving DecidableEq, Repr

/-- What the host writes in a tenant entry when it creates the tenant (R452). -/
structure TenantCfg where
  conf : Bool
  asid : Nat
  vec : Nat
  ring : Nat
  ringCount : Nat
  dump : Nat
  slotSize : Nat
  slotCount : Nat
  pool : Nat
  frames : Nat
  area : Nat
  root : Nat
deriving DecidableEq, Repr

/-- A request to mint a capability (R437): the tenant, the rights, the process that may use it and the buffer. -/
structure CapReq where
  tenant : Nat
  dbg : Bool
  trace : Bool
  prof : Bool
  process : Nat
  buf : Nat
  entries : Nat
  trcBuf : Nat
  trcEntries : Nat
  profBuf : Nat
deriving DecidableEq, Repr

/-- What a capability names (R437): a slot delegated from another has a parent. `page` is the tenant whose page of BAR2 the request comes through (R451). -/
structure CapChild where
  page : Nat
  parent : Nat
  dbg : Bool
  trace : Bool
  prof : Bool
  process : Nat
deriving DecidableEq, Repr

/-- R451: the launch id of a debug command, and the tenant whose page of BAR2 the command comes through. -/
structure PageLid where
  page : Nat
  lid : BitVec 64
deriving DecidableEq, Repr

/-- R451: a capability slot that a request names, and the tenant whose page of BAR2 it comes through. -/
structure PageSlot where
  page : Nat
  slot : Nat
deriving DecidableEq, Repr

/-- The instructions of the Onaing module and the other steps of its table (R132 and the table of steps). The summary of each is the
table's own. -/
inductive Instr where
  /-- R149: Adds two 32-bit operands per executing lane, or once for a scalar destination, with optional saturation. -/
  | iadd (h : Head) (sat u : Bool) (d : Dst) (a b : Src) (lit : Lit)
  /-- R149: Adds two 64-bit operand pairs, with optional saturation. -/
  | iaddB64 (h : Head) (sat u : Bool) (d : Dst) (a b : Src) (lit : Lit)
  /-- R150: Adds two unsigned 32-bit values and a carry-in predicate, and writes the carry-out to a predicate. -/
  | iaddc (h : Head) (cout cin : BitVec 3) (d : Dst) (a b : Src) (lit : Lit)
  /-- R149: Subtracts two 32-bit operands, with optional saturation. -/
  | isub (h : Head) (sat u : Bool) (d : Dst) (a b : Src) (lit : Lit)
  /-- R149: Subtracts two 64-bit operand pairs, with optional saturation. -/
  | isubB64 (h : Head) (sat u : Bool) (d : Dst) (a b : Src) (lit : Lit)
  /-- R149: Writes the low 32 bits of the product of two operands. -/
  | imul (h : Head) (d : Dst) (a b : Src) (lit : Lit)
  /-- R149: Writes the low 64 bits of the product of two 64-bit operands. -/
  | imulB64 (h : Head) (d : Dst) (a b : Src) (lit : Lit)
  /-- R149: Writes bits 63:32 of the signed or unsigned product of two 32-bit operands. -/
  | imulh (h : Head) (u : Bool) (d : Dst) (a b : Src) (lit : Lit)
  /-- R149: Writes the low 32 bits of a times b plus c. -/
  | imad (h : Head) (d : Dst) (a b c : Src) (lit : Lit)
  /-- R149: Writes the extended product of two 32-bit operands plus a 64-bit addend, modulo 2^64. -/
  | imadB64 (h : Head) (u : Bool) (d : Dst) (a b c : Src) (lit : Lit)
  /-- R149: Writes the smaller of two signed or unsigned operands. -/
  | imin (h : Head) (u : Bool) (d : Dst) (a b : Src) (lit : Lit)
  /-- R149: Writes the larger of two signed or unsigned operands. -/
  | imax (h : Head) (u : Bool) (d : Dst) (a b : Src) (lit : Lit)
  /-- R149: Writes the signed absolute value, with optional saturation. -/
  | iabs (h : Head) (sat : Bool) (d : Dst) (a : Src) (lit : Lit)
  /-- R149: Writes the signed negation, with optional saturation. -/
  | ineg (h : Head) (sat : Bool) (d : Dst) (a : Src) (lit : Lit)
  /-- R151: Forms a 64-bit address as a plus the shifted, extended 32-bit b. -/
  | lea (h : Head) (sx : Bool) (n : BitVec 5) (d : Dst) (a b : Src) (lit : Lit)
  /-- R152: Bitwise AND of two 32-bit operands. -/
  | and (h : Head) (d : Dst) (a b : Src) (lit : Lit)
  /-- R152: Bitwise OR of two 32-bit operands. -/
  | or (h : Head) (d : Dst) (a b : Src) (lit : Lit)
  /-- R152: Bitwise XOR of two 32-bit operands. -/
  | xor (h : Head) (d : Dst) (a b : Src) (lit : Lit)
  /-- R152: Bitwise complement of a 32-bit operand. -/
  | not (h : Head) (d : Dst) (a : Src) (lit : Lit)
  /-- R152: Shifts left by s, giving 0 for s of 32 or more. -/
  | shl (h : Head) (d : Dst) (a b : Src) (lit : Lit)
  /-- R152: Shifts right logically by s, giving 0 for s of 32 or more. -/
  | shr (h : Head) (d : Dst) (a b : Src) (lit : Lit)
  /-- R152: Shifts right arithmetically by s. -/
  | sar (h : Head) (d : Dst) (a b : Src) (lit : Lit)
  /-- R152: Rotates left by s mod 32. -/
  | rol (h : Head) (d : Dst) (a b : Src) (lit : Lit)
  /-- R153: Extracts a bitfield, with optional sign extension. -/
  | bfx (h : Head) (u : Bool) (d : Dst) (a b : Src) (lit : Lit)
  /-- R153: Inserts a bitfield of a into c. -/
  | bfi (h : Head) (d : Dst) (a b c : Src) (lit : Lit)
  /-- R152: Counts the 1 bits. -/
  | popc (h : Head) (d : Dst) (a : Src) (lit : Lit)
  /-- R152: Counts the leading zeros. -/
  | clz (h : Head) (d : Dst) (a : Src) (lit : Lit)
  /-- R152: Reverses the bit order. -/
  | brev (h : Head) (d : Dst) (a : Src) (lit : Lit)
  /-- R152: Shifts a 64-bit pair left. -/
  | shlB64 (h : Head) (d : Dst) (a b : Src) (lit : Lit)
  /-- R152: Shifts a 64-bit pair right logically. -/
  | shrB64 (h : Head) (d : Dst) (a b : Src) (lit : Lit)
  /-- R152: Shifts a 64-bit pair right arithmetically. -/
  | sarB64 (h : Head) (d : Dst) (a b : Src) (lit : Lit)
  /-- R154: FP32 add with one rounding in the selected mode. -/
  | fadd (h : Head) (na : Bool) (rnd : Rnd) (d : Dst) (a b : Src) (lit : Lit)
  /-- R154: FP32 subtract with one rounding. -/
  | fsub (h : Head) (na : Bool) (rnd : Rnd) (d : Dst) (a b : Src) (lit : Lit)
  /-- R154: FP32 multiply with one rounding. -/
  | fmul (h : Head) (na : Bool) (rnd : Rnd) (d : Dst) (a b : Src) (lit : Lit)
  /-- R154: FP32 fused multiply-add with one rounding. -/
  | ffma (h : Head) (nc na : Bool) (rnd : Rnd) (d : Dst) (a b c : Src) (lit : Lit)
  /-- R155: Returns the smaller FP32 operand, with -0 below +0 and NaN handling. -/
  | fmin (h : Head) (na : Bool) (d : Dst) (a b : Src) (lit : Lit)
  /-- R155: Returns the larger FP32 operand. -/
  | fmax (h : Head) (na : Bool) (d : Dst) (a b : Src) (lit : Lit)
  /-- R154: Rounds an FP32 value to an integral value in the selected mode. -/
  | frnd (h : Head) (na : Bool) (rnd : Rnd) (d : Dst) (a : Src) (lit : Lit)
  /-- R157: Correctly rounded reciprocal. -/
  | frcp (h : Head) (na : Bool) (d : Dst) (a : Src) (lit : Lit)
  /-- R157: Correctly rounded reciprocal square root. -/
  | frsq (h : Head) (na : Bool) (d : Dst) (a : Src) (lit : Lit)
  /-- R157: Correctly rounded square root. -/
  | fsqrt (h : Head) (na : Bool) (d : Dst) (a : Src) (lit : Lit)
  /-- R157: Correctly rounded 2^x. -/
  | fexp2 (h : Head) (na : Bool) (d : Dst) (a : Src) (lit : Lit)
  /-- R157: Correctly rounded log2 x. -/
  | flog2 (h : Head) (na : Bool) (d : Dst) (a : Src) (lit : Lit)
  /-- R157: Correctly rounded sin(pi x). -/
  | fsin (h : Head) (na : Bool) (d : Dst) (a : Src) (lit : Lit)
  /-- R157: Correctly rounded cos(pi x). -/
  | fcos (h : Head) (na : Bool) (d : Dst) (a : Src) (lit : Lit)
  /-- R158: Adds packed f16 or bf16 pairs element-wise. -/
  | hadd2 (h : Head) (bf : Bool) (rnd : Rnd) (d : Dst) (a b : Src) (lit : Lit)
  /-- R158: Multiplies packed f16 or bf16 pairs element-wise. -/
  | hmul2 (h : Head) (bf : Bool) (rnd : Rnd) (d : Dst) (a b : Src) (lit : Lit)
  /-- R158: Packed f16 fused multiply-add. -/
  | hfma2 (h : Head) (rnd : Rnd) (d : Dst) (a b c : Src) (lit : Lit)
  /-- R158: Packed bf16 fused multiply-add. -/
  | bfma2 (h : Head) (rnd : Rnd) (d : Dst) (a b c : Src) (lit : Lit)
  /-- R158: Packed element-wise minimum. -/
  | hmin2 (h : Head) (bf : Bool) (d : Dst) (a b : Src) (lit : Lit)
  /-- R158: Packed element-wise maximum. -/
  | hmax2 (h : Head) (bf : Bool) (d : Dst) (a b : Src) (lit : Lit)
  /-- R160: Converts a float into another float format. -/
  | cvtFF (h : Head) (dt st : FTy) (rnd : Rnd) (d : Dst) (a : Src) (lit : Lit)
  /-- R160: Converts a float into an integer type. -/
  | cvtIF (h : Head) (st : FTy) (dt : ITy) (rnd : Rnd) (d : Dst) (a : Src) (lit : Lit)
  /-- R160: Converts an integer into a float format. -/
  | cvtFI (h : Head) (dt : FTy) (st : ITy) (rnd : Rnd) (d : Dst) (a : Src) (lit : Lit)
  /-- R163: Converts two FP32 values to a slot's narrow format and packs them into a copy of c. -/
  | cvtn (h : Head) (slot pos : BitVec 3) (d : Dst) (a b c : Src) (lit : Lit)
  /-- R164: Decodes one narrow element into FP32 exactly. -/
  | cvtw (h : Head) (slot pos : BitVec 3) (d : Dst) (a : Src) (lit : Lit)
  /-- R165: Integer compare equal into a predicate, with optional combining. -/
  | icmpEq (h : Head) (comb : Comb) (pc : BitVec 3) (u : Bool) (d : Dst) (a b : Src) (lit : Lit)
  /-- R165: Integer compare not equal into a predicate. -/
  | icmpNe (h : Head) (comb : Comb) (pc : BitVec 3) (u : Bool) (d : Dst) (a b : Src) (lit : Lit)
  /-- R165: Integer compare less than into a predicate. -/
  | icmpLt (h : Head) (comb : Comb) (pc : BitVec 3) (u : Bool) (d : Dst) (a b : Src) (lit : Lit)
  /-- R165: Integer compare less or equal into a predicate. -/
  | icmpLe (h : Head) (comb : Comb) (pc : BitVec 3) (u : Bool) (d : Dst) (a b : Src) (lit : Lit)
  /-- R165: Integer compare greater than into a predicate. -/
  | icmpGt (h : Head) (comb : Comb) (pc : BitVec 3) (u : Bool) (d : Dst) (a b : Src) (lit : Lit)
  /-- R165: Integer compare greater or equal into a predicate. -/
  | icmpGe (h : Head) (comb : Comb) (pc : BitVec 3) (u : Bool) (d : Dst) (a b : Src) (lit : Lit)
  /-- R166: FP32 compare equal into a predicate. -/
  | fcmpEq (h : Head) (comb : Comb) (pc : BitVec 3) (d : Dst) (a b : Src) (lit : Lit)
  /-- R166: FP32 compare not equal into a predicate. -/
  | fcmpNe (h : Head) (comb : Comb) (pc : BitVec 3) (d : Dst) (a b : Src) (lit : Lit)
  /-- R166: FP32 compare less than into a predicate. -/
  | fcmpLt (h : Head) (comb : Comb) (pc : BitVec 3) (d : Dst) (a b : Src) (lit : Lit)
  /-- R166: FP32 compare less or equal into a predicate. -/
  | fcmpLe (h : Head) (comb : Comb) (pc : BitVec 3) (d : Dst) (a b : Src) (lit : Lit)
  /-- R166: FP32 compare greater than into a predicate. -/
  | fcmpGt (h : Head) (comb : Comb) (pc : BitVec 3) (d : Dst) (a b : Src) (lit : Lit)
  /-- R166: FP32 compare greater or equal into a predicate. -/
  | fcmpGe (h : Head) (comb : Comb) (pc : BitVec 3) (d : Dst) (a b : Src) (lit : Lit)
  /-- R166: FP32 unordered test into a predicate. -/
  | fcmpUn (h : Head) (comb : Comb) (pc : BitVec 3) (d : Dst) (a b : Src) (lit : Lit)
  /-- R167: Selects a or b per lane by a predicate. -/
  | sel (h : Head) (pn : Bool) (p : BitVec 3) (d : Dst) (a b : Src) (lit : Lit)
  /-- R167: Sets a predicate to a not equal to zero. -/
  | pset (h : Head) (d : Dst) (a : Src) (lit : Lit)
  /-- R167: Copies predicates p6-p0 into a register. -/
  | pmovGet (h : Head) (d : Dst)
  /-- R167: Writes predicates selected by a mask from a register. -/
  | pmovPut (h : Head) (dk : Bool) (a b : Src) (lit : Lit)
  /-- R168: Moves a value, popping a port or freeing a handle, or pushes to a write port. -/
  | mov (h : Head) (d : Dst) (a : Src) (lit : Lit)
  /-- R168: Moves a 64-bit pair. -/
  | movB64 (h : Head) (d : Dst) (a : Src) (lit : Lit)
  /-- R169: Reads a word of a constant bank by index, yielding 0 beyond its length. -/
  | movc (h : Head) (bank : BitVec 2) (d : Dst) (a : Src) (lit : Lit)
  /-- R172: Reads another lane's register by index. -/
  | shflIdx (h : Head) (d : Dst) (a b : Src) (lit : Lit)
  /-- R172: Reads the register of lane l minus s. -/
  | shflUp (h : Head) (d : Dst) (a b : Src) (lit : Lit)
  /-- R172: Reads the register of lane l plus s. -/
  | shflDown (h : Head) (d : Dst) (a b : Src) (lit : Lit)
  /-- R172: Reads the register of lane l xor s. -/
  | shflXor (h : Head) (d : Dst) (a b : Src) (lit : Lit)
  /-- R173: Writes the OR of a predicate over executing lanes. -/
  | voteAny (h : Head) (pn : Bool) (p : BitVec 3) (d : Dst)
  /-- R173: Writes the AND of a predicate over executing lanes. -/
  | voteAll (h : Head) (pn : Bool) (p : BitVec 3) (d : Dst)
  /-- R173: Writes a 64-bit mask of lanes whose predicate is true. -/
  | voteBallot (h : Head) (pn : Bool) (p : BitVec 3) (d : Dst)
  /-- R174: Reduces a source over the executing lanes of the group. -/
  | redg (h : Head) (ty : RTy) (op : ROp) (d : Dst) (a : Src) (lit : Lit)
  /-- R175: Inclusive prefix combination over executing lanes. -/
  | scanInc (h : Head) (ty : RTy) (op : ROp) (d : Dst) (a : Src) (lit : Lit)
  /-- R175: Exclusive prefix combination over executing lanes. -/
  | scanExc (h : Head) (ty : RTy) (op : ROp) (d : Dst) (a : Src) (lit : Lit)
  /-- R177: Reads a special register. -/
  | sread (h : Head) (sr : SReg) (d : Dst)
  /-- R178: Sets the core's ck count %cyc. -/
  | swrite (h : Head) (sr : SReg) (d : Dst) (a : Src) (lit : Lit)
  /-- R179: Produces a stateless random word from the key, %tid and a counter. -/
  | rand (h : Head) (f : Bool) (d : Dst) (a : Src) (lit : Lit)
  /-- R133: A word with an unassigned opcode raises ILLEGAL_INSTR when it comes to issue. -/
  | unassignedOpcode (code : BitVec 8) (body : BitVec 56)
  /-- R205: Has no effect beyond its stall count and counter. -/
  | nop (h : Head) (dk : Bool)
  /-- R182: Conditional direct branch per lane, splitting the group when both sides are non-empty. -/
  | bra (h : Head) (dk : Bool) (target : BitVec 24)
  /-- R183: Uniform direct branch that must be taken by all threads or none. -/
  | braU (h : Head) (dk : Bool) (target : BitVec 24)
  /-- R186: Indirect branch resolving per-lane targets, keeping one target and spawning the rest. -/
  | brx (h : Head) (dk : Bool) (x : XReg)
  /-- R188: Writes the return offset into a link register and branches as BRA. -/
  | call (h : Head) (dk : Bool) (ld : BitVec 8) (target : BitVec 24)
  /-- R189: Writes the return offset and branches indirectly as BRX. -/
  | callx (h : Head) (dk : Bool) (ld : BitVec 8) (x : XReg)
  /-- R190: Branches to the entry plus a per-lane offset without testing L. -/
  | ret (h : Head) (dk : Bool) (x : XReg)
  /-- R191: Opens a meeting record for the group's threads and sets their mr. -/
  | meet (h : Head) (dk : Bool) (ld : BitVec 8) (target : BitVec 24)
  /-- R192: Writes a value into each executing thread's mr. -/
  | mrset (h : Head) (dk : Bool) (x : XReg)
  /-- R195: Arrives at a workgroup or stage barrier and waits for its phase. -/
  | bar (h : Head) (dk stageForm : Bool)
  /-- R195: Arrives at a workgroup or stage barrier. -/
  | barArv (h : Head) (dk stageForm : Bool)
  /-- R195: Waits for the phase of the thread's barrier arrival and clears the bit. -/
  | barWait (h : Head) (dk stageForm : Bool)
  /-- R195: Arrives at the gang or launch barrier and waits. -/
  | barg (h : Head) (dk launchForm : Bool)
  /-- R198: Arrives at the gang or launch barrier. -/
  | bargArv (h : Head) (dk launchForm : Bool)
  /-- R198: Waits for the gang or launch barrier phase. -/
  | bargWait (h : Head) (dk launchForm : Bool)
  /-- R199: Requests one dispenser coordinate for the group into a scalar. -/
  | fetch (h : Head) (dk : Bool) (ld : BitVec 8) (p : BitVec 3)
  /-- R200: Requests one coordinate per executing lane. -/
  | fetchV (h : Head) (dk : Bool) (ld : BitVec 8) (p : BitVec 3)
  /-- R202: Ends each executing thread, lowering meeting and barrier counts. -/
  | exit (h : Head) (dk : Bool)
  /-- R203: Collective workgroup retirement point. -/
  | tail (h : Head) (dk : Bool)
  /-- R204: Ends the clause and makes the group the youngest for scheduling. -/
  | yield (h : Head) (dk : Bool)
  /-- R353: Arrives the group's threads with weights and N at a launch-wide resample. -/
  | resampleL (pz : BitVec 3) (a b : Src) (lit : Lit)
  /-- R353: Arrives the group's threads at a gang-wide resample. -/
  | resampleG (pz : BitVec 3) (a b : Src) (lit : Lit)
  /-- R226: Loads from a generic address per lane. -/
  | ld (h : Head) (sx : Bool) (m : MOpnd) (scope : Scope) (order : Order) (size : Size)
  /-- R227: Loads that may return a line not dropped by an acquire. -/
  | ldNc (h : Head) (sx : Bool) (m : MOpnd) (scope : Scope) (order : Order) (size : Size)
  /-- R227: Loads without allocating in L1. -/
  | ldStr (h : Head) (sx : Bool) (m : MOpnd) (scope : Scope) (order : Order) (size : Size)
  /-- R226: Loads from own scratchpad. -/
  | lds (h : Head) (sx : Bool) (m : MOpnd) (scope : Scope) (order : Order) (size : Size)
  /-- R226: Loads from a gang peer's scratchpad. -/
  | ldp (h : Head) (rank : BitVec 5) (m : MOpnd) (scope : Scope) (order : Order) (size : Size)
  /-- R228: Stores to a generic address, optionally on a channel. -/
  | st (h : Head) (m : MOpnd) (chan : Option (BitVec 4)) (scope : Scope) (order : Order) (size : Size)
  /-- R228: Stores to own scratchpad. -/
  | sts (h : Head) (m : MOpnd) (scope : Scope) (order : Order) (size : Size)
  /-- R228: Stores to a gang peer's scratchpad. -/
  | stp (h : Head) (rank : BitVec 5) (m : MOpnd) (scope : Scope) (order : Order) (size : Size)
  /-- R230: Atomic add at the home, returning the old value. -/
  | atomAdd (h : Head) (m : MOpnd) (chan : Option (BitVec 4)) (scope : Scope) (order : Order) (size : Size)
  /-- R230: Atomic minimum at the home. -/
  | atomMin (h : Head) (u : Bool) (m : MOpnd) (chan : Option (BitVec 4)) (scope : Scope) (order : Order) (size : Size)
  /-- R230: Atomic maximum at the home. -/
  | atomMax (h : Head) (u : Bool) (m : MOpnd) (chan : Option (BitVec 4)) (scope : Scope) (order : Order) (size : Size)
  /-- R230: Atomic AND at the home. -/
  | atomAnd (h : Head) (m : MOpnd) (chan : Option (BitVec 4)) (scope : Scope) (order : Order) (size : Size)
  /-- R230: Atomic OR at the home. -/
  | atomOr (h : Head) (m : MOpnd) (chan : Option (BitVec 4)) (scope : Scope) (order : Order) (size : Size)
  /-- R230: Atomic XOR at the home. -/
  | atomXor (h : Head) (m : MOpnd) (chan : Option (BitVec 4)) (scope : Scope) (order : Order) (size : Size)
  /-- R230: Atomic exchange at the home. -/
  | atomExch (h : Head) (m : MOpnd) (chan : Option (BitVec 4)) (scope : Scope) (order : Order) (size : Size)
  /-- R231: Atomic compare-and-swap at the home. -/
  | atomCas (h : Head) (m : MOpnd) (chan : Option (BitVec 4)) (scope : Scope) (order : Order) (size : Size)
  /-- R230: Atomic FP32 add at the home, rounded RNE. -/
  | atomFadd (h : Head) (m : MOpnd) (chan : Option (BitVec 4)) (scope : Scope) (order : Order)
  /-- R233: Non-returning atomic add. -/
  | redAdd (h : Head) (m : MOpnd) (chan : Option (BitVec 4)) (scope : Scope) (order : Order) (size : Size)
  /-- R233: Non-returning atomic minimum. -/
  | redMin (h : Head) (u : Bool) (m : MOpnd) (chan : Option (BitVec 4)) (scope : Scope) (order : Order) (size : Size)
  /-- R233: Non-returning atomic maximum. -/
  | redMax (h : Head) (u : Bool) (m : MOpnd) (chan : Option (BitVec 4)) (scope : Scope) (order : Order) (size : Size)
  /-- R233: Non-returning floating add, channelled with fixed-point contribution or unchannelled at the home. -/
  | redFadd (h : Head) (ty : FaddTy) (slot : BitVec 3) (m : MOpnd) (chan : Option (BitVec 4)) (scope : Scope) (order : Order)
  /-- R234: Waits for anonymous-stream acknowledgements and/or drops L1 lines at a scope. -/
  | fence (h : Head) (scope : Scope) (order : Order)
  /-- R235: Blocks the group until a 32-bit location satisfies a condition. -/
  | mwait (h : Head) (eq : Bool) (m : MOpnd) (scope : Scope) (order : Order)
  /-- R235: Blocks the group until a 64-bit location satisfies a condition. -/
  | mwaitB64 (h : Head) (eq : Bool) (m : MOpnd) (scope : Scope) (order : Order)
  /-- R238: Orders later operations of one channel after earlier operations of another. -/
  | chain (h : Head) (ka kb : BitVec 4)
  /-- R238: Orders later operations of a channel after all earlier channel and anonymous-stream operations. -/
  | chainAll (h : Head) (ka : BitVec 4)
  /-- R239: Returns a handle that completes when a channel's earlier operations are acknowledged. -/
  | drain (h : Head) (hd : BitVec 8) (k : BitVec 4)
  /-- R241: Reads the state of one session of a channel. -/
  | chstat (h : Head) (d : BitVec 8) (k : BitVec 4) (n : BitVec 2)
  /-- R242: Returns every SEVERED session of a channel to CLOSED. -/
  | chreset (h : Head) (k : BitVec 4)
  /-- R243: Makes a scratchpad range a replica of a global range. -/
  | subscribe (h : Head) (hd : BitVec 8) (q : BitVec 8) (n : BitVec 4)
  /-- R245: Ends a subscription. -/
  | unsub (h : Head) (n : BitVec 4)
  /-- R247: Sets the writer rank of a scratchpad window. -/
  | wown (h : Head) (rank : BitVec 5) (m : MOpnd)
  /-- R250: Starts a linear copy from a descriptor with a handle. -/
  | copy (h : Head) (hd base : BitVec 8) (chan : Option (BitVec 4)) (scope : Scope)
  /-- R251: Starts a strided tensor copy from a descriptor with a handle. -/
  | copyT (h : Head) (hd base : BitVec 8) (chan : Option (BitVec 4)) (scope : Scope) (size : Size)
  /-- R255: Starts a home gather of indexed elements into scratchpad. -/
  | hgather (h : Head) (hd base : BitVec 8) (size : Size)
  /-- R248: Sets up a circular buffer and zeroes its counters. -/
  | cbset (h : Head) (q : BitVec 8) (n : BitVec 3)
  /-- R249: Waits for and reserves producer entries of a circular buffer. -/
  | cbwaitP (h : Head) (d : BitVec 8) (cnt : Src) (n : BitVec 3) (lit : Lit)
  /-- R249: Waits for and reserves filled entries of a circular buffer. -/
  | cbwaitC (h : Head) (d : BitVec 8) (cnt : Src) (n : BitVec 3) (lit : Lit)
  /-- R249: Releases filled producer entries. -/
  | cbrelP (h : Head) (cnt : Src) (n : BitVec 3) (lit : Lit)
  /-- R249: Releases consumed entries. -/
  | cbrelC (h : Head) (cnt : Src) (n : BitVec 3) (lit : Lit)
  /-- R256: Writes whether a handle is done into a predicate. -/
  | htest (h : Head) (pd : BitVec 8) (hs : BitVec 8)
  /-- R257: Blocks until one or all named handles are done or free. -/
  | hwait (h : Head) (all : Bool) (d : BitVec 8) (m : Src) (lit : Lit)
  /-- R258: Requests cancellation of a handle's operation. -/
  | hcancel (h : Head) (hs : BitVec 8)
  /-- R259: Moves a handle to another group of the workgroup. -/
  | hmov (h : Head) (hd hs : BitVec 8) (sg : BitVec 5)
  /-- R322: Loads a packed B array into the macro columns of a window. -/
  | mldb (h : Head) (half : Bool) (fb : BitVec 3) (col : BitVec 8) (kb : BitVec 5) (sx : BitVec 8)
  /-- R322: Loads B from a gang peer's scratchpad. -/
  | mldbPe (h : Head) (half : Bool) (fb : BitVec 3) (col : BitVec 8) (kb : BitVec 5) (sx sy : BitVec 8)
  /-- R323: Loads A rows into the row buffer. -/
  | mlda (h : Head) (fa : BitVec 3) (row rows : BitVec 7) (kb : BitVec 6) (sx : BitVec 8)
  /-- R324: Loads one A row from vector registers, converting to bfp. -/
  | mldaV (h : Head) (fa : BitVec 3) (row : BitVec 7) (kb : BitVec 6) (sy : BitVec 8)
  /-- R326: Collective A broadcast over the M set. -/
  | mldaG (h : Head) (fa : BitVec 3) (row rows : BitVec 7) (kb : BitVec 6) (sx : BitVec 8)
  /-- R327: Zeroes accumulator rows and window, optionally resetting side registers. -/
  | mzero (h : Head) (side half : Bool) (row : BitVec 7) (col : BitVec 8) (rows : BitVec 7)
  /-- R328: Runs a matrix pass accumulating A times B. -/
  | mma (h : Head) (half : Bool) (fa fb : BitVec 3) (row : BitVec 7) (col : BitVec 8) (rows : BitVec 7)
  /-- R328: Runs a matrix pass starting from zero. -/
  | mmaZ (h : Head) (half : Bool) (fa fb : BitVec 3) (row : BitVec 7) (col : BitVec 8) (rows : BitVec 7)
  /-- R331: Online softmax step producing P in the row buffer and updating side registers. -/
  | mmas (h : Head) (fa : BitVec 3) (row : BitVec 7) (col : BitVec 8) (rows : BitVec 7)
  /-- R333: Multiplies accumulator rows by per-row factors from scratchpad. -/
  | mscale (h : Head) (half : Bool) (row : BitVec 7) (col : BitVec 8) (rows : BitVec 7) (sx : BitVec 8)
  /-- R333: Divides accumulator rows by l_i. -/
  | mscaleL (h : Head) (half : Bool) (row : BitVec 7) (col : BitVec 8) (rows : BitVec 7)
  /-- R334: Writes side registers m and l to scratchpad. -/
  | mside (h : Head) (row rows : BitVec 7) (sx : BitVec 8)
  /-- R334: Pushes side registers to q1. -/
  | msideQ (h : Head) (row rows : BitVec 7)
  /-- R334: Loads side registers from scratchpad. -/
  | msideW (h : Head) (row rows : BitVec 7) (sx : BitVec 8)
  /-- R335: Reads an accumulator row window into vector registers. -/
  | mrdV (h : Head) (half : Bool) (row : BitVec 7) (col : BitVec 8) (sy : BitVec 8)
  /-- R335: Writes accumulator rows to scratchpad, converted. -/
  | mrdSp (h : Head) (half : Bool) (fa : BitVec 3) (row : BitVec 7) (col : BitVec 8) (rows : BitVec 7) (sx : BitVec 8)
  /-- R335: Writes vector registers into an accumulator row window. -/
  | mwrV (h : Head) (half : Bool) (row : BitVec 7) (col : BitVec 8) (sy : BitVec 8)
  /-- R335: Reads scratchpad into accumulator rows, converted to FP32. -/
  | mwrSp (h : Head) (half : Bool) (fa : BitVec 3) (row : BitVec 7) (col : BitVec 8) (rows : BitVec 7) (sx : BitVec 8)
  /-- R336: Compresses a dense B to 2:4 sparse bfp with metadata. -/
  | mcomp (h : Head) (fb : BitVec 3) (n : BitVec 8) (kb : BitVec 6) (sx sy : BitVec 8)
  /-- R338: Runs a sparse matrix pass using metadata. -/
  | mspma (h : Head) (half : Bool) (fa fb : BitVec 3) (row : BitVec 7) (col : BitVec 8) (rows : BitVec 7) (sx : BitVec 8)
  /-- R338: Runs a sparse matrix pass starting from zero. -/
  | mspmaZ (h : Head) (half : Bool) (fa fb : BitVec 3) (row : BitVec 7) (col : BitVec 8) (rows : BitVec 7) (sx : BitVec 8)
  /-- R345: Drains an accumulator region, converted, to memory through the copy engine. -/
  | mdrain (h : Head) (half : Bool) (fa : BitVec 3) (row : BitVec 7) (col : BitVec 8) (rows : BitVec 7) (sx sy : BitVec 8)
  /-- R345: Drains an accumulator region as unchannelled floating reductions. -/
  | mdrainAdd (h : Head) (half : Bool) (fa : BitVec 3) (row : BitVec 7) (col : BitVec 8) (rows : BitVec 7) (sx sy : BitVec 8)
  /-- R325: Sets the core's gang split. -/
  | mgang (h : Head) (log : BitVec 2)
  /-- R343: Runs the residue comparison of the open pass. -/
  | mchk (h : Head)
  /-- R207: Raises TRAP with a recorded code. -/
  | trap (h : Head) (a : Src) (lit : Lit)
  /-- R208: Raises BREAKPOINT under a valid debug capability, otherwise acts as NOP. -/
  | brk (h : Head)
  /-- R210: Drops instruction-cache lines of a range at a scope and marks loop buffers stale. -/
  | icinv (h : Head) (scope : Scope) (a b : Src) (lit : Lit)
  /-- R213: Drops own L1 lines and writes back dirty L2 lines of a range. -/
  | dcflush (h : Head) (a b : Src) (lit : Lit)
  /-- R214: Writes one trace record with a tag. -/
  | trec (h : Head) (a : Src) (lit : Lit)
  /-- R214: Writes one trace record with a tag and per-lane values. -/
  | trecV (h : Head) (a b : Src) (lit : Lit)
  /-- R394: Starts a milestone cut to the next generation. -/
  | snap (h : Head) (d : Dst)
  /-- R109: A group fetches a whole clause and checks its header and content before the first word issues. -/
  | clauseFetch (core grp : Nat)
  /-- R184: A clause missing in the cluster instruction cache arrives and the waiting group becomes eligible. -/
  | clauseFetchMissFill (core grp : Nat)
  /-- R58: The Roundabout forms a group from ready spawn entries when a candidate set is full, aged 64 ck or the workgroup has no group. -/
  | groupFormation (core : Nat)
  /-- R61: After a formation has waited 64 ck with no free slot, a group at a parking point is parked to its park record. -/
  | groupPark (core : Nat)
  /-- R62: A parked group returns whole into a free group slot. -/
  | parkedGroupReturn (core : Nat)
  /-- R198: A gang or launch barrier completion from the Plaza reaches a member core. -/
  | plazaBarrierComplete (core : Nat) (launchForm : Bool)
  /-- R203: A workgroup waiting at TAIL with held threads that has issued nothing for 4096 ck raises ILLEGAL_CONVERGENCE. -/
  | tailDeadlockTimeout (core : Nat)
  /-- R79: A core's retirement tracker empties and the core leaves the launch. -/
  | retirementTrackerEmpty (core : Nat)
  /-- R71: The tile dispenser serves a fetch request, delivering coordinates and setting predicates. -/
  | coordinateDelivery (launch : Nat)
  /-- R226: Load data arrives and is written into the destination registers, decrementing the counter. -/
  | loadReply (core op : Nat)
  /-- R232: An atomic's old value returns and is written, with its flags. -/
  | atomReply (core op : Nat)
  /-- R228: A store, atomic or reduction arrives at its home and is performed. -/
  | homeWriteArrival (core op lane : Nat)
  /-- R269: A home acknowledges an anonymous-stream write, possibly letting a waiting release proceed. -/
  | storeAck (core op : Nat)
  /-- R246: A write arrives at a gang peer's scratchpad and is applied or refused by window writer or replica. -/
  | peerScratchpadWrite (core op lane : Nat)
  /-- R235: A write to a monitored line retests an MWAIT condition and may wake the group. -/
  | mwaitRetest (core grp : Nat)
  /-- R243: A replica holds its range and the SUBSCRIBE handle completes. -/
  | subscribeFillComplete (core n : Nat)
  /-- R245: The home removes a subscription record and UNSUB completes. -/
  | unsubComplete (core n : Nat)
  /-- R254: A group pushes a copy command to q2. -/
  | copyQ2Command (core grp : Nat) (cmd : BitVec 32)
  /-- R254: The copy engine takes a q2 command once fewer than four started copies are unpopped, and reads its descriptor. -/
  | q2CopyStart (core grp : Nat)
  /-- R253: A copy's payload becomes visible, its stamp and commit are written, and its handle or q3 status completes. -/
  | copyComplete (core op : Nat)
  /-- R255: A home gather finishes its elements and its handle completes. -/
  | hgatherComplete (core op : Nat)
  /-- R239: The operations covered by a DRAIN are acknowledged or discarded and its handle completes. -/
  | drainComplete (core op : Nat)
  /-- R210: A core receives an instruction-cache drop, acknowledges it and marks its loop buffer stale. -/
  | icinvDropReceive (core op : Nat)
  /-- R213: Every written-back line of a DCFLUSH is acknowledged by its controller. -/
  | dcflushComplete (core op : Nat)
  /-- R297: The channel engine sends a packet of consecutive session operations. -/
  | channelPacketSend (core stream nops link : Nat)
  /-- R300: The destination resequencer takes an arriving packet, holding, applying, discarding or refusing it. -/
  | channelPacketArrive (n : Nat)
  /-- R301: The destination sends a cumulative ACK within 32 ck of applying packets. -/
  | ackSend (die stream : Nat)
  /-- R301: The source accepts an in-range ACK, frees packets, completes operations and writes ATOM values. -/
  | channelAckReceive (n : Nat)
  /-- R302: A NAK marks a packet for resend once acked reaches its number minus 64. -/
  | nakReceive (n : Nat)
  /-- R299: A resequencer frees a stream entry on SCL. -/
  | sclReceive (n : Nat)
  /-- R306: A session with a packet last sent over a failed link receives a notice and enters RESYNC. -/
  | linkDownNotice (core stream : Nat)
  /-- R303: No ACK for 32,768 ck after the oldest outstanding send starts resynchronisation. -/
  | channelAckTimeout (core stream : Nat)
  /-- R304: The destination answers RSQ with RSA carrying its last applied number. -/
  | rsqReceive (n : Nat)
  /-- R304: The source adjusts acked and resends outstanding packets. -/
  | rsaReceive (n : Nat)
  /-- R304: A resynchronising attempt gets no RSA in its interval and the next attempt starts on another path. -/
  | resyncAttemptTimeout (core stream : Nat)
  /-- R41: A failed Causeway link is removed from routing and lost unchannelled requests are retransmitted. -/
  | causewayLinkFail (link : Nat)
  /-- R448: A link trains and agrees an AES-256-GCM key by SPDM key exchange before joining routing. -/
  | causewayLinkUp (link : Nat) (agreed : Bool)
  /-- R346: A group pushes a pass or zeroing command to q0. -/
  | matrixQ0Command (core grp : Nat) (cmd : BitVec 32)
  /-- R346: A q0 command moves to the matrix queue when it has room. -/
  | q0CommandEnqueue (core grp : Nat)
  /-- R317: The engine starts the next matrix word once the previous has ended and required scratchpad writes are performed. -/
  | matrixWordStart (core : Nat)
  /-- R318: The engine ends a matrix word, completing its counter and raising its flags. -/
  | matrixWordEnd (core : Nat)
  /-- R326: When all M-set members arrive, the source's rows are broadcast into every member's row buffer. -/
  | mldaGTransfer (core : Nat)
  /-- R345: A matrix drain's writes finish and its handle completes. -/
  | mdrainComplete (core op : Nat)
  /-- R456: A new 1024 ck window begins and waiting permit requests are granted in order. -/
  | tollgateWindow (island : Nat)
  /-- R355: When all live threads have arrived and are resident, the Plaza checks N and capacity and counts offspring. -/
  | resampleStepBegin (launch : Nat) (gangForm : Bool) (gang : Nat)
  /-- R371: New threads are placed, images copied, lineage set and new groups formed with q5 entries. -/
  | resampleStepEnd (launch : Nat) (gangForm : Bool) (gang : Nat)
  /-- R356: A workgroup with all live threads arrived or held and 4096 ck without issue raises ILLEGAL_CONVERGENCE. -/
  | resampleStallTimeout (core : Nat)
  /-- R375: An L2 miss is translated by the TLB beside its controller, walking the page tables on a miss. -/
  | l2MissTranslate (core op lane : Nat)
  /-- R383: The Depot writes a fault record into the tenant's fault ring and raises the interrupt, merging per page. -/
  | faultRecord (tenant : Nat)
  /-- R384: When the read index makes room, the Depot writes held records in order. -/
  | faultRingRoom (tenant : Nat)
  /-- R383: A Retry answer makes the page's log entries walk again and parked writes replay. -/
  | faultAnswerRetry (tenant id : Nat)
  /-- R383: A Refuse answer raises the cause's exception at the workgroup. -/
  | faultAnswerRefuse (tenant id : Nat)
  /-- R385: A workgroup blocked on faults for 4096 ck with another context eligible is switched out. -/
  | faultSwitchOut (core : Nat)
  /-- R385: A switched-out workgroup whose missing pages reach zero resumes on its own core, pre-empting its holder. -/
  | faultResume (launch wgno : Nat)
  /-- R376: The host changes a home map entry through the request block. -/
  | homeMapChange (asid region : Nat) (entry : BitVec 32)
  /-- R387: The Depot removes or narrows a mapping by dropping TLB entries, writing back lines and collecting acknowledgements. -/
  | shootDownRequest (asid va len : Nat)
  /-- R388: A core's control agent drops L1 lines and home map entries of the range and acknowledges. -/
  | shootdownReceive (core : Nat)
  /-- R389: The Depot marks a region migrating and starts its migration engine slot. -/
  | migrationRequest (asid region newHome newTier frame : Nat)
  /-- R390: The migration engine moves one line and advances the boundary register. -/
  | migrationLineMove (die slot : Nat)
  /-- R395: A core or home die receives the cut and moves to the next generation. -/
  | cutBroadcastReceive (tenant : Nat) (atDie : Bool) (n : Nat)
  /-- R397: A source sends a marker once its old-generation writes are acknowledged. -/
  | milestoneMarkerSend (tenant : Nat) (fromHub : Bool) (src die : Nat)
  /-- R397: A home counts a marker, closing its cut window when all sources report and completing SNAP. -/
  | milestoneMarkerReceive (tenant : Nat) (fromHub : Bool) (src die : Nat)
  /-- R399: The hub's drain engine copies one frozen page to the milestone area and frees its pool frame. -/
  | milestoneDrainPage (tenant : Nat)
  /-- R400: With no resident launch and no open window, the Depot restores image g and discards later generations. -/
  | revertExecute (queue : Nat)
  /-- R401: A doorbell write advances a queue's write index or halts it when beyond the ring. -/
  | queueDoorbell (queue : Nat) (value : BitVec 64) (wide : Bool)
  /-- R402: A NOP packet starts and completes at once. -/
  | nopPacket (queue : Nat)
  /-- R410: A LAUNCH packet's record is checked and the launch becomes pending or is refused. -/
  | launchPacket (queue : Nat)
  /-- R407: A WAIT packet blocks its queue until its word or token condition holds. -/
  | waitPacket (queue : Nat)
  /-- R402: A write to the watched line or token satisfies a WAIT and the queue proceeds. -/
  | waitConditionMet (queue : Nat)
  /-- R407: A SIGNAL packet writes or adds to a word or token slot as a release at .sys. -/
  | signalPacket (queue : Nat)
  /-- R407: A COPY packet starts a hub copy at .sys. -/
  | copyPacket (queue : Nat)
  /-- R402: A hub copy's last byte is acknowledged and the packet completes. -/
  | hubCopyComplete (queue num : Nat)
  /-- R407: A SNAP packet makes a cut as if issued by the hub and writes its status. -/
  | snapPacket (queue : Nat)
  /-- R407: A REVERT packet is accepted, or writes ILLEGAL_OPERAND for a bad generation. -/
  | revertPacket (queue : Nat)
  /-- R72: An APPEND extends or closes a stream-mode index space. -/
  | appendPacket (queue : Nat)
  /-- R433: A DUMP_RESUME continues a stopped dump from its stop offset. -/
  | dumpResumePacket (queue : Nat)
  /-- R403: A packet with an unassigned type halts its queue. -/
  | unassignedPacket (queue : Nat)
  /-- R412: A pending launch whose partition is free is admitted whole, with reservations and an acquire. -/
  | launchAdmission (launch : Nat)
  /-- R413: A pending launch of higher priority pre-empts the lower-priority launches holding its cores, whole. -/
  | preemption (launch : Nat)
  /-- R415: A core stops issue, waits for steps, queues and passes, and writes the context image. -/
  | contextSave (core : Nat)
  /-- R414: A pre-empted launch resumes whole on its own cores or a relocated placement. -/
  | launchResume (launch : Nat)
  /-- R427: A workgroup of a launch without a valid debug capability halts without a dump. -/
  | haltBroadcastReceive (core : Nat)
  /-- R429: After the drain, the Depot writes the dump header and sections into a free slot. -/
  | dumpWrite (core : Nat)
  /-- R434: A machine check kills the gang, discarding its state and returning its leases. -/
  | gangKill (launch gang : Nat)
  /-- R435: After its engine operations and orphans end, a killed gang is relaunched from the retained record, or the launch ends. -/
  | gangRelaunch (launch gang : Nat)
  /-- R439: STOP halts named workgroups with reason 1 and dumps them. -/
  | debugStop (wg : BitVec 32) (lid : PageLid) (cap : BitVec 64)
  /-- R439: RESUME lets workgroups halted by a stop, BREAKPOINT or TRAP issue again. -/
  | debugResume (wg : BitVec 32) (lid : PageLid) (cap : BitVec 64)
  /-- R439: END ends the launch under R427. -/
  | debugEnd (lid : PageLid) (cap : BitVec 64)
  /-- R439: TRESUME ends a trace suspension. -/
  | debugTresume (lid : PageLid) (cap : BitVec 64)
  /-- R437: The Depot mints a capability and returns its reference. -/
  | capabilityMint (r : CapReq)
  /-- R437: The Depot creates a child capability slot with a subset of rights. -/
  | capabilityDelegate (r : CapChild)
  /-- R438: A slot and its descendants are killed, changing BRK, traces and halted workgroups. -/
  | capabilityRevoke (slot : PageSlot)
  /-- R446: A host CXL.mem access to device memory is served coherently, with ciphertext or discard for confidential frames. -/
  | hostCxlMemAccess (pa : Nat) (write : Option (BitVec 8))
  /-- R448: The host writes the Causeway device number once. -/
  | deviceNumberWrite (value : BitVec 16)
  /-- R476: A read of the security event counter returns it and clears bit 31. -/
  | securityCounterRead
  /-- R452: Writing state 1 creates a tenant. -/
  | tenantCreate (tenant : Nat) (cfg : TenantCfg)
  /-- R452: Writing state 0 deletes a tenant unless it has mapped queues or launches. -/
  | tenantDelete (tenant : Nat)
  /-- R453: Maps a queue to a tenant and binds a Depot thread, or refuses the write. -/
  | queueMap (queue tenant log base : Nat)
  /-- R453: Discards unstarted packets and resumes the queue at its write index. -/
  | queueReset (queue : Nat)
  /-- R453: Discards unstarted packets and releases the Depot thread once started packets complete. -/
  | queueUnmap (queue : Nat)
  /-- R459: A write of req starts an operating-point change of an island. -/
  | islandPointRequest (island : Nat) (point : BitVec 3)
  /-- R459: The island's new operating point takes effect and busy clears. -/
  | islandPointChangeDone (island : Nat)
  /-- R459: A write of budget sets the island's permits per window. -/
  | islandBudgetWrite (island : Nat) (budget : BitVec 8)
  /-- R457: An island's junction temperature crossing 95 C halves or restores its effective budget. -/
  | thermalThrottle (island : Nat) (temp : BitVec 16)
  /-- R457: A junction at 105 C trips the module, stopping every core and ending all work. -/
  | thermalTrip (island : Nat) (temp : BitVec 16)
  /-- R458: A host write of bit 0 clears a trip when all islands are below 85 C, resetting the module. -/
  | thermalTripClear (value : BitVec 32)
  /-- R461: The host writes or clears an erasure table entry. -/
  | erasureTableWrite (rank entry : Nat) (value : BitVec 16)
  /-- R462: The patrol scrubber reads each HBM unit and L2 line and writes back corrected units. -/
  | patrolScrub (unit : Nat)
  /-- R463: A host write clears a corrected-event counter. -/
  | correctedCounterClear (kind n : Nat)
  /-- R464: At reset the ROM verifies and boots the image, records measurements and trains memory. -/
  | deviceReset
  /-- R467: The ownership mailbox returns a fresh device nonce. -/
  | nonce
  /-- R468: An accepted ownership transfer zeroes memory, destroys keys, installs the new owner and resets. -/
  | transfer (newOwner : BitVec 256) (nonce signature : Nat)
  /-- R466: SPDM GET_VERSION request answered. -/
  | getVersion
  /-- R466: SPDM GET_CAPABILITIES request answered. -/
  | getCapabilities
  /-- R466: SPDM NEGOTIATE_ALGORITHMS request answered. -/
  | negotiateAlgorithms
  /-- R466: SPDM GET_DIGESTS request answered. -/
  | getDigests
  /-- R466: SPDM GET_CERTIFICATE request answered. -/
  | getCertificate
  /-- R466: SPDM CHALLENGE answered with a signed response. -/
  | challenge (nonce : Nat)
  /-- R466: SPDM GET_MEASUREMENTS returns the SHA3-256 measurement slots. -/
  | getMeasurements (nonce : Nat)
  /-- R466: SPDM KEY_EXCHANGE request answered. -/
  | keyExchange (nonce : Nat)
  /-- R466: SPDM FINISH request answered. -/
  | finish (nonce : Nat)
  /-- R466: Any other SPDM request is answered with ERROR UnsupportedRequest. -/
  | spdmUnsupportedRequest (code : Nat)
  /-- R449: A write to a management register without behaviour of its own sets its field or is discarded. -/
  | registerWrite (bar offset : Nat) (value : BitVec 64) (bytes : Nat)
  /-- R128: A fixed-latency word completes L ck after its issue ends: its results become available and the scoreboard counter it named decrements, which can satisfy a header wait mask or let a group park. -/
  | fixedLatencyResult (core op : Nat)
deriving DecidableEq, Repr

end Sys2Proof
end

