-- ==== Sys2Proof/WellFormed.lean ====
section
/-! DEFINITION. Which instructions have an encoding: the checks of R113, R123, R125, R148, R174, R175, R222, R229, R233, R237, R238,
R320, R321 and R133 on the fields that the typed instruction still leaves open. -/

namespace Sys2Proof

/-- R123: 0x80 in a source of kind 11 is the long literal, so it is no short literal. -/
def Src.wf : Src → Bool
  | .short v => v != 0x80
  | _ => true

def Src.isLong : Src → Bool
  | .long => true
  | _ => false

/-- R123: a word has a literal exactly when a source names it. -/
def litWf (srcs : List Src) (lit : Lit) : Bool := srcs.all Src.wf && (srcs.any Src.isLong == lit.isSome)

/-- R113: a group-collective word carries pred 7 and neg 0. -/
def Head.collective (h : Head) : Bool := h.pred == 7 && !h.neg

/-- R148: without a combination the combining predicate is 0. -/
def Comb.wf : Comb → BitVec 3 → Bool
  | .none, pc => pc == 0
  | _, _ => true

/-- R174: bitwise operations have no float form. -/
def ROp.wf : RTy → ROp → Bool
  | .f32, .and => false
  | .f32, .or => false
  | .f32, .xor => false
  | _, _ => true

/-- R175: SCAN has no `first`. -/
def ROp.scanWf (ty : RTy) (op : ROp) : Bool := op != .first && op.wf ty

/-- R115: an order other than .rlx needs a scope. -/
def orderWf (scope : Scope) (order : Order) : Bool := order == .rlx || scope != .none

/-- R222: base kinds of memory words, and the offset. -/
def MOpnd.wf (m : MOpnd) : Bool := m.bk.toNat < 2

/-- R222: orders of loads. -/
def Order.isLoad (o : Order) : Bool := o == .rlx || o == .acq
/-- R222: orders of stores and reductions. -/
def Order.isStore (o : Order) : Bool := o == .rlx || o == .rel
/-- R222: scopes of the scratchpad words. -/
def Scope.isScratch (s : Scope) : Bool := s == .none || s == .wg || s == .gang
/-- R223: sign extension of sizes 0 and 1 only. -/
def sxWf (sx : Bool) (size : Size) : Bool := !sx || size == .b8 || size == .b16
/-- R222: a channelled word has scope 0 and order .rlx. -/
def chanWf (chan : Option (BitVec 4)) (scope : Scope) (order : Order) : Bool :=
  chan.isNone || (scope == .none && order == .rlx)
/-- R230: sizes of atomics. -/
def Size.isAtomic (z : Size) : Bool := z == .b32 || z == .b64
/-- R321: the window of a matrix word. -/
def winWf (half : Bool) (col : BitVec 8) : Bool := col == 0 || (half && col == 128)
/-- R321: the row range of a matrix word. -/
def rowsWf (row rows : BitVec 7) : Bool := row.toNat + rows.toNat < 128
/-- R222: a count operand of the circular-buffer words is scalar-space or literal. -/
def Src.isCount : Src → Bool
  | .sca _ => true
  | .short _ => true
  | .long => true
  | _ => false
/-- R222: a mask operand of HWAIT is not a vector register. -/
def Src.notVec : Src → Bool
  | .vec _ => false
  | _ => true

/-- R133: whether a code is unassigned. -/
def codeUnassigned (op : Nat) : Bool :=
  op == 0 || op == 0x2E || op == 0x2F || (0x3B ≤ op && op ≤ 0x3F) || (0x67 ≤ op && op ≤ 0x6F) || op == 0x7F
    || (0x85 ≤ op && op ≤ 0x8F) || (0xAB ≤ op && op ≤ 0xAF) || (0xBC ≤ op && op ≤ 0xBF) || (0xD7 ≤ op && op ≤ 0xDF)
    || 0xE7 ≤ op

/-- Well-formed: the instruction has an encoding. A step that is no instruction word has no fields to check. -/
def Instr.wf : Instr → Bool
  | .iadd _ _ _ _ a b lit => litWf [a, b] lit
  | .iaddB64 _ _ _ _ a b lit => litWf [a, b] lit
  | .iaddc _ _ _ _ a b lit => litWf [a, b] lit
  | .isub _ _ _ _ a b lit => litWf [a, b] lit
  | .isubB64 _ _ _ _ a b lit => litWf [a, b] lit
  | .imul _ _ a b lit => litWf [a, b] lit
  | .imulB64 _ _ a b lit => litWf [a, b] lit
  | .imulh _ _ _ a b lit => litWf [a, b] lit
  | .imad _ _ a b c lit => litWf [a, b, c] lit
  | .imadB64 _ _ _ a b c lit => litWf [a, b, c] lit
  | .imin _ _ _ a b lit => litWf [a, b] lit
  | .imax _ _ _ a b lit => litWf [a, b] lit
  | .iabs _ _ _ a lit => litWf [a] lit
  | .ineg _ _ _ a lit => litWf [a] lit
  | .lea _ _ _ _ a b lit => litWf [a, b] lit
  | .and _ _ a b lit => litWf [a, b] lit
  | .or _ _ a b lit => litWf [a, b] lit
  | .xor _ _ a b lit => litWf [a, b] lit
  | .not _ _ a lit => litWf [a] lit
  | .shl _ _ a b lit => litWf [a, b] lit
  | .shr _ _ a b lit => litWf [a, b] lit
  | .sar _ _ a b lit => litWf [a, b] lit
  | .rol _ _ a b lit => litWf [a, b] lit
  | .bfx _ _ _ a b lit => litWf [a, b] lit
  | .bfi _ _ a b c lit => litWf [a, b, c] lit
  | .popc _ _ a lit => litWf [a] lit
  | .clz _ _ a lit => litWf [a] lit
  | .brev _ _ a lit => litWf [a] lit
  | .shlB64 _ _ a b lit => litWf [a, b] lit
  | .shrB64 _ _ a b lit => litWf [a, b] lit
  | .sarB64 _ _ a b lit => litWf [a, b] lit
  | .fadd _ _ _ _ a b lit => litWf [a, b] lit
  | .fsub _ _ _ _ a b lit => litWf [a, b] lit
  | .fmul _ _ _ _ a b lit => litWf [a, b] lit
  | .ffma _ _ _ _ _ a b c lit => litWf [a, b, c] lit
  | .fmin _ _ _ a b lit => litWf [a, b] lit
  | .fmax _ _ _ a b lit => litWf [a, b] lit
  | .frnd _ _ _ _ a lit => litWf [a] lit
  | .frcp _ _ _ a lit => litWf [a] lit
  | .frsq _ _ _ a lit => litWf [a] lit
  | .fsqrt _ _ _ a lit => litWf [a] lit
  | .fexp2 _ _ _ a lit => litWf [a] lit
  | .flog2 _ _ _ a lit => litWf [a] lit
  | .fsin _ _ _ a lit => litWf [a] lit
  | .fcos _ _ _ a lit => litWf [a] lit
  | .hadd2 _ _ _ _ a b lit => litWf [a, b] lit
  | .hmul2 _ _ _ _ a b lit => litWf [a, b] lit
  | .hfma2 _ _ _ a b c lit => litWf [a, b, c] lit
  | .bfma2 _ _ _ a b c lit => litWf [a, b, c] lit
  | .hmin2 _ _ _ a b lit => litWf [a, b] lit
  | .hmax2 _ _ _ a b lit => litWf [a, b] lit
  | .cvtFF _ _ _ _ _ a lit => litWf [a] lit
  | .cvtIF _ _ _ _ _ a lit => litWf [a] lit
  | .cvtFI _ _ _ _ _ a lit => litWf [a] lit
  | .cvtn _ _ _ _ a b c lit => litWf [a, b, c] lit
  | .cvtw _ _ _ _ a lit => litWf [a] lit
  | .icmpEq _ comb pc _ _ a b lit => litWf [a, b] lit && comb.wf pc
  | .icmpNe _ comb pc _ _ a b lit => litWf [a, b] lit && comb.wf pc
  | .icmpLt _ comb pc _ _ a b lit => litWf [a, b] lit && comb.wf pc
  | .icmpLe _ comb pc _ _ a b lit => litWf [a, b] lit && comb.wf pc
  | .icmpGt _ comb pc _ _ a b lit => litWf [a, b] lit && comb.wf pc
  | .icmpGe _ comb pc _ _ a b lit => litWf [a, b] lit && comb.wf pc
  | .fcmpEq _ comb pc _ a b lit => litWf [a, b] lit && comb.wf pc
  | .fcmpNe _ comb pc _ a b lit => litWf [a, b] lit && comb.wf pc
  | .fcmpLt _ comb pc _ a b lit => litWf [a, b] lit && comb.wf pc
  | .fcmpLe _ comb pc _ a b lit => litWf [a, b] lit && comb.wf pc
  | .fcmpGt _ comb pc _ a b lit => litWf [a, b] lit && comb.wf pc
  | .fcmpGe _ comb pc _ a b lit => litWf [a, b] lit && comb.wf pc
  | .fcmpUn _ comb pc _ a b lit => litWf [a, b] lit && comb.wf pc
  | .sel _ _ _ _ a b lit => litWf [a, b] lit
  | .pset _ _ a lit => litWf [a] lit
  | .pmovGet _ _ => true
  | .pmovPut _ _ a b lit => litWf [a, b] lit
  | .mov _ _ a lit => litWf [a] lit
  | .movB64 _ _ a lit => litWf [a] lit
  | .movc _ _ _ a lit => litWf [a] lit
  | .shflIdx _ _ a b lit => litWf [a, b] lit
  | .shflUp _ _ a b lit => litWf [a, b] lit
  | .shflDown _ _ a b lit => litWf [a, b] lit
  | .shflXor _ _ a b lit => litWf [a, b] lit
  | .voteAny _ _ _ _ => true
  | .voteAll _ _ _ _ => true
  | .voteBallot _ _ _ _ => true
  | .redg _ ty op _ a lit => litWf [a] lit && op.wf ty
  | .scanInc _ ty op _ a lit => litWf [a] lit && op.scanWf ty
  | .scanExc _ ty op _ a lit => litWf [a] lit && op.scanWf ty
  | .sread _ _ _ => true
  | .swrite _ _ _ a lit => litWf [a] lit
  | .rand _ _ _ a lit => litWf [a] lit
  | .unassignedOpcode code _ => codeUnassigned code.toNat
  | .nop _ _ => true
  | .bra _ _ _ => true
  | .braU _ _ _ => true
  | .brx _ _ _ => true
  | .call _ _ _ _ => true
  | .callx _ _ _ _ => true
  | .ret _ _ _ => true
  | .meet h _ _ _ => h.collective
  | .mrset _ _ _ => true
  | .bar h _ _ => h.collective
  | .barArv h _ _ => h.collective
  | .barWait h _ _ => h.collective
  | .barg h _ _ => h.collective
  | .bargArv h _ _ => h.collective
  | .bargWait h _ _ => h.collective
  | .fetch _ _ _ _ => true
  | .fetchV _ _ _ _ => true
  | .exit _ _ => true
  | .tail h _ => h.collective
  | .yield _ _ => true
  | .resampleL _ a b lit => litWf [a, b] lit
  | .resampleG _ a b lit => litWf [a, b] lit
  | .ld _ sx m scope order size => m.wf && orderWf scope order && order.isLoad && sxWf sx size
  | .ldNc _ sx m scope order size => m.wf && orderWf scope order && order.isLoad && sxWf sx size
  | .ldStr _ sx m scope order size => m.wf && orderWf scope order && order.isLoad && sxWf sx size
  | .lds _ sx m scope order size => m.wf && orderWf scope order && order.isLoad && sxWf sx size && scope.isScratch
  | .ldp _ _ m scope order _ => m.wf && orderWf scope order && order.isLoad && scope.isScratch
  | .st _ m chan scope order _ => m.wf && orderWf scope order && order.isStore && chanWf chan scope order
  | .sts _ m scope order _ => m.wf && orderWf scope order && scope.isScratch && order.isStore
  | .stp _ _ m scope order _ => m.wf && orderWf scope order && scope.isScratch && order.isStore
  | .atomAdd _ m chan scope order size => m.wf && orderWf scope order && size.isAtomic && chanWf chan scope order
  | .atomMin _ _ m chan scope order size => m.wf && orderWf scope order && size.isAtomic && chanWf chan scope order
  | .atomMax _ _ m chan scope order size => m.wf && orderWf scope order && size.isAtomic && chanWf chan scope order
  | .atomAnd _ m chan scope order size => m.wf && orderWf scope order && size.isAtomic && chanWf chan scope order
  | .atomOr _ m chan scope order size => m.wf && orderWf scope order && size.isAtomic && chanWf chan scope order
  | .atomXor _ m chan scope order size => m.wf && orderWf scope order && size.isAtomic && chanWf chan scope order
  | .atomExch _ m chan scope order size => m.wf && orderWf scope order && size.isAtomic && chanWf chan scope order
  | .atomCas _ m chan scope order size => m.wf && orderWf scope order && size.isAtomic && chanWf chan scope order
  | .atomFadd _ m chan scope order => m.wf && orderWf scope order && chanWf chan scope order
  | .redAdd _ m chan scope order size => m.wf && orderWf scope order && order.isStore && size.isAtomic && chanWf chan scope order
  | .redMin _ _ m chan scope order size => m.wf && orderWf scope order && order.isStore && size.isAtomic && chanWf chan scope order
  | .redMax _ _ m chan scope order size => m.wf && orderWf scope order && order.isStore && size.isAtomic && chanWf chan scope order
  | .redFadd _ _ slot m chan scope order => m.wf && orderWf scope order && order.isStore && chanWf chan scope order && (chan.isSome || slot == 0)
  | .fence _ scope order => scope != .none && order != .rlx
  | .mwait _ _ m scope order => m.wf && orderWf scope order && order.isLoad && m.dk
  | .mwaitB64 _ _ m scope order => m.wf && orderWf scope order && order.isLoad && m.dk
  | .chain _ ka kb => ka != kb
  | .chainAll _ _ => true
  | .drain _ _ _ => true
  | .chstat _ _ _ _ => true
  | .chreset _ _ => true
  | .subscribe _ _ _ _ => true
  | .unsub _ _ => true
  | .wown _ _ m => m.wf
  | .copy _ _ _ chan scope => chanWf chan scope .rlx
  | .copyT _ _ _ chan scope _ => chanWf chan scope .rlx
  | .hgather _ _ _ _ => true
  | .cbset _ _ _ => true
  | .cbwaitP _ _ cnt _ lit => litWf [cnt] lit && cnt.isCount
  | .cbwaitC _ _ cnt _ lit => litWf [cnt] lit && cnt.isCount
  | .cbrelP _ cnt _ lit => litWf [cnt] lit && cnt.isCount
  | .cbrelC _ cnt _ lit => litWf [cnt] lit && cnt.isCount
  | .htest _ _ _ => true
  | .hwait _ _ _ m lit => litWf [m] lit && m.notVec
  | .hcancel _ _ => true
  | .hmov _ _ _ _ => true
  | .mldb h half _ col _ _ => h.collective && winWf half col
  | .mldbPe h half _ col _ _ _ => h.collective && winWf half col
  | .mlda h _ row rows _ _ => h.collective && rowsWf row rows
  | .mldaV h _ _ _ _ => h.collective
  | .mldaG h _ row rows _ _ => h.collective && rowsWf row rows
  | .mzero h _ half row col rows => h.collective && winWf half col && rowsWf row rows
  | .mma h half _ _ row col rows => h.collective && winWf half col && rowsWf row rows
  | .mmaZ h half _ _ row col rows => h.collective && winWf half col && rowsWf row rows
  | .mmas h _ row col rows => h.collective && rowsWf row rows && (col == 0 || col == 128)
  | .mscale h half row col rows _ => h.collective && winWf half col && rowsWf row rows
  | .mscaleL h half row col rows => h.collective && winWf half col && rowsWf row rows
  | .mside h row rows _ => h.collective && rowsWf row rows
  | .msideQ h row rows => h.collective && rowsWf row rows && rows.toNat < 2
  | .msideW h row rows _ => h.collective && rowsWf row rows
  | .mrdV h half _ col _ => h.collective && winWf half col
  | .mrdSp h half _ row col rows _ => h.collective && winWf half col && rowsWf row rows
  | .mwrV h half _ col _ => h.collective && winWf half col
  | .mwrSp h half _ row col rows _ => h.collective && winWf half col && rowsWf row rows
  | .mcomp h _ _ kb _ _ => h.collective && kb.toNat % 2 == 1
  | .mspma h half _ _ row col rows _ => h.collective && winWf half col && rowsWf row rows
  | .mspmaZ h half _ _ row col rows _ => h.collective && winWf half col && rowsWf row rows
  | .mdrain h half _ row col rows _ _ => h.collective && winWf half col && rowsWf row rows
  | .mdrainAdd h half _ row col rows _ _ => h.collective && winWf half col && rowsWf row rows
  | .mgang h log => h.collective && log.toNat < 3
  | .mchk h => h.collective
  | .trap _ a lit => litWf [a] lit
  | .brk _ => true
  | .icinv _ scope a b lit => litWf [a, b] lit && scope != .none
  | .dcflush _ a b lit => litWf [a, b] lit
  | .trec _ a lit => litWf [a] lit
  | .trecV _ a b lit => litWf [a, b] lit
  | .snap _ _ => true
  | .clauseFetch _ _ => true
  | .clauseFetchMissFill _ _ => true
  | .groupFormation _ => true
  | .groupPark _ => true
  | .parkedGroupReturn _ => true
  | .plazaBarrierComplete _ _ => true
  | .tailDeadlockTimeout _ => true
  | .retirementTrackerEmpty _ => true
  | .coordinateDelivery _ => true
  | .loadReply _ _ => true
  | .atomReply _ _ => true
  | .homeWriteArrival _ _ _ => true
  | .storeAck _ _ => true
  | .peerScratchpadWrite _ _ _ => true
  | .mwaitRetest _ _ => true
  | .subscribeFillComplete _ _ => true
  | .unsubComplete _ _ => true
  | .copyQ2Command _ _ _ => true
  | .q2CopyStart _ _ => true
  | .copyComplete _ _ => true
  | .hgatherComplete _ _ => true
  | .drainComplete _ _ => true
  | .icinvDropReceive _ _ => true
  | .dcflushComplete _ _ => true
  | .channelPacketSend _ _ _ _ => true
  | .channelPacketArrive _ => true
  | .ackSend _ _ => true
  | .channelAckReceive _ => true
  | .nakReceive _ => true
  | .sclReceive _ => true
  | .linkDownNotice _ _ => true
  | .channelAckTimeout _ _ => true
  | .rsqReceive _ => true
  | .rsaReceive _ => true
  | .resyncAttemptTimeout _ _ => true
  | .causewayLinkFail _ => true
  | .causewayLinkUp _ _ => true
  | .matrixQ0Command _ _ _ => true
  | .q0CommandEnqueue _ _ => true
  | .matrixWordStart _ => true
  | .matrixWordEnd _ => true
  | .mldaGTransfer _ => true
  | .mdrainComplete _ _ => true
  | .tollgateWindow _ => true
  | .resampleStepBegin _ _ _ => true
  | .resampleStepEnd _ _ _ => true
  | .resampleStallTimeout _ => true
  | .l2MissTranslate _ _ _ => true
  | .faultRecord _ => true
  | .faultRingRoom _ => true
  | .faultAnswerRetry _ _ => true
  | .faultAnswerRefuse _ _ => true
  | .faultSwitchOut _ => true
  | .faultResume _ _ => true
  | .homeMapChange _ _ _ => true
  | .shootDownRequest _ _ _ => true
  | .shootdownReceive _ => true
  | .migrationRequest _ _ _ _ _ => true
  | .migrationLineMove _ _ => true
  | .cutBroadcastReceive _ _ _ => true
  | .milestoneMarkerSend _ _ _ _ => true
  | .milestoneMarkerReceive _ _ _ _ => true
  | .milestoneDrainPage _ => true
  | .revertExecute _ => true
  | .queueDoorbell _ _ _ => true
  | .nopPacket _ => true
  | .launchPacket _ => true
  | .waitPacket _ => true
  | .waitConditionMet _ => true
  | .signalPacket _ => true
  | .copyPacket _ => true
  | .hubCopyComplete _ _ => true
  | .snapPacket _ => true
  | .revertPacket _ => true
  | .appendPacket _ => true
  | .dumpResumePacket _ => true
  | .unassignedPacket _ => true
  | .launchAdmission _ => true
  | .preemption _ => true
  | .contextSave _ => true
  | .launchResume _ => true
  | .haltBroadcastReceive _ => true
  | .dumpWrite _ => true
  | .gangKill _ _ => true
  | .gangRelaunch _ _ => true
  | .debugStop _ _ _ => true
  | .debugResume _ _ _ => true
  | .debugEnd _ _ => true
  | .debugTresume _ _ => true
  | .capabilityMint _ => true
  | .capabilityDelegate _ => true
  | .capabilityRevoke _ => true
  | .hostCxlMemAccess _ _ => true
  | .deviceNumberWrite _ => true
  | .securityCounterRead => true
  | .tenantCreate _ _ => true
  | .tenantDelete _ => true
  | .queueMap _ _ _ _ => true
  | .queueReset _ => true
  | .queueUnmap _ => true
  | .islandPointRequest _ _ => true
  | .islandPointChangeDone _ => true
  | .islandBudgetWrite _ _ => true
  | .thermalThrottle _ _ => true
  | .thermalTrip _ _ => true
  | .thermalTripClear _ => true
  | .erasureTableWrite _ _ _ => true
  | .patrolScrub _ => true
  | .correctedCounterClear _ _ => true
  | .deviceReset => true
  | .nonce => true
  | .transfer _ _ _ => true
  | .getVersion => true
  | .getCapabilities => true
  | .negotiateAlgorithms => true
  | .getDigests => true
  | .getCertificate => true
  | .challenge _ => true
  | .getMeasurements _ => true
  | .keyExchange _ => true
  | .finish _ => true
  | .spdmUnsupportedRequest _ => true
  | .registerWrite _ _ _ _ => true
  | .fixedLatencyResult _ _ => true

end Sys2Proof
end

