-- ==== Sys2Proof/Decode.lean ====
section
/-! DEFINITION. The decoder and the encoder of instruction words (R106, R112 to R125, R132, R133, R148, R159, R180, R206,
R222, R233, R320, R321, R351, R394). The decoder answers every 64-bit word, with the word that follows it in its clause where it owns
a long literal, and rejects by name; every rejection is an ILLEGAL_INSTR at issue (R134 item 1). -/

namespace Sys2Proof

/-- Why a word is no instruction: each is an ILLEGAL_INSTR (R123, R125, R134). -/
inductive Reject where
  /-- There is no word to decode. -/
  | noWord
  /-- A long literal is named and no word follows in the clause; the clause check of R109 comes first. -/
  | literalMissing
  /-- Bits [63:32] of the long-literal word are not zero (R123). -/
  | literalHigh
  /-- A collective word with a predicate (R113). -/
  | collectivePredicate
  /-- A field outside what R125, R148, R222, R320 and R351 allow: each name says which. -/
  | reservedField | unusedSource | modifier | headField
  | baseKind | dataKind | channelField | scopeField | orderField | orderWithoutScope | sizeField | opField | signExtend
  | chainItself | window | rowRange | blockCount | gangSplit
  /-- No instruction of this row and format: not reached for an assigned code. -/
  | noEncoding
deriving DecidableEq, Repr

/-- A bit as a number. -/
def bitN (b : Bool) : Nat := if b then 1 else 0

/-- A bit as a field of one bit. -/
def bit (b : Bool) : BitVec 1 := BitVec.ofBool b

/-! ## The codes of the named values -/

/-- R85: the rounding codes. -/
def Rnd.code : Rnd → Nat
  | .rne => 0 | .rz => 1 | .rd => 2 | .ru => 3
def Rnd.ofCode (n : Nat) : Rnd :=
  match n % 4 with | 0 => .rne | 1 => .rz | 2 => .rd | _ => .ru
/-- R159: float types. -/
def FTy.code : FTy → Nat
  | .f32 => 0 | .f16 => 1 | .bf16 => 2
def FTy.ofCode (n : Nat) : FTy :=
  match n with | 0 => .f32 | 1 => .f16 | _ => .bf16
/-- R159: integer types. -/
def ITy.code : ITy → Nat
  | .s32 => 0 | .b32 => 1 | .s64 => 2 | .b64 => 3
def ITy.ofCode (n : Nat) : ITy :=
  match n % 4 with | 0 => .s32 | 1 => .b32 | 2 => .s64 | _ => .b64
/-- R148: combining. -/
def Comb.code : Comb → Nat
  | .none => 0 | .and => 1 | .or => 2 | .xor => 3
def Comb.ofCode (n : Nat) : Comb :=
  match n % 4 with | 0 => .none | 1 => .and | 2 => .or | _ => .xor
/-- R148: types of REDG and SCAN. -/
def RTy.code : RTy → Nat
  | .s32 => 0 | .b32 => 1 | .f32 => 2
def RTy.ofCode (n : Nat) : RTy :=
  match n with | 0 => .s32 | 1 => .b32 | _ => .f32
/-- R148: operations of REDG and SCAN. -/
def ROp.code : ROp → Nat
  | .add => 0 | .min => 1 | .max => 2 | .and => 3 | .or => 4 | .xor => 5 | .first => 6
def ROp.ofCode (n : Nat) : ROp :=
  match n % 8 with
  | 0 => .add | 1 => .min | 2 => .max | 3 => .and | 4 => .or | 5 => .xor | _ => .first
/-- R176: the special registers. -/
def SReg.code : SReg → Nat
  | .tid => 0 | .lane => 1 | .gid => 2 | .gw => 3 | .wgx => 4 | .wgy => 5 | .wgz => 6 | .stage => 7 | .gang => 8
  | .grank => 9 | .core => 10 | .die => 11 | .dev => 12 | .gen => 13 | .par => 14 | .root => 15 | .copy => 16
  | .phase => 17 | .ms => 18 | .cyc => 19
def SReg.ofCode (n : Nat) : SReg :=
  match n with
  | 0 => .tid | 1 => .lane | 2 => .gid | 3 => .gw | 4 => .wgx | 5 => .wgy | 6 => .wgz | 7 => .stage | 8 => .gang
  | 9 => .grank | 10 => .core | 11 => .die | 12 => .dev | 13 => .gen | 14 => .par | 15 => .root | 16 => .copy
  | 17 => .phase | 18 => .ms | _ => .cyc
/-- R115: scopes. -/
def Scope.code : Scope → Nat
  | .none => 0 | .wg => 1 | .gang => 2 | .die => 3 | .dev => 4 | .sys => 5
def Scope.ofCode (n : Nat) : Scope :=
  match n with | 1 => .wg | 2 => .gang | 3 => .die | 4 => .dev | 5 => .sys | _ => .none
/-- R115: orders. -/
def Order.code : Order → Nat
  | .rlx => 0 | .acq => 1 | .rel => 2 | .ar => 3
def Order.ofCode (n : Nat) : Order :=
  match n with | 1 => .acq | 2 => .rel | 3 => .ar | _ => .rlx
/-- R115: access sizes. -/
def Size.code : Size → Nat
  | .b8 => 0 | .b16 => 1 | .b32 => 2 | .b64 => 3 | .b128 => 4
def Size.ofCode (n : Nat) : Size :=
  match n with | 0 => .b8 | 1 => .b16 | 2 => .b32 | 3 => .b64 | _ => .b128
/-- R115, R219: bytes of an access. -/
def Size.bytes (z : Size) : Nat := 2 ^ z.code
/-- R233: types of RED.fadd. -/
def FaddTy.code : FaddTy → Nat
  | .f32 => 0 | .f16 => 1 | .bf16 => 2
def FaddTy.ofCode (n : Nat) : FaddTy :=
  match n with | 0 => .f32 | 1 => .f16 | _ => .bf16
/-- R233: the size field that goes with the type. -/
def FaddTy.size : FaddTy → Nat
  | .f32 => 2 | _ => 1

/-- R148, R174: legal type and operation of REDG. -/
def redgOk (m : Nat) : Bool := m < 24 && m % 8 < 7 && (m / 8 < 2 || m % 8 < 3 || m % 8 == 6)
/-- R175: legal type and operation of SCAN. -/
def scanOk (m : Nat) : Bool := m < 24 && m % 8 < 6 && (m / 8 < 2 || m % 8 < 3)
/-- R321: the window of a matrix word. -/
def windowOk (x : BitVec 1) (col : BitVec 8) : Bool := if x == 0 then col == 0 else col == 0 || col == 128

/-! ## The fields of the formats (R114 to R118) -/

/-- R120: kind and field of a source. -/
def Src.kf : Src → BitVec 2 × BitVec 8
  | .vec r => (0, r)
  | .sca f => (1, f)
  | .cst bk w => (2, bk ++ w)
  | .short v => (3, v)
  | .long => (3, 0x80)

/-- R120: the source that a kind and a field name. -/
def Src.ofKf (k : BitVec 2) (f : BitVec 8) : Src :=
  match k.toNat with
  | 0 => .vec f
  | 1 => .sca f
  | 2 => .cst (f.extractLsb' 6 2) (f.extractLsb' 0 6)
  | _ => if f = 0x80 then .long else .short f

/-- Format V and format S (R114, R118). -/
structure VRaw where
  dst : BitVec 8
  dk : BitVec 1
  ak : BitVec 2
  a : BitVec 8
  bk : BitVec 2
  b : BitVec 8
  ck : BitVec 2
  c : BitVec 8
  mod : BitVec 6
deriving DecidableEq, Repr

/-- Format M (R115). -/
structure MRaw where
  data : BitVec 8
  dk : BitVec 1
  bk : BitVec 2
  base : BitVec 8
  off : BitVec 8
  ch : BitVec 1
  chan : BitVec 4
  scope : BitVec 3
  order : BitVec 2
  size : BitVec 3
  op : BitVec 5
deriving DecidableEq, Repr

/-- Format C (R116). -/
structure CRaw where
  ld : BitVec 8
  dk : BitVec 1
  target : BitVec 24
  op : BitVec 12
deriving DecidableEq, Repr

/-- Format X (R117). -/
structure XRaw where
  fa : BitVec 3
  fb : BitVec 3
  row : BitVec 7
  col : BitVec 8
  rows : BitVec 7
  sx : BitVec 8
  sy : BitVec 8
  x : BitVec 1
deriving DecidableEq, Repr

/-- Bits [44:0] of a word, by format. -/
inductive Body where
  | v (r : VRaw) | m (r : MRaw) | c (r : CRaw) | x (r : XRaw)
deriving DecidableEq, Repr

/-- The formats of R119. -/
inductive Fmt where
  | v | c | m | x
deriving DecidableEq, Repr

def vRaw (dst : BitVec 8) (dk : BitVec 1) (a b c : BitVec 2 × BitVec 8) (mod : Nat) : VRaw :=
  ⟨dst, dk, a.1, a.2, b.1, b.2, c.1, c.2, BitVec.ofNat 6 mod⟩
def mRaw (data : BitVec 8) (dk : BitVec 1) (base : BitVec 8) (bk : BitVec 2) (off : BitVec 8) (chan : Option (BitVec 4))
    (scope order size op : Nat) : MRaw :=
  ⟨data, dk, bk, base, off, bit chan.isSome, chan.getD 0, BitVec.ofNat 3 scope, BitVec.ofNat 2 order, BitVec.ofNat 3 size,
    BitVec.ofNat 5 op⟩
def cRaw (ld : BitVec 8) (dk : BitVec 1) (target : BitVec 24) (op : Nat) : CRaw := ⟨ld, dk, target, BitVec.ofNat 12 op⟩
def xRaw (fa fb : BitVec 3) (row : BitVec 7) (col : BitVec 8) (rows : BitVec 7) (sx sy : BitVec 8) (x : BitVec 1) : XRaw :=
  ⟨fa, fb, row, col, rows, sx, sy, x⟩

def VRaw.d (r : VRaw) : Dst := ⟨r.dk == 1, r.dst⟩
def VRaw.srcA (r : VRaw) : Src := Src.ofKf r.ak r.a
def VRaw.srcB (r : VRaw) : Src := Src.ofKf r.bk r.b
def VRaw.srcC (r : VRaw) : Src := Src.ofKf r.ck r.c
/-- R125: an unused source has kind and field zero. -/
def VRaw.noA (r : VRaw) : Bool := r.ak == 0 && r.a == 0
def VRaw.noB (r : VRaw) : Bool := r.bk == 0 && r.b == 0
def VRaw.noC (r : VRaw) : Bool := r.ck == 0 && r.c == 0
def MRaw.opnd (r : MRaw) : MOpnd := ⟨r.dk == 1, r.data, r.bk, r.base, r.off⟩
def MRaw.src (r : MRaw) : Src := Src.ofKf r.bk r.base
def MRaw.channel (r : MRaw) : Option (BitVec 4) := if r.ch == 1 then some r.chan else none
def CRaw.xreg (r : CRaw) : XReg := ⟨256 ≤ r.op.toNat, BitVec.ofNat 8 r.op.toNat⟩

def VRaw.pack (r : VRaw) : Nat :=
  r.mod.toNat + 64 * (r.c.toNat + 256 * (r.ck.toNat + 4 * (r.b.toNat + 256 * (r.bk.toNat + 4 * (r.a.toNat + 256 *
    (r.ak.toNat + 4 * (r.dk.toNat + 2 * r.dst.toNat)))))))
def VRaw.unpack (n : Nat) : VRaw :=
  { mod := BitVec.ofNat 6 n, c := BitVec.ofNat 8 (n / 2 ^ 6), ck := BitVec.ofNat 2 (n / 2 ^ 14), b := BitVec.ofNat 8 (n / 2 ^ 16),
    bk := BitVec.ofNat 2 (n / 2 ^ 24), a := BitVec.ofNat 8 (n / 2 ^ 26), ak := BitVec.ofNat 2 (n / 2 ^ 34),
    dk := BitVec.ofNat 1 (n / 2 ^ 36), dst := BitVec.ofNat 8 (n / 2 ^ 37) }
def MRaw.pack (r : MRaw) : Nat :=
  r.op.toNat + 32 * (r.size.toNat + 8 * (r.order.toNat + 4 * (r.scope.toNat + 8 * (r.chan.toNat + 16 * (r.ch.toNat + 2 *
    (r.off.toNat + 256 * (r.base.toNat + 256 * (r.bk.toNat + 4 * (r.dk.toNat + 2 * r.data.toNat)))))))))
def MRaw.unpack (n : Nat) : MRaw :=
  { op := BitVec.ofNat 5 n, size := BitVec.ofNat 3 (n / 2 ^ 5), order := BitVec.ofNat 2 (n / 2 ^ 8),
    scope := BitVec.ofNat 3 (n / 2 ^ 10), chan := BitVec.ofNat 4 (n / 2 ^ 13), ch := BitVec.ofNat 1 (n / 2 ^ 17),
    off := BitVec.ofNat 8 (n / 2 ^ 18), base := BitVec.ofNat 8 (n / 2 ^ 26), bk := BitVec.ofNat 2 (n / 2 ^ 34),
    dk := BitVec.ofNat 1 (n / 2 ^ 36), data := BitVec.ofNat 8 (n / 2 ^ 37) }
def CRaw.pack (r : CRaw) : Nat := r.op.toNat + 4096 * (r.target.toNat + 16777216 * (r.dk.toNat + 2 * r.ld.toNat))
def CRaw.unpack (n : Nat) : CRaw :=
  { op := BitVec.ofNat 12 n, target := BitVec.ofNat 24 (n / 2 ^ 12), dk := BitVec.ofNat 1 (n / 2 ^ 36), ld := BitVec.ofNat 8 (n / 2 ^ 37) }
def XRaw.pack (r : XRaw) : Nat :=
  r.x.toNat + 2 * (r.sy.toNat + 256 * (r.sx.toNat + 256 * (r.rows.toNat + 128 * (r.col.toNat + 256 * (r.row.toNat + 128 *
    (r.fb.toNat + 8 * r.fa.toNat))))))
def XRaw.unpack (n : Nat) : XRaw :=
  { x := BitVec.ofNat 1 n, sy := BitVec.ofNat 8 (n / 2), sx := BitVec.ofNat 8 (n / 2 ^ 9), rows := BitVec.ofNat 7 (n / 2 ^ 17),
    col := BitVec.ofNat 8 (n / 2 ^ 24), row := BitVec.ofNat 7 (n / 2 ^ 32), fb := BitVec.ofNat 3 (n / 2 ^ 39),
    fa := BitVec.ofNat 3 (n / 2 ^ 42) }

def Body.pack : Body → Nat
  | .v r => r.pack | .m r => r.pack | .c r => r.pack | .x r => r.pack
def Body.unpack (f : Fmt) (n : Nat) : Body :=
  match f with
  | .v => .v (VRaw.unpack n) | .m => .m (MRaw.unpack n) | .c => .c (CRaw.unpack n) | .x => .x (XRaw.unpack n)

/-- R119: the format of an opcode. -/
def fmtOf (op : Nat) : Fmt :=
  if op < 0x60 then .v else if op < 0x80 then (if op = 0x7D ∨ op = 0x7E then .v else .c)
  else if op < 0xC0 then .m else if op < 0xE0 then .x else .v

/-- R133: the 72 unassigned codes. -/
def unassigned (op : Nat) : Bool :=
  op = 0 || (0x2E ≤ op && op ≤ 0x2F) || (0x3B ≤ op && op ≤ 0x3F) || (0x67 ≤ op && op ≤ 0x6F) || op = 0x7F
    || (0x85 ≤ op && op ≤ 0x8F) || (0xAB ≤ op && op ≤ 0xAF) || (0xBC ≤ op && op ≤ 0xBF) || (0xD7 ≤ op && op ≤ 0xDF)
    || 0xE7 ≤ op

/-- R113: the group-collective words. -/
def collective (op : Nat) : Bool :=
  (0xC0 ≤ op && op ≤ 0xD6) || op = 0x70 || (0x72 ≤ op && op ≤ 0x77) || op = 0x7B || op = 0x7D || op = 0x7E

/-- A word with its head (R112) and body apart, and its long literal. -/
structure Encoded where
  op : Nat
  head : Head
  body : Body
  lit : Lit
deriving DecidableEq, Repr

/-- R112: the head and body as one 64-bit word. -/
def Encoded.word (e : Encoded) : Nat :=
  e.body.pack + 2 ^ 45 * (bitN e.head.neg + 2 * (e.head.pred.toNat + 8 * (e.head.ct.toNat + 8 * (e.head.stall.toNat + 16 * e.op))))

def headOf (w : Nat) : Head :=
  { stall := BitVec.ofNat 4 (w / 2 ^ 52), ct := BitVec.ofNat 3 (w / 2 ^ 49), pred := BitVec.ofNat 3 (w / 2 ^ 46),
    neg := w / 2 ^ 45 % 2 == 1 }

def opcodeOf (w : Nat) : Nat := w / 2 ^ 56 % 256

/-- The head of a word whose head fields must be stall 0, ct 0, pred 7 and neg 0 (R351). -/
def headPlain : Head := ⟨0, 0, 7, false⟩

/-- R120, R123: whether a body names the long literal. A word of format M does so only where its base field is a source (R222). -/
def Body.long (op : Nat) : Body → Bool
  | .v r => (r.ak == 3 && r.a == 0x80) || (r.bk == 3 && r.b == 0x80) || (r.ck == 3 && r.c == 0x80)
  | .m r => ((0xB4 ≤ op && op ≤ 0xB7) || op = 0xB9) && r.bk == 3 && r.base == 0x80
  | _ => false

/-- R106, R123: whether the word at hand is followed by a long-literal word of its own. -/
def ownsLiteral (w : Nat) : Bool :=
  let op := opcodeOf w
  !unassigned op && (Body.unpack (fmtOf op) w).long op

/-- A check of one word: the instruction where it holds, else the rejection named. -/
def need (ok : Bool) (r : Reject) (k : Except Reject Instr) : Except Reject Instr := if ok then k else .error r

/-- The words of row 0x0 (R132). -/
def decodeInt (lo : Nat) (h : Head) (r : VRaw) (lit : Lit) : Except Reject Instr :=
  match lo with
  | 0x1 => need (r.noC) .unusedSource <|
      need (r.mod.toNat < 4) .modifier <|
      .ok (.iadd h (r.mod.getLsbD 1) (r.mod.getLsbD 0) r.d r.srcA r.srcB lit)
  | 0x2 => need (r.noC) .unusedSource <|
      need (r.mod.toNat < 4) .modifier <|
      .ok (.iaddB64 h (r.mod.getLsbD 1) (r.mod.getLsbD 0) r.d r.srcA r.srcB lit)
  | 0x3 => need (r.noC) .unusedSource <|
      .ok (.iaddc h (BitVec.ofNat 3 (r.mod.toNat / 8)) (BitVec.ofNat 3 r.mod.toNat) r.d r.srcA r.srcB lit)
  | 0x4 => need (r.noC) .unusedSource <|
      need (r.mod.toNat < 4) .modifier <|
      .ok (.isub h (r.mod.getLsbD 1) (r.mod.getLsbD 0) r.d r.srcA r.srcB lit)
  | 0x5 => need (r.noC) .unusedSource <|
      need (r.mod.toNat < 4) .modifier <|
      .ok (.isubB64 h (r.mod.getLsbD 1) (r.mod.getLsbD 0) r.d r.srcA r.srcB lit)
  | 0x6 => need (r.noC) .unusedSource <|
      need (r.mod.toNat == 0) .modifier <|
      .ok (.imul h r.d r.srcA r.srcB lit)
  | 0x7 => need (r.noC) .unusedSource <|
      need (r.mod.toNat == 0) .modifier <|
      .ok (.imulB64 h r.d r.srcA r.srcB lit)
  | 0x8 => need (r.noC) .unusedSource <|
      need (r.mod.toNat < 2) .modifier <|
      .ok (.imulh h (r.mod.getLsbD 0) r.d r.srcA r.srcB lit)
  | 0x9 => need (r.mod.toNat == 0) .modifier <|
      .ok (.imad h r.d r.srcA r.srcB r.srcC lit)
  | 0xA => need (r.mod.toNat < 2) .modifier <|
      .ok (.imadB64 h (r.mod.getLsbD 0) r.d r.srcA r.srcB r.srcC lit)
  | 0xB => need (r.noC) .unusedSource <|
      need (r.mod.toNat < 2) .modifier <|
      .ok (.imin h (r.mod.getLsbD 0) r.d r.srcA r.srcB lit)
  | 0xC => need (r.noC) .unusedSource <|
      need (r.mod.toNat < 2) .modifier <|
      .ok (.imax h (r.mod.getLsbD 0) r.d r.srcA r.srcB lit)
  | 0xD => need (r.noB) .unusedSource <|
      need (r.noC) .unusedSource <|
      need (r.mod.toNat == 0 || r.mod.toNat == 2) .modifier <|
      .ok (.iabs h (r.mod.getLsbD 1) r.d r.srcA lit)
  | 0xE => need (r.noB) .unusedSource <|
      need (r.noC) .unusedSource <|
      need (r.mod.toNat == 0 || r.mod.toNat == 2) .modifier <|
      .ok (.ineg h (r.mod.getLsbD 1) r.d r.srcA lit)
  | 0xF => need (r.noC) .unusedSource <|
      .ok (.lea h (r.mod.getLsbD 5) (BitVec.ofNat 5 r.mod.toNat) r.d r.srcA r.srcB lit)
  | _ => .error .noEncoding

/-- The words of row 0x1 (R132). -/
def decodeLogic (lo : Nat) (h : Head) (r : VRaw) (lit : Lit) : Except Reject Instr :=
  match lo with
  | 0x0 => need (r.noC) .unusedSource <|
      need (r.mod.toNat == 0) .modifier <|
      .ok (.and h r.d r.srcA r.srcB lit)
  | 0x1 => need (r.noC) .unusedSource <|
      need (r.mod.toNat == 0) .modifier <|
      .ok (.or h r.d r.srcA r.srcB lit)
  | 0x2 => need (r.noC) .unusedSource <|
      need (r.mod.toNat == 0) .modifier <|
      .ok (.xor h r.d r.srcA r.srcB lit)
  | 0x3 => need (r.noB) .unusedSource <|
      need (r.noC) .unusedSource <|
      need (r.mod.toNat == 0) .modifier <|
      .ok (.not h r.d r.srcA lit)
  | 0x4 => need (r.noC) .unusedSource <|
      need (r.mod.toNat == 0) .modifier <|
      .ok (.shl h r.d r.srcA r.srcB lit)
  | 0x5 => need (r.noC) .unusedSource <|
      need (r.mod.toNat == 0) .modifier <|
      .ok (.shr h r.d r.srcA r.srcB lit)
  | 0x6 => need (r.noC) .unusedSource <|
      need (r.mod.toNat == 0) .modifier <|
      .ok (.sar h r.d r.srcA r.srcB lit)
  | 0x7 => need (r.noC) .unusedSource <|
      need (r.mod.toNat == 0) .modifier <|
      .ok (.rol h r.d r.srcA r.srcB lit)
  | 0x8 => need (r.noC) .unusedSource <|
      need (r.mod.toNat < 2) .modifier <|
      .ok (.bfx h (r.mod.getLsbD 0) r.d r.srcA r.srcB lit)
  | 0x9 => need (r.mod.toNat == 0) .modifier <|
      .ok (.bfi h r.d r.srcA r.srcB r.srcC lit)
  | 0xA => need (r.noB) .unusedSource <|
      need (r.noC) .unusedSource <|
      need (r.mod.toNat == 0) .modifier <|
      .ok (.popc h r.d r.srcA lit)
  | 0xB => need (r.noB) .unusedSource <|
      need (r.noC) .unusedSource <|
      need (r.mod.toNat == 0) .modifier <|
      .ok (.clz h r.d r.srcA lit)
  | 0xC => need (r.noB) .unusedSource <|
      need (r.noC) .unusedSource <|
      need (r.mod.toNat == 0) .modifier <|
      .ok (.brev h r.d r.srcA lit)
  | 0xD => need (r.noC) .unusedSource <|
      need (r.mod.toNat == 0) .modifier <|
      .ok (.shlB64 h r.d r.srcA r.srcB lit)
  | 0xE => need (r.noC) .unusedSource <|
      need (r.mod.toNat == 0) .modifier <|
      .ok (.shrB64 h r.d r.srcA r.srcB lit)
  | 0xF => need (r.noC) .unusedSource <|
      need (r.mod.toNat == 0) .modifier <|
      .ok (.sarB64 h r.d r.srcA r.srcB lit)
  | _ => .error .noEncoding

/-- The words of row 0x2 (R132). -/
def decodeFp32 (lo : Nat) (h : Head) (r : VRaw) (lit : Lit) : Except Reject Instr :=
  match lo with
  | 0x0 => need (r.noC) .unusedSource <|
      need (r.mod.toNat < 8) .modifier <|
      .ok (.fadd h (r.mod.getLsbD 2) (Rnd.ofCode r.mod.toNat) r.d r.srcA r.srcB lit)
  | 0x1 => need (r.noC) .unusedSource <|
      need (r.mod.toNat < 8) .modifier <|
      .ok (.fsub h (r.mod.getLsbD 2) (Rnd.ofCode r.mod.toNat) r.d r.srcA r.srcB lit)
  | 0x2 => need (r.noC) .unusedSource <|
      need (r.mod.toNat < 8) .modifier <|
      .ok (.fmul h (r.mod.getLsbD 2) (Rnd.ofCode r.mod.toNat) r.d r.srcA r.srcB lit)
  | 0x3 => need (r.mod.toNat < 16) .modifier <|
      .ok (.ffma h (r.mod.getLsbD 3) (r.mod.getLsbD 2) (Rnd.ofCode r.mod.toNat) r.d r.srcA r.srcB r.srcC lit)
  | 0x4 => need (r.noC) .unusedSource <|
      need (r.mod.toNat == 0 || r.mod.toNat == 4) .modifier <|
      .ok (.fmin h (r.mod.getLsbD 2) r.d r.srcA r.srcB lit)
  | 0x5 => need (r.noC) .unusedSource <|
      need (r.mod.toNat == 0 || r.mod.toNat == 4) .modifier <|
      .ok (.fmax h (r.mod.getLsbD 2) r.d r.srcA r.srcB lit)
  | 0x6 => need (r.noB) .unusedSource <|
      need (r.noC) .unusedSource <|
      need (r.mod.toNat < 8) .modifier <|
      .ok (.frnd h (r.mod.getLsbD 2) (Rnd.ofCode r.mod.toNat) r.d r.srcA lit)
  | 0x7 => need (r.noB) .unusedSource <|
      need (r.noC) .unusedSource <|
      need (r.mod.toNat == 0 || r.mod.toNat == 4) .modifier <|
      .ok (.frcp h (r.mod.getLsbD 2) r.d r.srcA lit)
  | 0x8 => need (r.noB) .unusedSource <|
      need (r.noC) .unusedSource <|
      need (r.mod.toNat == 0 || r.mod.toNat == 4) .modifier <|
      .ok (.frsq h (r.mod.getLsbD 2) r.d r.srcA lit)
  | 0x9 => need (r.noB) .unusedSource <|
      need (r.noC) .unusedSource <|
      need (r.mod.toNat == 0 || r.mod.toNat == 4) .modifier <|
      .ok (.fsqrt h (r.mod.getLsbD 2) r.d r.srcA lit)
  | 0xA => need (r.noB) .unusedSource <|
      need (r.noC) .unusedSource <|
      need (r.mod.toNat == 0 || r.mod.toNat == 4) .modifier <|
      .ok (.fexp2 h (r.mod.getLsbD 2) r.d r.srcA lit)
  | 0xB => need (r.noB) .unusedSource <|
      need (r.noC) .unusedSource <|
      need (r.mod.toNat == 0 || r.mod.toNat == 4) .modifier <|
      .ok (.flog2 h (r.mod.getLsbD 2) r.d r.srcA lit)
  | 0xC => need (r.noB) .unusedSource <|
      need (r.noC) .unusedSource <|
      need (r.mod.toNat == 0 || r.mod.toNat == 4) .modifier <|
      .ok (.fsin h (r.mod.getLsbD 2) r.d r.srcA lit)
  | 0xD => need (r.noB) .unusedSource <|
      need (r.noC) .unusedSource <|
      need (r.mod.toNat == 0 || r.mod.toNat == 4) .modifier <|
      .ok (.fcos h (r.mod.getLsbD 2) r.d r.srcA lit)
  | _ => .error .noEncoding

/-- The words of row 0x3 (R132). -/
def decodePacked (lo : Nat) (h : Head) (r : VRaw) (lit : Lit) : Except Reject Instr :=
  match lo with
  | 0x0 => need (r.noC) .unusedSource <|
      need (r.mod.toNat < 8) .modifier <|
      .ok (.hadd2 h (r.mod.getLsbD 2) (Rnd.ofCode r.mod.toNat) r.d r.srcA r.srcB lit)
  | 0x1 => need (r.noC) .unusedSource <|
      need (r.mod.toNat < 8) .modifier <|
      .ok (.hmul2 h (r.mod.getLsbD 2) (Rnd.ofCode r.mod.toNat) r.d r.srcA r.srcB lit)
  | 0x2 => need (r.mod.toNat < 4) .modifier <|
      .ok (.hfma2 h (Rnd.ofCode r.mod.toNat) r.d r.srcA r.srcB r.srcC lit)
  | 0x3 => need (r.mod.toNat < 4) .modifier <|
      .ok (.bfma2 h (Rnd.ofCode r.mod.toNat) r.d r.srcA r.srcB r.srcC lit)
  | 0x4 => need (r.noC) .unusedSource <|
      need (r.mod.toNat == 0 || r.mod.toNat == 4) .modifier <|
      .ok (.hmin2 h (r.mod.getLsbD 2) r.d r.srcA r.srcB lit)
  | 0x5 => need (r.noC) .unusedSource <|
      need (r.mod.toNat == 0 || r.mod.toNat == 4) .modifier <|
      .ok (.hmax2 h (r.mod.getLsbD 2) r.d r.srcA r.srcB lit)
  | 0x6 => need (r.noB) .unusedSource <|
      need (r.noC) .unusedSource <|
      need (r.mod.toNat / 16 < 3 && r.mod.toNat / 4 % 4 < 3) .modifier <|
      .ok (.cvtFF h (FTy.ofCode (r.mod.toNat / 16)) (FTy.ofCode (r.mod.toNat / 4 % 4)) (Rnd.ofCode r.mod.toNat) r.d r.srcA lit)
  | 0x7 => need (r.noB) .unusedSource <|
      need (r.noC) .unusedSource <|
      need (r.mod.toNat / 16 < 3) .modifier <|
      .ok (.cvtIF h (FTy.ofCode (r.mod.toNat / 16)) (ITy.ofCode (r.mod.toNat / 4)) (Rnd.ofCode r.mod.toNat) r.d r.srcA lit)
  | 0x8 => need (r.noB) .unusedSource <|
      need (r.noC) .unusedSource <|
      need (r.mod.toNat / 16 < 3) .modifier <|
      .ok (.cvtFI h (FTy.ofCode (r.mod.toNat / 16)) (ITy.ofCode (r.mod.toNat / 4)) (Rnd.ofCode r.mod.toNat) r.d r.srcA lit)
  | 0x9 => .ok (.cvtn h (BitVec.ofNat 3 (r.mod.toNat / 8)) (BitVec.ofNat 3 r.mod.toNat) r.d r.srcA r.srcB r.srcC lit)
  | 0xA => need (r.noB) .unusedSource <|
      need (r.noC) .unusedSource <|
      .ok (.cvtw h (BitVec.ofNat 3 (r.mod.toNat / 8)) (BitVec.ofNat 3 r.mod.toNat) r.d r.srcA lit)
  | _ => .error .noEncoding

/-- The words of row 0x4 (R132). -/
def decodeCompare (lo : Nat) (h : Head) (r : VRaw) (lit : Lit) : Except Reject Instr :=
  match lo with
  | 0x0 => need (r.noC) .unusedSource <|
      need (r.mod.toNat / 2 % 4 != 0 || r.mod.toNat / 8 == 0) .modifier <|
      .ok (.icmpEq h (Comb.ofCode (r.mod.toNat / 2)) (BitVec.ofNat 3 (r.mod.toNat / 8)) (r.mod.getLsbD 0) r.d r.srcA r.srcB lit)
  | 0x1 => need (r.noC) .unusedSource <|
      need (r.mod.toNat / 2 % 4 != 0 || r.mod.toNat / 8 == 0) .modifier <|
      .ok (.icmpNe h (Comb.ofCode (r.mod.toNat / 2)) (BitVec.ofNat 3 (r.mod.toNat / 8)) (r.mod.getLsbD 0) r.d r.srcA r.srcB lit)
  | 0x2 => need (r.noC) .unusedSource <|
      need (r.mod.toNat / 2 % 4 != 0 || r.mod.toNat / 8 == 0) .modifier <|
      .ok (.icmpLt h (Comb.ofCode (r.mod.toNat / 2)) (BitVec.ofNat 3 (r.mod.toNat / 8)) (r.mod.getLsbD 0) r.d r.srcA r.srcB lit)
  | 0x3 => need (r.noC) .unusedSource <|
      need (r.mod.toNat / 2 % 4 != 0 || r.mod.toNat / 8 == 0) .modifier <|
      .ok (.icmpLe h (Comb.ofCode (r.mod.toNat / 2)) (BitVec.ofNat 3 (r.mod.toNat / 8)) (r.mod.getLsbD 0) r.d r.srcA r.srcB lit)
  | 0x4 => need (r.noC) .unusedSource <|
      need (r.mod.toNat / 2 % 4 != 0 || r.mod.toNat / 8 == 0) .modifier <|
      .ok (.icmpGt h (Comb.ofCode (r.mod.toNat / 2)) (BitVec.ofNat 3 (r.mod.toNat / 8)) (r.mod.getLsbD 0) r.d r.srcA r.srcB lit)
  | 0x5 => need (r.noC) .unusedSource <|
      need (r.mod.toNat / 2 % 4 != 0 || r.mod.toNat / 8 == 0) .modifier <|
      .ok (.icmpGe h (Comb.ofCode (r.mod.toNat / 2)) (BitVec.ofNat 3 (r.mod.toNat / 8)) (r.mod.getLsbD 0) r.d r.srcA r.srcB lit)
  | 0x6 => need (r.noC) .unusedSource <|
      need ((r.mod.toNat / 2 % 4 != 0 || r.mod.toNat / 8 == 0) && r.mod.toNat % 2 == 0) .modifier <|
      .ok (.fcmpEq h (Comb.ofCode (r.mod.toNat / 2)) (BitVec.ofNat 3 (r.mod.toNat / 8)) r.d r.srcA r.srcB lit)
  | 0x7 => need (r.noC) .unusedSource <|
      need ((r.mod.toNat / 2 % 4 != 0 || r.mod.toNat / 8 == 0) && r.mod.toNat % 2 == 0) .modifier <|
      .ok (.fcmpNe h (Comb.ofCode (r.mod.toNat / 2)) (BitVec.ofNat 3 (r.mod.toNat / 8)) r.d r.srcA r.srcB lit)
  | 0x8 => need (r.noC) .unusedSource <|
      need ((r.mod.toNat / 2 % 4 != 0 || r.mod.toNat / 8 == 0) && r.mod.toNat % 2 == 0) .modifier <|
      .ok (.fcmpLt h (Comb.ofCode (r.mod.toNat / 2)) (BitVec.ofNat 3 (r.mod.toNat / 8)) r.d r.srcA r.srcB lit)
  | 0x9 => need (r.noC) .unusedSource <|
      need ((r.mod.toNat / 2 % 4 != 0 || r.mod.toNat / 8 == 0) && r.mod.toNat % 2 == 0) .modifier <|
      .ok (.fcmpLe h (Comb.ofCode (r.mod.toNat / 2)) (BitVec.ofNat 3 (r.mod.toNat / 8)) r.d r.srcA r.srcB lit)
  | 0xA => need (r.noC) .unusedSource <|
      need ((r.mod.toNat / 2 % 4 != 0 || r.mod.toNat / 8 == 0) && r.mod.toNat % 2 == 0) .modifier <|
      .ok (.fcmpGt h (Comb.ofCode (r.mod.toNat / 2)) (BitVec.ofNat 3 (r.mod.toNat / 8)) r.d r.srcA r.srcB lit)
  | 0xB => need (r.noC) .unusedSource <|
      need ((r.mod.toNat / 2 % 4 != 0 || r.mod.toNat / 8 == 0) && r.mod.toNat % 2 == 0) .modifier <|
      .ok (.fcmpGe h (Comb.ofCode (r.mod.toNat / 2)) (BitVec.ofNat 3 (r.mod.toNat / 8)) r.d r.srcA r.srcB lit)
  | 0xC => need (r.noC) .unusedSource <|
      need ((r.mod.toNat / 2 % 4 != 0 || r.mod.toNat / 8 == 0) && r.mod.toNat % 2 == 0) .modifier <|
      .ok (.fcmpUn h (Comb.ofCode (r.mod.toNat / 2)) (BitVec.ofNat 3 (r.mod.toNat / 8)) r.d r.srcA r.srcB lit)
  | 0xD => need (r.noC) .unusedSource <|
      need (r.mod.toNat < 16) .modifier <|
      .ok (.sel h (r.mod.getLsbD 3) (BitVec.ofNat 3 r.mod.toNat) r.d r.srcA r.srcB lit)
  | 0xE => need (r.noB) .unusedSource <|
      need (r.noC) .unusedSource <|
      need (r.mod.toNat == 0) .modifier <|
      .ok (.pset h r.d r.srcA lit)
  | 0xF => need (r.mod.toNat < 2) .modifier <|
      if r.mod.toNat % 2 == 0 then need (r.noA) .unusedSource <|
      need (r.noB) .unusedSource <|
      need (r.noC) .unusedSource <|
      .ok (.pmovGet h r.d)
      else need (r.dst == 0) .reservedField <|
      need (r.noC) .unusedSource <|
      .ok (.pmovPut h (r.dk == 1) r.srcA r.srcB lit)
  | _ => .error .noEncoding

/-- The words of row 0x5 (R132). -/
def decodeMove (lo : Nat) (h : Head) (r : VRaw) (lit : Lit) : Except Reject Instr :=
  match lo with
  | 0x0 => need (r.noB) .unusedSource <|
      need (r.noC) .unusedSource <|
      need (r.mod.toNat == 0) .modifier <|
      .ok (.mov h r.d r.srcA lit)
  | 0x1 => need (r.noB) .unusedSource <|
      need (r.noC) .unusedSource <|
      need (r.mod.toNat == 0) .modifier <|
      .ok (.movB64 h r.d r.srcA lit)
  | 0x2 => need (r.noB) .unusedSource <|
      need (r.noC) .unusedSource <|
      need (r.mod.toNat < 4) .modifier <|
      .ok (.movc h (BitVec.ofNat 2 r.mod.toNat) r.d r.srcA lit)
  | 0x3 => need (r.noC) .unusedSource <|
      need (r.mod.toNat == 0) .modifier <|
      .ok (.shflIdx h r.d r.srcA r.srcB lit)
  | 0x4 => need (r.noC) .unusedSource <|
      need (r.mod.toNat == 0) .modifier <|
      .ok (.shflUp h r.d r.srcA r.srcB lit)
  | 0x5 => need (r.noC) .unusedSource <|
      need (r.mod.toNat == 0) .modifier <|
      .ok (.shflDown h r.d r.srcA r.srcB lit)
  | 0x6 => need (r.noC) .unusedSource <|
      need (r.mod.toNat == 0) .modifier <|
      .ok (.shflXor h r.d r.srcA r.srcB lit)
  | 0x7 => need (r.noA) .unusedSource <|
      need (r.noB) .unusedSource <|
      need (r.noC) .unusedSource <|
      need (r.mod.toNat < 16) .modifier <|
      .ok (.voteAny h (r.mod.getLsbD 3) (BitVec.ofNat 3 r.mod.toNat) r.d)
  | 0x8 => need (r.noA) .unusedSource <|
      need (r.noB) .unusedSource <|
      need (r.noC) .unusedSource <|
      need (r.mod.toNat < 16) .modifier <|
      .ok (.voteAll h (r.mod.getLsbD 3) (BitVec.ofNat 3 r.mod.toNat) r.d)
  | 0x9 => need (r.noA) .unusedSource <|
      need (r.noB) .unusedSource <|
      need (r.noC) .unusedSource <|
      need (r.mod.toNat < 16) .modifier <|
      .ok (.voteBallot h (r.mod.getLsbD 3) (BitVec.ofNat 3 r.mod.toNat) r.d)
  | 0xA => need (r.noB) .unusedSource <|
      need (r.noC) .unusedSource <|
      need (redgOk r.mod.toNat) .modifier <|
      .ok (.redg h (RTy.ofCode (r.mod.toNat / 8)) (ROp.ofCode r.mod.toNat) r.d r.srcA lit)
  | 0xB => need (r.noB) .unusedSource <|
      need (r.noC) .unusedSource <|
      need (scanOk r.mod.toNat) .modifier <|
      .ok (.scanInc h (RTy.ofCode (r.mod.toNat / 8)) (ROp.ofCode r.mod.toNat) r.d r.srcA lit)
  | 0xC => need (r.noB) .unusedSource <|
      need (r.noC) .unusedSource <|
      need (scanOk r.mod.toNat) .modifier <|
      .ok (.scanExc h (RTy.ofCode (r.mod.toNat / 8)) (ROp.ofCode r.mod.toNat) r.d r.srcA lit)
  | 0xD => need (r.noA) .unusedSource <|
      need (r.noB) .unusedSource <|
      need (r.noC) .unusedSource <|
      need (r.mod.toNat < 20) .modifier <|
      .ok (.sread h (SReg.ofCode r.mod.toNat) r.d)
  | 0xE => need (r.noB) .unusedSource <|
      need (r.noC) .unusedSource <|
      need (r.mod.toNat < 20) .modifier <|
      .ok (.swrite h (SReg.ofCode r.mod.toNat) r.d r.srcA lit)
  | 0xF => need (r.noB) .unusedSource <|
      need (r.noC) .unusedSource <|
      need (r.mod.toNat < 2) .modifier <|
      .ok (.rand h (r.mod.getLsbD 0) r.d r.srcA lit)
  | _ => .error .noEncoding

/-- The words of row 0x6 (R132). -/
def decodeBranch (lo : Nat) (h : Head) (r : CRaw) (_lit : Lit) : Except Reject Instr :=
  match lo with
  | 0x0 => need (r.ld == 0) .reservedField <|
      need (r.target == 0) .reservedField <|
      need (r.op.toNat == 0) .reservedField <|
      .ok (.nop h (r.dk == 1))
  | 0x1 => need (r.ld == 0) .reservedField <|
      need (r.op.toNat == 0) .reservedField <|
      .ok (.bra h (r.dk == 1) r.target)
  | 0x2 => need (r.ld == 0) .reservedField <|
      need (r.op.toNat == 0) .reservedField <|
      .ok (.braU h (r.dk == 1) r.target)
  | 0x3 => need (r.ld == 0) .reservedField <|
      need (r.target == 0) .reservedField <|
      need (r.op.toNat < 512) .reservedField <|
      .ok (.brx h (r.dk == 1) r.xreg)
  | 0x4 => need (r.op.toNat == 0) .reservedField <|
      .ok (.call h (r.dk == 1) r.ld r.target)
  | 0x5 => need (r.target == 0) .reservedField <|
      need (r.op.toNat < 512) .reservedField <|
      .ok (.callx h (r.dk == 1) r.ld r.xreg)
  | 0x6 => need (r.ld == 0) .reservedField <|
      need (r.target == 0) .reservedField <|
      need (r.op.toNat < 512) .reservedField <|
      .ok (.ret h (r.dk == 1) r.xreg)
  | _ => .error .noEncoding

/-- The words of row 0x7 (R132). -/
def decodeConverge (lo : Nat) (h : Head) (r : CRaw) (_lit : Lit) : Except Reject Instr :=
  match lo with
  | 0x0 => need (r.op.toNat == 0) .reservedField <|
      .ok (.meet h (r.dk == 1) r.ld r.target)
  | 0x1 => need (r.ld == 0) .reservedField <|
      need (r.target == 0) .reservedField <|
      need (r.op.toNat < 512) .reservedField <|
      .ok (.mrset h (r.dk == 1) r.xreg)
  | 0x2 => need (r.ld == 0) .reservedField <|
      need (r.target == 0) .reservedField <|
      need (r.op.toNat < 2) .reservedField <|
      .ok (.bar h (r.dk == 1) (r.op.toNat == 1))
  | 0x3 => need (r.ld == 0) .reservedField <|
      need (r.target == 0) .reservedField <|
      need (r.op.toNat < 2) .reservedField <|
      .ok (.barArv h (r.dk == 1) (r.op.toNat == 1))
  | 0x4 => need (r.ld == 0) .reservedField <|
      need (r.target == 0) .reservedField <|
      need (r.op.toNat < 2) .reservedField <|
      .ok (.barWait h (r.dk == 1) (r.op.toNat == 1))
  | 0x5 => need (r.ld == 0) .reservedField <|
      need (r.target == 0) .reservedField <|
      need (r.op.toNat < 2) .reservedField <|
      .ok (.barg h (r.dk == 1) (r.op.toNat == 1))
  | 0x6 => need (r.ld == 0) .reservedField <|
      need (r.target == 0) .reservedField <|
      need (r.op.toNat < 2) .reservedField <|
      .ok (.bargArv h (r.dk == 1) (r.op.toNat == 1))
  | 0x7 => need (r.ld == 0) .reservedField <|
      need (r.target == 0) .reservedField <|
      need (r.op.toNat < 2) .reservedField <|
      .ok (.bargWait h (r.dk == 1) (r.op.toNat == 1))
  | 0x8 => need (r.target == 0) .reservedField <|
      need (r.op.toNat < 8) .reservedField <|
      .ok (.fetch h (r.dk == 1) r.ld (BitVec.ofNat 3 r.op.toNat))
  | 0x9 => need (r.target == 0) .reservedField <|
      need (r.op.toNat < 8) .reservedField <|
      .ok (.fetchV h (r.dk == 1) r.ld (BitVec.ofNat 3 r.op.toNat))
  | 0xA => need (r.ld == 0) .reservedField <|
      need (r.target == 0) .reservedField <|
      need (r.op.toNat == 0) .reservedField <|
      .ok (.exit h (r.dk == 1))
  | 0xB => need (r.ld == 0) .reservedField <|
      need (r.target == 0) .reservedField <|
      need (r.op.toNat == 0) .reservedField <|
      .ok (.tail h (r.dk == 1))
  | 0xC => need (r.ld == 0) .reservedField <|
      need (r.target == 0) .reservedField <|
      need (r.op.toNat == 0) .reservedField <|
      .ok (.yield h (r.dk == 1))
  | _ => .error .noEncoding

/-- The words of row 0x7 (R132) of format V. -/
def decodeConvergeV (lo : Nat) (h : Head) (r : VRaw) (lit : Lit) : Except Reject Instr :=
  match lo with
  | 0xD => need (r.dst == 0 && r.dk == 0) .reservedField <|
      need (r.noC) .unusedSource <|
      need (r.mod.toNat < 8) .modifier <|
      need (h.stall == 0 && h.ct == 0) .headField <|
      .ok (.resampleL (BitVec.ofNat 3 r.mod.toNat) r.srcA r.srcB lit)
  | 0xE => need (r.dst == 0 && r.dk == 0) .reservedField <|
      need (r.noC) .unusedSource <|
      need (r.mod.toNat < 8) .modifier <|
      need (h.stall == 0 && h.ct == 0) .headField <|
      .ok (.resampleG (BitVec.ofNat 3 r.mod.toNat) r.srcA r.srcB lit)
  | _ => .error .noEncoding

/-- The words of row 0x8 (R132). -/
def decodeLoad (lo : Nat) (h : Head) (r : MRaw) (_lit : Lit) : Except Reject Instr :=
  match lo with
  | 0x0 => need (r.bk.toNat < 2) .baseKind <|
      need (r.ch == 0 && r.chan == 0) .channelField <|
      need (r.scope.toNat < 6) .scopeField <|
      need (r.order.toNat < 2) .orderField <|
      need (r.order == 0 || r.scope != 0) .orderWithoutScope <|
      need (r.size.toNat < 5) .sizeField <|
      need (r.op.toNat < 2) .opField <|
      need (r.op.toNat == 0 || r.size.toNat < 2) .signExtend <|
      .ok (.ld h (r.op.toNat == 1) r.opnd (Scope.ofCode r.scope.toNat) (Order.ofCode r.order.toNat) (Size.ofCode r.size.toNat))
  | 0x1 => need (r.bk.toNat < 2) .baseKind <|
      need (r.ch == 0 && r.chan == 0) .channelField <|
      need (r.scope.toNat < 6) .scopeField <|
      need (r.order.toNat < 2) .orderField <|
      need (r.order == 0 || r.scope != 0) .orderWithoutScope <|
      need (r.size.toNat < 5) .sizeField <|
      need (r.op.toNat < 2) .opField <|
      need (r.op.toNat == 0 || r.size.toNat < 2) .signExtend <|
      .ok (.ldNc h (r.op.toNat == 1) r.opnd (Scope.ofCode r.scope.toNat) (Order.ofCode r.order.toNat) (Size.ofCode r.size.toNat))
  | 0x2 => need (r.bk.toNat < 2) .baseKind <|
      need (r.ch == 0 && r.chan == 0) .channelField <|
      need (r.scope.toNat < 6) .scopeField <|
      need (r.order.toNat < 2) .orderField <|
      need (r.order == 0 || r.scope != 0) .orderWithoutScope <|
      need (r.size.toNat < 5) .sizeField <|
      need (r.op.toNat < 2) .opField <|
      need (r.op.toNat == 0 || r.size.toNat < 2) .signExtend <|
      .ok (.ldStr h (r.op.toNat == 1) r.opnd (Scope.ofCode r.scope.toNat) (Order.ofCode r.order.toNat) (Size.ofCode r.size.toNat))
  | 0x3 => need (r.bk.toNat < 2) .baseKind <|
      need (r.ch == 0 && r.chan == 0) .channelField <|
      need (r.scope.toNat < 3) .scopeField <|
      need (r.order.toNat < 2) .orderField <|
      need (r.order == 0 || r.scope != 0) .orderWithoutScope <|
      need (r.size.toNat < 5) .sizeField <|
      need (r.op.toNat < 2) .opField <|
      need (r.op.toNat == 0 || r.size.toNat < 2) .signExtend <|
      .ok (.lds h (r.op.toNat == 1) r.opnd (Scope.ofCode r.scope.toNat) (Order.ofCode r.order.toNat) (Size.ofCode r.size.toNat))
  | 0x4 => need (r.bk.toNat < 2) .baseKind <|
      need (r.ch == 0 && r.chan == 0) .channelField <|
      need (r.scope.toNat < 3) .scopeField <|
      need (r.order.toNat < 2) .orderField <|
      need (r.order == 0 || r.scope != 0) .orderWithoutScope <|
      need (r.size.toNat < 5) .sizeField <|
      .ok (.ldp h r.op r.opnd (Scope.ofCode r.scope.toNat) (Order.ofCode r.order.toNat) (Size.ofCode r.size.toNat))
  | _ => .error .noEncoding

/-- The words of row 0x9 (R132). -/
def decodeStore (lo : Nat) (h : Head) (r : MRaw) (_lit : Lit) : Except Reject Instr :=
  match lo with
  | 0x0 => need (r.bk.toNat < 2) .baseKind <|
      need (r.ch == 1 || r.chan == 0) .channelField <|
      need (r.scope.toNat < 6) .scopeField <|
      need (r.order.toNat % 2 == 0) .orderField <|
      need (r.order == 0 || r.scope != 0) .orderWithoutScope <|
      need (r.ch == 0 || (r.scope == 0 && r.order == 0)) .channelField <|
      need (r.size.toNat < 5) .sizeField <|
      need (r.op == 0) .opField <|
      .ok (.st h r.opnd r.channel (Scope.ofCode r.scope.toNat) (Order.ofCode r.order.toNat) (Size.ofCode r.size.toNat))
  | 0x1 => need (r.bk.toNat < 2) .baseKind <|
      need (r.ch == 0 && r.chan == 0) .channelField <|
      need (r.scope.toNat < 3) .scopeField <|
      need (r.order.toNat % 2 == 0) .orderField <|
      need (r.order == 0 || r.scope != 0) .orderWithoutScope <|
      need (r.size.toNat < 5) .sizeField <|
      need (r.op == 0) .opField <|
      .ok (.sts h r.opnd (Scope.ofCode r.scope.toNat) (Order.ofCode r.order.toNat) (Size.ofCode r.size.toNat))
  | 0x2 => need (r.bk.toNat < 2) .baseKind <|
      need (r.ch == 0 && r.chan == 0) .channelField <|
      need (r.scope.toNat < 3) .scopeField <|
      need (r.order.toNat % 2 == 0) .orderField <|
      need (r.order == 0 || r.scope != 0) .orderWithoutScope <|
      need (r.size.toNat < 5) .sizeField <|
      .ok (.stp h r.op r.opnd (Scope.ofCode r.scope.toNat) (Order.ofCode r.order.toNat) (Size.ofCode r.size.toNat))
  | 0x3 => need (r.bk.toNat < 2) .baseKind <|
      need (r.ch == 1 || r.chan == 0) .channelField <|
      need (r.scope.toNat < 6) .scopeField <|
      need (r.order == 0 || r.scope != 0) .orderWithoutScope <|
      need (r.ch == 0 || (r.scope == 0 && r.order == 0)) .channelField <|
      need (r.size.toNat == 2 || r.size.toNat == 3) .sizeField <|
      need (r.op == 0) .opField <|
      .ok (.atomAdd h r.opnd r.channel (Scope.ofCode r.scope.toNat) (Order.ofCode r.order.toNat) (Size.ofCode r.size.toNat))
  | 0x4 => need (r.bk.toNat < 2) .baseKind <|
      need (r.ch == 1 || r.chan == 0) .channelField <|
      need (r.scope.toNat < 6) .scopeField <|
      need (r.order == 0 || r.scope != 0) .orderWithoutScope <|
      need (r.ch == 0 || (r.scope == 0 && r.order == 0)) .channelField <|
      need (r.size.toNat == 2 || r.size.toNat == 3) .sizeField <|
      need (r.op.toNat < 2) .opField <|
      .ok (.atomMin h (r.op.toNat == 1) r.opnd r.channel (Scope.ofCode r.scope.toNat) (Order.ofCode r.order.toNat) (Size.ofCode r.size.toNat))
  | 0x5 => need (r.bk.toNat < 2) .baseKind <|
      need (r.ch == 1 || r.chan == 0) .channelField <|
      need (r.scope.toNat < 6) .scopeField <|
      need (r.order == 0 || r.scope != 0) .orderWithoutScope <|
      need (r.ch == 0 || (r.scope == 0 && r.order == 0)) .channelField <|
      need (r.size.toNat == 2 || r.size.toNat == 3) .sizeField <|
      need (r.op.toNat < 2) .opField <|
      .ok (.atomMax h (r.op.toNat == 1) r.opnd r.channel (Scope.ofCode r.scope.toNat) (Order.ofCode r.order.toNat) (Size.ofCode r.size.toNat))
  | 0x6 => need (r.bk.toNat < 2) .baseKind <|
      need (r.ch == 1 || r.chan == 0) .channelField <|
      need (r.scope.toNat < 6) .scopeField <|
      need (r.order == 0 || r.scope != 0) .orderWithoutScope <|
      need (r.ch == 0 || (r.scope == 0 && r.order == 0)) .channelField <|
      need (r.size.toNat == 2 || r.size.toNat == 3) .sizeField <|
      need (r.op == 0) .opField <|
      .ok (.atomAnd h r.opnd r.channel (Scope.ofCode r.scope.toNat) (Order.ofCode r.order.toNat) (Size.ofCode r.size.toNat))
  | 0x7 => need (r.bk.toNat < 2) .baseKind <|
      need (r.ch == 1 || r.chan == 0) .channelField <|
      need (r.scope.toNat < 6) .scopeField <|
      need (r.order == 0 || r.scope != 0) .orderWithoutScope <|
      need (r.ch == 0 || (r.scope == 0 && r.order == 0)) .channelField <|
      need (r.size.toNat == 2 || r.size.toNat == 3) .sizeField <|
      need (r.op == 0) .opField <|
      .ok (.atomOr h r.opnd r.channel (Scope.ofCode r.scope.toNat) (Order.ofCode r.order.toNat) (Size.ofCode r.size.toNat))
  | 0x8 => need (r.bk.toNat < 2) .baseKind <|
      need (r.ch == 1 || r.chan == 0) .channelField <|
      need (r.scope.toNat < 6) .scopeField <|
      need (r.order == 0 || r.scope != 0) .orderWithoutScope <|
      need (r.ch == 0 || (r.scope == 0 && r.order == 0)) .channelField <|
      need (r.size.toNat == 2 || r.size.toNat == 3) .sizeField <|
      need (r.op == 0) .opField <|
      .ok (.atomXor h r.opnd r.channel (Scope.ofCode r.scope.toNat) (Order.ofCode r.order.toNat) (Size.ofCode r.size.toNat))
  | 0x9 => need (r.bk.toNat < 2) .baseKind <|
      need (r.ch == 1 || r.chan == 0) .channelField <|
      need (r.scope.toNat < 6) .scopeField <|
      need (r.order == 0 || r.scope != 0) .orderWithoutScope <|
      need (r.ch == 0 || (r.scope == 0 && r.order == 0)) .channelField <|
      need (r.size.toNat == 2 || r.size.toNat == 3) .sizeField <|
      need (r.op == 0) .opField <|
      .ok (.atomExch h r.opnd r.channel (Scope.ofCode r.scope.toNat) (Order.ofCode r.order.toNat) (Size.ofCode r.size.toNat))
  | 0xA => need (r.bk.toNat < 2) .baseKind <|
      need (r.ch == 1 || r.chan == 0) .channelField <|
      need (r.scope.toNat < 6) .scopeField <|
      need (r.order == 0 || r.scope != 0) .orderWithoutScope <|
      need (r.ch == 0 || (r.scope == 0 && r.order == 0)) .channelField <|
      need (r.size.toNat == 2 || r.size.toNat == 3) .sizeField <|
      need (r.op == 0) .opField <|
      .ok (.atomCas h r.opnd r.channel (Scope.ofCode r.scope.toNat) (Order.ofCode r.order.toNat) (Size.ofCode r.size.toNat))
  | 0xB => need (r.bk.toNat < 2) .baseKind <|
      need (r.ch == 1 || r.chan == 0) .channelField <|
      need (r.scope.toNat < 6) .scopeField <|
      need (r.order == 0 || r.scope != 0) .orderWithoutScope <|
      need (r.ch == 0 || (r.scope == 0 && r.order == 0)) .channelField <|
      need (r.size.toNat == 2) .sizeField <|
      need (r.op == 0) .opField <|
      .ok (.atomFadd h r.opnd r.channel (Scope.ofCode r.scope.toNat) (Order.ofCode r.order.toNat))
  | 0xC => need (r.bk.toNat < 2) .baseKind <|
      need (r.ch == 1 || r.chan == 0) .channelField <|
      need (r.scope.toNat < 6) .scopeField <|
      need (r.order.toNat % 2 == 0) .orderField <|
      need (r.order == 0 || r.scope != 0) .orderWithoutScope <|
      need (r.ch == 0 || (r.scope == 0 && r.order == 0)) .channelField <|
      need (r.size.toNat == 2 || r.size.toNat == 3) .sizeField <|
      need (r.op == 0) .opField <|
      .ok (.redAdd h r.opnd r.channel (Scope.ofCode r.scope.toNat) (Order.ofCode r.order.toNat) (Size.ofCode r.size.toNat))
  | 0xD => need (r.bk.toNat < 2) .baseKind <|
      need (r.ch == 1 || r.chan == 0) .channelField <|
      need (r.scope.toNat < 6) .scopeField <|
      need (r.order.toNat % 2 == 0) .orderField <|
      need (r.order == 0 || r.scope != 0) .orderWithoutScope <|
      need (r.ch == 0 || (r.scope == 0 && r.order == 0)) .channelField <|
      need (r.size.toNat == 2 || r.size.toNat == 3) .sizeField <|
      need (r.op.toNat < 2) .opField <|
      .ok (.redMin h (r.op.toNat == 1) r.opnd r.channel (Scope.ofCode r.scope.toNat) (Order.ofCode r.order.toNat) (Size.ofCode r.size.toNat))
  | 0xE => need (r.bk.toNat < 2) .baseKind <|
      need (r.ch == 1 || r.chan == 0) .channelField <|
      need (r.scope.toNat < 6) .scopeField <|
      need (r.order.toNat % 2 == 0) .orderField <|
      need (r.order == 0 || r.scope != 0) .orderWithoutScope <|
      need (r.ch == 0 || (r.scope == 0 && r.order == 0)) .channelField <|
      need (r.size.toNat == 2 || r.size.toNat == 3) .sizeField <|
      need (r.op.toNat < 2) .opField <|
      .ok (.redMax h (r.op.toNat == 1) r.opnd r.channel (Scope.ofCode r.scope.toNat) (Order.ofCode r.order.toNat) (Size.ofCode r.size.toNat))
  | 0xF => need (r.bk.toNat < 2) .baseKind <|
      need (r.ch == 1 || r.chan == 0) .channelField <|
      need (r.scope.toNat < 6) .scopeField <|
      need (r.order.toNat % 2 == 0) .orderField <|
      need (r.order == 0 || r.scope != 0) .orderWithoutScope <|
      need (r.ch == 0 || (r.scope == 0 && r.order == 0)) .channelField <|
      need (r.op.toNat / 8 < 3 && r.size.toNat == (FaddTy.ofCode (r.op.toNat / 8)).size) .sizeField <|
      need (r.ch == 1 || r.op.toNat % 8 == 0) .opField <|
      .ok (.redFadd h (FaddTy.ofCode (r.op.toNat / 8)) (BitVec.ofNat 3 r.op.toNat) r.opnd r.channel (Scope.ofCode r.scope.toNat) (Order.ofCode r.order.toNat))
  | _ => .error .noEncoding

/-- The words of row 0xA (R132). -/
def decodeChannel (lo : Nat) (h : Head) (r : MRaw) (_lit : Lit) : Except Reject Instr :=
  match lo with
  | 0x0 => need (r.data == 0 && r.dk == 0) .reservedField <|
      need (r.base == 0 && r.bk == 0) .reservedField <|
      need (r.off == 0) .reservedField <|
      need (r.ch == 0 && r.chan == 0) .channelField <|
      need (0 < r.scope.toNat && r.scope.toNat < 6) .scopeField <|
      need (r.order != 0) .orderField <|
      need (r.order == 0 || r.scope != 0) .orderWithoutScope <|
      need (r.size.toNat == 0) .sizeField <|
      need (r.op == 0) .opField <|
      .ok (.fence h (Scope.ofCode r.scope.toNat) (Order.ofCode r.order.toNat))
  | 0x1 => need (r.bk.toNat < 2) .baseKind <|
      need (r.ch == 0 && r.chan == 0) .channelField <|
      need (r.scope.toNat < 6) .scopeField <|
      need (r.order.toNat < 2) .orderField <|
      need (r.order == 0 || r.scope != 0) .orderWithoutScope <|
      need (r.size.toNat == 2) .sizeField <|
      need (r.op.toNat < 2) .opField <|
      need (r.dk == 1) .dataKind <|
      .ok (.mwait h (r.op.toNat == 1) r.opnd (Scope.ofCode r.scope.toNat) (Order.ofCode r.order.toNat))
  | 0x2 => need (r.bk.toNat < 2) .baseKind <|
      need (r.ch == 0 && r.chan == 0) .channelField <|
      need (r.scope.toNat < 6) .scopeField <|
      need (r.order.toNat < 2) .orderField <|
      need (r.order == 0 || r.scope != 0) .orderWithoutScope <|
      need (r.size.toNat == 3) .sizeField <|
      need (r.op.toNat < 2) .opField <|
      need (r.dk == 1) .dataKind <|
      .ok (.mwaitB64 h (r.op.toNat == 1) r.opnd (Scope.ofCode r.scope.toNat) (Order.ofCode r.order.toNat))
  | 0x3 => need (r.data == 0 && r.dk == 0) .reservedField <|
      need (r.base == 0 && r.bk == 0) .reservedField <|
      need (r.off == 0) .reservedField <|
      need (r.ch == 1) .channelField <|
      need (r.scope == 0) .scopeField <|
      need (r.order == 0) .orderField <|
      need (r.size.toNat == 0) .sizeField <|
      need (r.op.toNat < 16) .opField <|
      need (r.op.toNat != r.chan.toNat) .chainItself <|
      .ok (.chain h r.chan (BitVec.ofNat 4 r.op.toNat))
  | 0x4 => need (r.data == 0 && r.dk == 0) .reservedField <|
      need (r.base == 0 && r.bk == 0) .reservedField <|
      need (r.off == 0) .reservedField <|
      need (r.ch == 1) .channelField <|
      need (r.scope == 0) .scopeField <|
      need (r.order == 0) .orderField <|
      need (r.size.toNat == 0) .sizeField <|
      need (r.op == 0) .opField <|
      .ok (.chainAll h r.chan)
  | 0x5 => need (r.dk == 1) .dataKind <|
      need (r.base == 0 && r.bk == 0) .reservedField <|
      need (r.off == 0) .reservedField <|
      need (r.ch == 1) .channelField <|
      need (r.scope == 0) .scopeField <|
      need (r.order == 0) .orderField <|
      need (r.size.toNat == 0) .sizeField <|
      need (r.op == 0) .opField <|
      .ok (.drain h r.data r.chan)
  | 0x6 => need (r.dk == 1) .dataKind <|
      need (r.base == 0 && r.bk == 0) .reservedField <|
      need (r.off == 0) .reservedField <|
      need (r.ch == 1) .channelField <|
      need (r.scope == 0) .scopeField <|
      need (r.order == 0) .orderField <|
      need (r.size.toNat == 0) .sizeField <|
      need (r.op.toNat < 4) .opField <|
      .ok (.chstat h r.data r.chan (BitVec.ofNat 2 r.op.toNat))
  | 0x7 => need (r.data == 0 && r.dk == 0) .reservedField <|
      need (r.base == 0 && r.bk == 0) .reservedField <|
      need (r.off == 0) .reservedField <|
      need (r.ch == 1) .channelField <|
      need (r.scope == 0) .scopeField <|
      need (r.order == 0) .orderField <|
      need (r.size.toNat == 0) .sizeField <|
      need (r.op == 0) .opField <|
      .ok (.chreset h r.chan)
  | 0x8 => need (r.dk == 1) .dataKind <|
      need (r.bk == 1) .baseKind <|
      need (r.off == 0) .reservedField <|
      need (r.ch == 0 && r.chan == 0) .channelField <|
      need (r.scope == 0) .scopeField <|
      need (r.order == 0) .orderField <|
      need (r.size.toNat == 0) .sizeField <|
      need (r.op.toNat < 16) .opField <|
      .ok (.subscribe h r.data r.base (BitVec.ofNat 4 r.op.toNat))
  | 0x9 => need (r.data == 0 && r.dk == 0) .reservedField <|
      need (r.base == 0 && r.bk == 0) .reservedField <|
      need (r.off == 0) .reservedField <|
      need (r.ch == 0 && r.chan == 0) .channelField <|
      need (r.scope == 0) .scopeField <|
      need (r.order == 0) .orderField <|
      need (r.size.toNat == 0) .sizeField <|
      need (r.op.toNat < 16) .opField <|
      .ok (.unsub h (BitVec.ofNat 4 r.op.toNat))
  | 0xA => need (r.bk.toNat < 2) .baseKind <|
      need (r.ch == 0 && r.chan == 0) .channelField <|
      need (r.scope == 0) .scopeField <|
      need (r.order == 0) .orderField <|
      need (r.size.toNat == 0) .sizeField <|
      .ok (.wown h r.op r.opnd)
  | _ => .error .noEncoding

/-- The words of row 0xB (R132). -/
def decodeEngine (lo : Nat) (h : Head) (r : MRaw) (lit : Lit) : Except Reject Instr :=
  match lo with
  | 0x0 => need (r.dk == 1) .dataKind <|
      need (r.bk == 1) .baseKind <|
      need (r.off == 0) .reservedField <|
      need (r.ch == 1 || r.chan == 0) .channelField <|
      need (r.scope.toNat < 6) .scopeField <|
      need (r.order == 0) .orderField <|
      need (r.ch == 0 || (r.scope == 0)) .channelField <|
      need (r.size.toNat == 0) .sizeField <|
      need (r.op == 0) .opField <|
      .ok (.copy h r.data r.base r.channel (Scope.ofCode r.scope.toNat))
  | 0x1 => need (r.dk == 1) .dataKind <|
      need (r.bk == 1) .baseKind <|
      need (r.off == 0) .reservedField <|
      need (r.ch == 1 || r.chan == 0) .channelField <|
      need (r.scope.toNat < 6) .scopeField <|
      need (r.order == 0) .orderField <|
      need (r.ch == 0 || (r.scope == 0)) .channelField <|
      need (r.size.toNat < 5) .sizeField <|
      need (r.op == 0) .opField <|
      .ok (.copyT h r.data r.base r.channel (Scope.ofCode r.scope.toNat) (Size.ofCode r.size.toNat))
  | 0x2 => need (r.dk == 1) .dataKind <|
      need (r.bk == 1) .baseKind <|
      need (r.off == 0) .reservedField <|
      need (r.ch == 0 && r.chan == 0) .channelField <|
      need (r.scope == 0) .scopeField <|
      need (r.order == 0) .orderField <|
      need (r.size.toNat < 5) .sizeField <|
      need (r.op == 0) .opField <|
      .ok (.hgather h r.data r.base (Size.ofCode r.size.toNat))
  | 0x3 => need (r.data == 0 && r.dk == 0) .reservedField <|
      need (r.bk == 1) .baseKind <|
      need (r.off == 0) .reservedField <|
      need (r.ch == 0 && r.chan == 0) .channelField <|
      need (r.scope == 0) .scopeField <|
      need (r.order == 0) .orderField <|
      need (r.size.toNat == 0) .sizeField <|
      need (r.op.toNat < 8) .opField <|
      .ok (.cbset h r.base (BitVec.ofNat 3 r.op.toNat))
  | 0x4 => need (r.dk == 1) .dataKind <|
      need (r.bk == 1 || r.bk == 3) .baseKind <|
      need (r.off == 0) .reservedField <|
      need (r.ch == 0 && r.chan == 0) .channelField <|
      need (r.scope == 0) .scopeField <|
      need (r.order == 0) .orderField <|
      need (r.size.toNat == 0) .sizeField <|
      need (r.op.toNat < 8) .opField <|
      .ok (.cbwaitP h r.data r.src (BitVec.ofNat 3 r.op.toNat) lit)
  | 0x5 => need (r.dk == 1) .dataKind <|
      need (r.bk == 1 || r.bk == 3) .baseKind <|
      need (r.off == 0) .reservedField <|
      need (r.ch == 0 && r.chan == 0) .channelField <|
      need (r.scope == 0) .scopeField <|
      need (r.order == 0) .orderField <|
      need (r.size.toNat == 0) .sizeField <|
      need (r.op.toNat < 8) .opField <|
      .ok (.cbwaitC h r.data r.src (BitVec.ofNat 3 r.op.toNat) lit)
  | 0x6 => need (r.data == 0 && r.dk == 0) .reservedField <|
      need (r.bk == 1 || r.bk == 3) .baseKind <|
      need (r.off == 0) .reservedField <|
      need (r.ch == 0 && r.chan == 0) .channelField <|
      need (r.scope == 0) .scopeField <|
      need (r.order == 0) .orderField <|
      need (r.size.toNat == 0) .sizeField <|
      need (r.op.toNat < 8) .opField <|
      .ok (.cbrelP h r.src (BitVec.ofNat 3 r.op.toNat) lit)
  | 0x7 => need (r.data == 0 && r.dk == 0) .reservedField <|
      need (r.bk == 1 || r.bk == 3) .baseKind <|
      need (r.off == 0) .reservedField <|
      need (r.ch == 0 && r.chan == 0) .channelField <|
      need (r.scope == 0) .scopeField <|
      need (r.order == 0) .orderField <|
      need (r.size.toNat == 0) .sizeField <|
      need (r.op.toNat < 8) .opField <|
      .ok (.cbrelC h r.src (BitVec.ofNat 3 r.op.toNat) lit)
  | 0x8 => need (r.dk == 0) .dataKind <|
      need (r.bk == 1) .baseKind <|
      need (r.off == 0) .reservedField <|
      need (r.ch == 0 && r.chan == 0) .channelField <|
      need (r.scope == 0) .scopeField <|
      need (r.order == 0) .orderField <|
      need (r.size.toNat == 0) .sizeField <|
      need (r.op == 0) .opField <|
      .ok (.htest h r.data r.base)
  | 0x9 => need (r.dk == 1) .dataKind <|
      need (r.bk != 0) .baseKind <|
      need (r.off == 0) .reservedField <|
      need (r.ch == 0 && r.chan == 0) .channelField <|
      need (r.scope == 0) .scopeField <|
      need (r.order == 0) .orderField <|
      need (r.size.toNat == 0) .sizeField <|
      need (r.op.toNat < 2) .opField <|
      .ok (.hwait h (r.op.toNat == 1) r.data r.src lit)
  | 0xA => need (r.data == 0 && r.dk == 0) .reservedField <|
      need (r.bk == 1) .baseKind <|
      need (r.off == 0) .reservedField <|
      need (r.ch == 0 && r.chan == 0) .channelField <|
      need (r.scope == 0) .scopeField <|
      need (r.order == 0) .orderField <|
      need (r.size.toNat == 0) .sizeField <|
      need (r.op == 0) .opField <|
      .ok (.hcancel h r.base)
  | 0xB => need (r.dk == 1) .dataKind <|
      need (r.bk == 1) .baseKind <|
      need (r.off == 0) .reservedField <|
      need (r.ch == 0 && r.chan == 0) .channelField <|
      need (r.scope == 0) .scopeField <|
      need (r.order == 0) .orderField <|
      need (r.size.toNat == 0) .sizeField <|
      .ok (.hmov h r.data r.base r.op)
  | _ => .error .noEncoding

/-- The words of row 0xC (R132). -/
def decodeMatrix (lo : Nat) (h : Head) (r : XRaw) (_lit : Lit) : Except Reject Instr :=
  match lo with
  | 0x0 => need (r.fa == 0) .reservedField <|
      need (r.row == 0) .reservedField <|
      need (r.sy == 0) .reservedField <|
      need (windowOk r.x r.col) .window <|
      need (r.rows.toNat < 32) .blockCount <|
      .ok (.mldb h (r.x == 1) r.fb r.col (BitVec.ofNat 5 r.rows.toNat) r.sx)
  | 0x1 => need (r.fa == 0) .reservedField <|
      need (r.row == 0) .reservedField <|
      need (windowOk r.x r.col) .window <|
      need (r.rows.toNat < 32) .blockCount <|
      .ok (.mldbPe h (r.x == 1) r.fb r.col (BitVec.ofNat 5 r.rows.toNat) r.sx r.sy)
  | 0x2 => need (r.fb == 0) .reservedField <|
      need (r.sy == 0) .reservedField <|
      need (r.x == 0) .reservedField <|
      need (r.row.toNat + r.rows.toNat < 128) .rowRange <|
      need (r.col.toNat < 64) .blockCount <|
      .ok (.mlda h r.fa r.row r.rows (BitVec.ofNat 6 r.col.toNat) r.sx)
  | 0x3 => need (r.fb == 0) .reservedField <|
      need (r.rows == 0) .reservedField <|
      need (r.sx == 0) .reservedField <|
      need (r.x == 0) .reservedField <|
      need (r.col.toNat < 64) .blockCount <|
      .ok (.mldaV h r.fa r.row (BitVec.ofNat 6 r.col.toNat) r.sy)
  | 0x4 => need (r.fb == 0) .reservedField <|
      need (r.sy == 0) .reservedField <|
      need (r.x == 0) .reservedField <|
      need (r.row.toNat + r.rows.toNat < 128) .rowRange <|
      need (r.col.toNat < 64) .blockCount <|
      .ok (.mldaG h r.fa r.row r.rows (BitVec.ofNat 6 r.col.toNat) r.sx)
  | 0x5 => need (r.fb == 0) .reservedField <|
      need (r.sx == 0) .reservedField <|
      need (r.sy == 0) .reservedField <|
      need (windowOk r.x r.col) .window <|
      need (r.row.toNat + r.rows.toNat < 128) .rowRange <|
      need (r.fa.toNat < 2) .reservedField <|
      .ok (.mzero h (r.fa == 1) (r.x == 1) r.row r.col r.rows)
  | 0x6 => need (r.sx == 0) .reservedField <|
      need (r.sy == 0) .reservedField <|
      need (windowOk r.x r.col) .window <|
      need (r.row.toNat + r.rows.toNat < 128) .rowRange <|
      .ok (.mma h (r.x == 1) r.fa r.fb r.row r.col r.rows)
  | 0x7 => need (r.sx == 0) .reservedField <|
      need (r.sy == 0) .reservedField <|
      need (windowOk r.x r.col) .window <|
      need (r.row.toNat + r.rows.toNat < 128) .rowRange <|
      .ok (.mmaZ h (r.x == 1) r.fa r.fb r.row r.col r.rows)
  | 0x8 => need (r.fb == 0) .reservedField <|
      need (r.sx == 0) .reservedField <|
      need (r.sy == 0) .reservedField <|
      need (r.x == 0) .reservedField <|
      need (r.row.toNat + r.rows.toNat < 128) .rowRange <|
      need (r.col == 0 || r.col == 128) .window <|
      .ok (.mmas h r.fa r.row r.col r.rows)
  | 0x9 => need (r.fa.toNat < 2) .reservedField <|
      if r.fa == 0 then need (r.fa == 0) .reservedField <|
      need (r.fb == 0) .reservedField <|
      need (r.sy == 0) .reservedField <|
      need (windowOk r.x r.col) .window <|
      need (r.row.toNat + r.rows.toNat < 128) .rowRange <|
      .ok (.mscale h (r.x == 1) r.row r.col r.rows r.sx)
      else need (r.fb == 0) .reservedField <|
      need (r.sx == 0) .reservedField <|
      need (r.sy == 0) .reservedField <|
      need (windowOk r.x r.col) .window <|
      need (r.row.toNat + r.rows.toNat < 128) .rowRange <|
      .ok (.mscaleL h (r.x == 1) r.row r.col r.rows)
  | 0xA => if r.x == 0 then need (r.fa == 0) .reservedField <|
      need (r.fb == 0) .reservedField <|
      need (r.col == 0) .reservedField <|
      need (r.sy == 0) .reservedField <|
      need (r.x == 0) .reservedField <|
      need (r.row.toNat + r.rows.toNat < 128) .rowRange <|
      .ok (.mside h r.row r.rows r.sx)
      else need (r.fa == 0) .reservedField <|
      need (r.fb == 0) .reservedField <|
      need (r.col == 0) .reservedField <|
      need (r.sx == 0) .reservedField <|
      need (r.sy == 0) .reservedField <|
      need (r.row.toNat + r.rows.toNat < 128) .rowRange <|
      need (r.rows.toNat < 2) .rowRange <|
      .ok (.msideQ h r.row r.rows)
  | 0xB => need (r.fa == 0) .reservedField <|
      need (r.fb == 0) .reservedField <|
      need (r.rows == 0) .reservedField <|
      need (r.sx == 0) .reservedField <|
      need (windowOk r.x r.col) .window <|
      .ok (.mrdV h (r.x == 1) r.row r.col r.sy)
  | 0xC => need (r.fb == 0) .reservedField <|
      need (r.sy == 0) .reservedField <|
      need (windowOk r.x r.col) .window <|
      need (r.row.toNat + r.rows.toNat < 128) .rowRange <|
      .ok (.mrdSp h (r.x == 1) r.fa r.row r.col r.rows r.sx)
  | 0xD => need (r.fa == 0) .reservedField <|
      need (r.fb == 0) .reservedField <|
      need (r.rows == 0) .reservedField <|
      need (r.sx == 0) .reservedField <|
      need (windowOk r.x r.col) .window <|
      .ok (.mwrV h (r.x == 1) r.row r.col r.sy)
  | 0xE => need (r.fb == 0) .reservedField <|
      need (r.sy == 0) .reservedField <|
      need (windowOk r.x r.col) .window <|
      need (r.row.toNat + r.rows.toNat < 128) .rowRange <|
      .ok (.mwrSp h (r.x == 1) r.fa r.row r.col r.rows r.sx)
  | 0xF => need (r.fa == 0) .reservedField <|
      need (r.row == 0) .reservedField <|
      need (r.x == 0) .reservedField <|
      need (r.rows.toNat < 64 && r.rows.toNat % 2 == 1) .blockCount <|
      .ok (.mcomp h r.fb r.col (BitVec.ofNat 6 r.rows.toNat) r.sx r.sy)
  | _ => .error .noEncoding

/-- The words of row 0xD (R132). -/
def decodeMatrixRest (lo : Nat) (h : Head) (r : XRaw) (_lit : Lit) : Except Reject Instr :=
  match lo with
  | 0x0 => need (r.sy == 0) .reservedField <|
      need (windowOk r.x r.col) .window <|
      need (r.row.toNat + r.rows.toNat < 128) .rowRange <|
      .ok (.mspma h (r.x == 1) r.fa r.fb r.row r.col r.rows r.sx)
  | 0x1 => need (r.sy == 0) .reservedField <|
      need (windowOk r.x r.col) .window <|
      need (r.row.toNat + r.rows.toNat < 128) .rowRange <|
      .ok (.mspmaZ h (r.x == 1) r.fa r.fb r.row r.col r.rows r.sx)
  | 0x2 => need (r.fb == 0) .reservedField <|
      need (windowOk r.x r.col) .window <|
      need (r.row.toNat + r.rows.toNat < 128) .rowRange <|
      .ok (.mdrain h (r.x == 1) r.fa r.row r.col r.rows r.sx r.sy)
  | 0x3 => need (r.fb == 0) .reservedField <|
      need (windowOk r.x r.col) .window <|
      need (r.row.toNat + r.rows.toNat < 128) .rowRange <|
      .ok (.mdrainAdd h (r.x == 1) r.fa r.row r.col r.rows r.sx r.sy)
  | 0x4 => need (r.fa == 0) .reservedField <|
      need (r.fb == 0) .reservedField <|
      need (r.row == 0) .reservedField <|
      need (r.rows == 0) .reservedField <|
      need (r.sx == 0) .reservedField <|
      need (r.sy == 0) .reservedField <|
      need (r.x == 0) .reservedField <|
      need (r.col.toNat < 3) .gangSplit <|
      .ok (.mgang h (BitVec.ofNat 2 r.col.toNat))
  | 0x5 => need (r.fa == 0) .reservedField <|
      need (r.fb == 0) .reservedField <|
      need (r.row == 0) .reservedField <|
      need (r.col == 0) .reservedField <|
      need (r.rows == 0) .reservedField <|
      need (r.sx == 0) .reservedField <|
      need (r.sy == 0) .reservedField <|
      need (r.x == 0) .reservedField <|
      .ok (.mchk h)
  | 0x6 => need (r.fa == 0) .reservedField <|
      need (r.fb == 0) .reservedField <|
      need (r.col == 0) .reservedField <|
      need (r.sy == 0) .reservedField <|
      need (r.x == 0) .reservedField <|
      need (r.row.toNat + r.rows.toNat < 128) .rowRange <|
      .ok (.msideW h r.row r.rows r.sx)
  | _ => .error .noEncoding

/-- The words of row 0xE (R132). -/
def decodeSystem (lo : Nat) (h : Head) (r : VRaw) (lit : Lit) : Except Reject Instr :=
  match lo with
  | 0x0 => need (r.dst == 0 && r.dk == 0) .reservedField <|
      need (r.noB) .unusedSource <|
      need (r.noC) .unusedSource <|
      need (r.mod.toNat == 0) .modifier <|
      .ok (.trap h r.srcA lit)
  | 0x1 => need (r.dst == 0 && r.dk == 0) .reservedField <|
      need (r.noA) .unusedSource <|
      need (r.noB) .unusedSource <|
      need (r.noC) .unusedSource <|
      need (r.mod.toNat == 0) .modifier <|
      .ok (.brk h)
  | 0x2 => need (r.dst == 0 && r.dk == 0) .reservedField <|
      need (r.noC) .unusedSource <|
      need (0 < r.mod.toNat && r.mod.toNat < 6) .modifier <|
      .ok (.icinv h (Scope.ofCode r.mod.toNat) r.srcA r.srcB lit)
  | 0x3 => need (r.dst == 0 && r.dk == 0) .reservedField <|
      need (r.noC) .unusedSource <|
      need (r.mod.toNat == 0) .modifier <|
      .ok (.dcflush h r.srcA r.srcB lit)
  | 0x4 => need (r.dst == 0 && r.dk == 0) .reservedField <|
      need (r.noB) .unusedSource <|
      need (r.noC) .unusedSource <|
      need (r.mod.toNat == 0) .modifier <|
      .ok (.trec h r.srcA lit)
  | 0x5 => need (r.dst == 0 && r.dk == 0) .reservedField <|
      need (r.noC) .unusedSource <|
      need (r.mod.toNat == 0) .modifier <|
      .ok (.trecV h r.srcA r.srcB lit)
  | 0x6 => need (r.noA) .unusedSource <|
      need (r.noB) .unusedSource <|
      need (r.noC) .unusedSource <|
      need (r.mod.toNat == 0) .modifier <|
      .ok (.snap h r.d)
  | _ => .error .noEncoding

/-- R132: the instruction of an assigned opcode, from its head, its body and its long literal. -/
def decodeBody (op : Nat) (h : Head) (b : Body) (lit : Lit) : Except Reject Instr :=
  match op / 16, b with
  | 0x0, .v r => decodeInt (op % 16) h r lit
  | 0x1, .v r => decodeLogic (op % 16) h r lit
  | 0x2, .v r => decodeFp32 (op % 16) h r lit
  | 0x3, .v r => decodePacked (op % 16) h r lit
  | 0x4, .v r => decodeCompare (op % 16) h r lit
  | 0x5, .v r => decodeMove (op % 16) h r lit
  | 0x6, .c r => decodeBranch (op % 16) h r lit
  | 0x7, .c r => decodeConverge (op % 16) h r lit
  | 0x7, .v r => decodeConvergeV (op % 16) h r lit
  | 0x8, .m r => decodeLoad (op % 16) h r lit
  | 0x9, .m r => decodeStore (op % 16) h r lit
  | 0xA, .m r => decodeChannel (op % 16) h r lit
  | 0xB, .m r => decodeEngine (op % 16) h r lit
  | 0xC, .x r => decodeMatrix (op % 16) h r lit
  | 0xD, .x r => decodeMatrixRest (op % 16) h r lit
  | 0xE, .v r => decodeSystem (op % 16) h r lit
  | _, _ => .error .noEncoding

/-- R134 item 1 over a head and body: unassigned codes are instructions of their own (R133). -/
def decodeParts (op : Nat) (h : Head) (b : Body) (lit : Lit) : Except Reject Instr :=
  need (!collective op || (h.pred == 7 && !h.neg)) .collectivePredicate <| decodeBody op h b lit

/-- The instruction of a 64-bit word `w`, where `next` is the word after it in its clause. -/
def decodeWord (w : Nat) (next : Option Nat) : Except Reject Instr :=
  let op := opcodeOf w
  if unassigned op then .ok (.unassignedOpcode (BitVec.ofNat 8 op) (BitVec.ofNat 56 w))
  else
    let b := Body.unpack (fmtOf op) w
    if b.long op then
      match next with
      | none => .error .literalMissing
      | some l => need (l < 2 ^ 32) .literalHigh <| decodeParts op (headOf w) b (some (BitVec.ofNat 32 l))
    else decodeParts op (headOf w) b none

/-! ## The encoder -/

/-- The encoding of an instruction word; the steps that are no instruction words have none. -/
def encodeParts : Instr → Option Encoded
  | .iadd h sat u d a b lit => some ⟨0x01, h, .v (vRaw d.f (bit d.sca) a.kf b.kf (0, 0) (2 * bitN sat + bitN u)), lit⟩
  | .iaddB64 h sat u d a b lit => some ⟨0x02, h, .v (vRaw d.f (bit d.sca) a.kf b.kf (0, 0) (2 * bitN sat + bitN u)), lit⟩
  | .iaddc h cout cin d a b lit => some ⟨0x03, h, .v (vRaw d.f (bit d.sca) a.kf b.kf (0, 0) (8 * cout.toNat + cin.toNat)), lit⟩
  | .isub h sat u d a b lit => some ⟨0x04, h, .v (vRaw d.f (bit d.sca) a.kf b.kf (0, 0) (2 * bitN sat + bitN u)), lit⟩
  | .isubB64 h sat u d a b lit => some ⟨0x05, h, .v (vRaw d.f (bit d.sca) a.kf b.kf (0, 0) (2 * bitN sat + bitN u)), lit⟩
  | .imul h d a b lit => some ⟨0x06, h, .v (vRaw d.f (bit d.sca) a.kf b.kf (0, 0) (0)), lit⟩
  | .imulB64 h d a b lit => some ⟨0x07, h, .v (vRaw d.f (bit d.sca) a.kf b.kf (0, 0) (0)), lit⟩
  | .imulh h u d a b lit => some ⟨0x08, h, .v (vRaw d.f (bit d.sca) a.kf b.kf (0, 0) (bitN u)), lit⟩
  | .imad h d a b c lit => some ⟨0x09, h, .v (vRaw d.f (bit d.sca) a.kf b.kf c.kf (0)), lit⟩
  | .imadB64 h u d a b c lit => some ⟨0x0A, h, .v (vRaw d.f (bit d.sca) a.kf b.kf c.kf (bitN u)), lit⟩
  | .imin h u d a b lit => some ⟨0x0B, h, .v (vRaw d.f (bit d.sca) a.kf b.kf (0, 0) (bitN u)), lit⟩
  | .imax h u d a b lit => some ⟨0x0C, h, .v (vRaw d.f (bit d.sca) a.kf b.kf (0, 0) (bitN u)), lit⟩
  | .iabs h sat d a lit => some ⟨0x0D, h, .v (vRaw d.f (bit d.sca) a.kf (0, 0) (0, 0) (2 * bitN sat)), lit⟩
  | .ineg h sat d a lit => some ⟨0x0E, h, .v (vRaw d.f (bit d.sca) a.kf (0, 0) (0, 0) (2 * bitN sat)), lit⟩
  | .lea h sx n d a b lit => some ⟨0x0F, h, .v (vRaw d.f (bit d.sca) a.kf b.kf (0, 0) (32 * bitN sx + n.toNat)), lit⟩
  | .and h d a b lit => some ⟨0x10, h, .v (vRaw d.f (bit d.sca) a.kf b.kf (0, 0) (0)), lit⟩
  | .or h d a b lit => some ⟨0x11, h, .v (vRaw d.f (bit d.sca) a.kf b.kf (0, 0) (0)), lit⟩
  | .xor h d a b lit => some ⟨0x12, h, .v (vRaw d.f (bit d.sca) a.kf b.kf (0, 0) (0)), lit⟩
  | .not h d a lit => some ⟨0x13, h, .v (vRaw d.f (bit d.sca) a.kf (0, 0) (0, 0) (0)), lit⟩
  | .shl h d a b lit => some ⟨0x14, h, .v (vRaw d.f (bit d.sca) a.kf b.kf (0, 0) (0)), lit⟩
  | .shr h d a b lit => some ⟨0x15, h, .v (vRaw d.f (bit d.sca) a.kf b.kf (0, 0) (0)), lit⟩
  | .sar h d a b lit => some ⟨0x16, h, .v (vRaw d.f (bit d.sca) a.kf b.kf (0, 0) (0)), lit⟩
  | .rol h d a b lit => some ⟨0x17, h, .v (vRaw d.f (bit d.sca) a.kf b.kf (0, 0) (0)), lit⟩
  | .bfx h u d a b lit => some ⟨0x18, h, .v (vRaw d.f (bit d.sca) a.kf b.kf (0, 0) (bitN u)), lit⟩
  | .bfi h d a b c lit => some ⟨0x19, h, .v (vRaw d.f (bit d.sca) a.kf b.kf c.kf (0)), lit⟩
  | .popc h d a lit => some ⟨0x1A, h, .v (vRaw d.f (bit d.sca) a.kf (0, 0) (0, 0) (0)), lit⟩
  | .clz h d a lit => some ⟨0x1B, h, .v (vRaw d.f (bit d.sca) a.kf (0, 0) (0, 0) (0)), lit⟩
  | .brev h d a lit => some ⟨0x1C, h, .v (vRaw d.f (bit d.sca) a.kf (0, 0) (0, 0) (0)), lit⟩
  | .shlB64 h d a b lit => some ⟨0x1D, h, .v (vRaw d.f (bit d.sca) a.kf b.kf (0, 0) (0)), lit⟩
  | .shrB64 h d a b lit => some ⟨0x1E, h, .v (vRaw d.f (bit d.sca) a.kf b.kf (0, 0) (0)), lit⟩
  | .sarB64 h d a b lit => some ⟨0x1F, h, .v (vRaw d.f (bit d.sca) a.kf b.kf (0, 0) (0)), lit⟩
  | .fadd h na rnd d a b lit => some ⟨0x20, h, .v (vRaw d.f (bit d.sca) a.kf b.kf (0, 0) (4 * bitN na + rnd.code)), lit⟩
  | .fsub h na rnd d a b lit => some ⟨0x21, h, .v (vRaw d.f (bit d.sca) a.kf b.kf (0, 0) (4 * bitN na + rnd.code)), lit⟩
  | .fmul h na rnd d a b lit => some ⟨0x22, h, .v (vRaw d.f (bit d.sca) a.kf b.kf (0, 0) (4 * bitN na + rnd.code)), lit⟩
  | .ffma h nc na rnd d a b c lit => some ⟨0x23, h, .v (vRaw d.f (bit d.sca) a.kf b.kf c.kf (8 * bitN nc + 4 * bitN na + rnd.code)), lit⟩
  | .fmin h na d a b lit => some ⟨0x24, h, .v (vRaw d.f (bit d.sca) a.kf b.kf (0, 0) (4 * bitN na)), lit⟩
  | .fmax h na d a b lit => some ⟨0x25, h, .v (vRaw d.f (bit d.sca) a.kf b.kf (0, 0) (4 * bitN na)), lit⟩
  | .frnd h na rnd d a lit => some ⟨0x26, h, .v (vRaw d.f (bit d.sca) a.kf (0, 0) (0, 0) (4 * bitN na + rnd.code)), lit⟩
  | .frcp h na d a lit => some ⟨0x27, h, .v (vRaw d.f (bit d.sca) a.kf (0, 0) (0, 0) (4 * bitN na)), lit⟩
  | .frsq h na d a lit => some ⟨0x28, h, .v (vRaw d.f (bit d.sca) a.kf (0, 0) (0, 0) (4 * bitN na)), lit⟩
  | .fsqrt h na d a lit => some ⟨0x29, h, .v (vRaw d.f (bit d.sca) a.kf (0, 0) (0, 0) (4 * bitN na)), lit⟩
  | .fexp2 h na d a lit => some ⟨0x2A, h, .v (vRaw d.f (bit d.sca) a.kf (0, 0) (0, 0) (4 * bitN na)), lit⟩
  | .flog2 h na d a lit => some ⟨0x2B, h, .v (vRaw d.f (bit d.sca) a.kf (0, 0) (0, 0) (4 * bitN na)), lit⟩
  | .fsin h na d a lit => some ⟨0x2C, h, .v (vRaw d.f (bit d.sca) a.kf (0, 0) (0, 0) (4 * bitN na)), lit⟩
  | .fcos h na d a lit => some ⟨0x2D, h, .v (vRaw d.f (bit d.sca) a.kf (0, 0) (0, 0) (4 * bitN na)), lit⟩
  | .hadd2 h bf rnd d a b lit => some ⟨0x30, h, .v (vRaw d.f (bit d.sca) a.kf b.kf (0, 0) (4 * bitN bf + rnd.code)), lit⟩
  | .hmul2 h bf rnd d a b lit => some ⟨0x31, h, .v (vRaw d.f (bit d.sca) a.kf b.kf (0, 0) (4 * bitN bf + rnd.code)), lit⟩
  | .hfma2 h rnd d a b c lit => some ⟨0x32, h, .v (vRaw d.f (bit d.sca) a.kf b.kf c.kf (rnd.code)), lit⟩
  | .bfma2 h rnd d a b c lit => some ⟨0x33, h, .v (vRaw d.f (bit d.sca) a.kf b.kf c.kf (rnd.code)), lit⟩
  | .hmin2 h bf d a b lit => some ⟨0x34, h, .v (vRaw d.f (bit d.sca) a.kf b.kf (0, 0) (4 * bitN bf)), lit⟩
  | .hmax2 h bf d a b lit => some ⟨0x35, h, .v (vRaw d.f (bit d.sca) a.kf b.kf (0, 0) (4 * bitN bf)), lit⟩
  | .cvtFF h dt st rnd d a lit => some ⟨0x36, h, .v (vRaw d.f (bit d.sca) a.kf (0, 0) (0, 0) (16 * dt.code + 4 * st.code + rnd.code)), lit⟩
  | .cvtIF h st dt rnd d a lit => some ⟨0x37, h, .v (vRaw d.f (bit d.sca) a.kf (0, 0) (0, 0) (16 * st.code + 4 * dt.code + rnd.code)), lit⟩
  | .cvtFI h dt st rnd d a lit => some ⟨0x38, h, .v (vRaw d.f (bit d.sca) a.kf (0, 0) (0, 0) (16 * dt.code + 4 * st.code + rnd.code)), lit⟩
  | .cvtn h slot pos d a b c lit => some ⟨0x39, h, .v (vRaw d.f (bit d.sca) a.kf b.kf c.kf (8 * slot.toNat + pos.toNat)), lit⟩
  | .cvtw h slot pos d a lit => some ⟨0x3A, h, .v (vRaw d.f (bit d.sca) a.kf (0, 0) (0, 0) (8 * slot.toNat + pos.toNat)), lit⟩
  | .icmpEq h comb pc u d a b lit => some ⟨0x40, h, .v (vRaw d.f (bit d.sca) a.kf b.kf (0, 0) (8 * pc.toNat + 2 * comb.code + bitN u)), lit⟩
  | .icmpNe h comb pc u d a b lit => some ⟨0x41, h, .v (vRaw d.f (bit d.sca) a.kf b.kf (0, 0) (8 * pc.toNat + 2 * comb.code + bitN u)), lit⟩
  | .icmpLt h comb pc u d a b lit => some ⟨0x42, h, .v (vRaw d.f (bit d.sca) a.kf b.kf (0, 0) (8 * pc.toNat + 2 * comb.code + bitN u)), lit⟩
  | .icmpLe h comb pc u d a b lit => some ⟨0x43, h, .v (vRaw d.f (bit d.sca) a.kf b.kf (0, 0) (8 * pc.toNat + 2 * comb.code + bitN u)), lit⟩
  | .icmpGt h comb pc u d a b lit => some ⟨0x44, h, .v (vRaw d.f (bit d.sca) a.kf b.kf (0, 0) (8 * pc.toNat + 2 * comb.code + bitN u)), lit⟩
  | .icmpGe h comb pc u d a b lit => some ⟨0x45, h, .v (vRaw d.f (bit d.sca) a.kf b.kf (0, 0) (8 * pc.toNat + 2 * comb.code + bitN u)), lit⟩
  | .fcmpEq h comb pc d a b lit => some ⟨0x46, h, .v (vRaw d.f (bit d.sca) a.kf b.kf (0, 0) (8 * pc.toNat + 2 * comb.code)), lit⟩
  | .fcmpNe h comb pc d a b lit => some ⟨0x47, h, .v (vRaw d.f (bit d.sca) a.kf b.kf (0, 0) (8 * pc.toNat + 2 * comb.code)), lit⟩
  | .fcmpLt h comb pc d a b lit => some ⟨0x48, h, .v (vRaw d.f (bit d.sca) a.kf b.kf (0, 0) (8 * pc.toNat + 2 * comb.code)), lit⟩
  | .fcmpLe h comb pc d a b lit => some ⟨0x49, h, .v (vRaw d.f (bit d.sca) a.kf b.kf (0, 0) (8 * pc.toNat + 2 * comb.code)), lit⟩
  | .fcmpGt h comb pc d a b lit => some ⟨0x4A, h, .v (vRaw d.f (bit d.sca) a.kf b.kf (0, 0) (8 * pc.toNat + 2 * comb.code)), lit⟩
  | .fcmpGe h comb pc d a b lit => some ⟨0x4B, h, .v (vRaw d.f (bit d.sca) a.kf b.kf (0, 0) (8 * pc.toNat + 2 * comb.code)), lit⟩
  | .fcmpUn h comb pc d a b lit => some ⟨0x4C, h, .v (vRaw d.f (bit d.sca) a.kf b.kf (0, 0) (8 * pc.toNat + 2 * comb.code)), lit⟩
  | .sel h pn p d a b lit => some ⟨0x4D, h, .v (vRaw d.f (bit d.sca) a.kf b.kf (0, 0) (8 * bitN pn + p.toNat)), lit⟩
  | .pset h d a lit => some ⟨0x4E, h, .v (vRaw d.f (bit d.sca) a.kf (0, 0) (0, 0) (0)), lit⟩
  | .pmovGet h d => some ⟨0x4F, h, .v (vRaw d.f (bit d.sca) (0, 0) (0, 0) (0, 0) (0)), none⟩
  | .pmovPut h dk a b lit => some ⟨0x4F, h, .v (vRaw 0 (bit dk) a.kf b.kf (0, 0) (1)), lit⟩
  | .mov h d a lit => some ⟨0x50, h, .v (vRaw d.f (bit d.sca) a.kf (0, 0) (0, 0) (0)), lit⟩
  | .movB64 h d a lit => some ⟨0x51, h, .v (vRaw d.f (bit d.sca) a.kf (0, 0) (0, 0) (0)), lit⟩
  | .movc h bank d a lit => some ⟨0x52, h, .v (vRaw d.f (bit d.sca) a.kf (0, 0) (0, 0) (bank.toNat)), lit⟩
  | .shflIdx h d a b lit => some ⟨0x53, h, .v (vRaw d.f (bit d.sca) a.kf b.kf (0, 0) (0)), lit⟩
  | .shflUp h d a b lit => some ⟨0x54, h, .v (vRaw d.f (bit d.sca) a.kf b.kf (0, 0) (0)), lit⟩
  | .shflDown h d a b lit => some ⟨0x55, h, .v (vRaw d.f (bit d.sca) a.kf b.kf (0, 0) (0)), lit⟩
  | .shflXor h d a b lit => some ⟨0x56, h, .v (vRaw d.f (bit d.sca) a.kf b.kf (0, 0) (0)), lit⟩
  | .voteAny h pn p d => some ⟨0x57, h, .v (vRaw d.f (bit d.sca) (0, 0) (0, 0) (0, 0) (8 * bitN pn + p.toNat)), none⟩
  | .voteAll h pn p d => some ⟨0x58, h, .v (vRaw d.f (bit d.sca) (0, 0) (0, 0) (0, 0) (8 * bitN pn + p.toNat)), none⟩
  | .voteBallot h pn p d => some ⟨0x59, h, .v (vRaw d.f (bit d.sca) (0, 0) (0, 0) (0, 0) (8 * bitN pn + p.toNat)), none⟩
  | .redg h ty op d a lit => some ⟨0x5A, h, .v (vRaw d.f (bit d.sca) a.kf (0, 0) (0, 0) (8 * ty.code + op.code)), lit⟩
  | .scanInc h ty op d a lit => some ⟨0x5B, h, .v (vRaw d.f (bit d.sca) a.kf (0, 0) (0, 0) (8 * ty.code + op.code)), lit⟩
  | .scanExc h ty op d a lit => some ⟨0x5C, h, .v (vRaw d.f (bit d.sca) a.kf (0, 0) (0, 0) (8 * ty.code + op.code)), lit⟩
  | .sread h sr d => some ⟨0x5D, h, .v (vRaw d.f (bit d.sca) (0, 0) (0, 0) (0, 0) (sr.code)), none⟩
  | .swrite h sr d a lit => some ⟨0x5E, h, .v (vRaw d.f (bit d.sca) a.kf (0, 0) (0, 0) (sr.code)), lit⟩
  | .rand h f d a lit => some ⟨0x5F, h, .v (vRaw d.f (bit d.sca) a.kf (0, 0) (0, 0) (bitN f)), lit⟩
  | .unassignedOpcode _ _ => none
  | .nop h dk => some ⟨0x60, h, .c (cRaw 0 (bit dk) 0 (0)), none⟩
  | .bra h dk target => some ⟨0x61, h, .c (cRaw 0 (bit dk) target (0)), none⟩
  | .braU h dk target => some ⟨0x62, h, .c (cRaw 0 (bit dk) target (0)), none⟩
  | .brx h dk x => some ⟨0x63, h, .c (cRaw 0 (bit dk) 0 (256 * bitN x.sca + x.r.toNat)), none⟩
  | .call h dk ld target => some ⟨0x64, h, .c (cRaw ld (bit dk) target (0)), none⟩
  | .callx h dk ld x => some ⟨0x65, h, .c (cRaw ld (bit dk) 0 (256 * bitN x.sca + x.r.toNat)), none⟩
  | .ret h dk x => some ⟨0x66, h, .c (cRaw 0 (bit dk) 0 (256 * bitN x.sca + x.r.toNat)), none⟩
  | .meet h dk ld target => some ⟨0x70, h, .c (cRaw ld (bit dk) target (0)), none⟩
  | .mrset h dk x => some ⟨0x71, h, .c (cRaw 0 (bit dk) 0 (256 * bitN x.sca + x.r.toNat)), none⟩
  | .bar h dk stageForm => some ⟨0x72, h, .c (cRaw 0 (bit dk) 0 (bitN stageForm)), none⟩
  | .barArv h dk stageForm => some ⟨0x73, h, .c (cRaw 0 (bit dk) 0 (bitN stageForm)), none⟩
  | .barWait h dk stageForm => some ⟨0x74, h, .c (cRaw 0 (bit dk) 0 (bitN stageForm)), none⟩
  | .barg h dk launchForm => some ⟨0x75, h, .c (cRaw 0 (bit dk) 0 (bitN launchForm)), none⟩
  | .bargArv h dk launchForm => some ⟨0x76, h, .c (cRaw 0 (bit dk) 0 (bitN launchForm)), none⟩
  | .bargWait h dk launchForm => some ⟨0x77, h, .c (cRaw 0 (bit dk) 0 (bitN launchForm)), none⟩
  | .fetch h dk ld p => some ⟨0x78, h, .c (cRaw ld (bit dk) 0 (p.toNat)), none⟩
  | .fetchV h dk ld p => some ⟨0x79, h, .c (cRaw ld (bit dk) 0 (p.toNat)), none⟩
  | .exit h dk => some ⟨0x7A, h, .c (cRaw 0 (bit dk) 0 (0)), none⟩
  | .tail h dk => some ⟨0x7B, h, .c (cRaw 0 (bit dk) 0 (0)), none⟩
  | .yield h dk => some ⟨0x7C, h, .c (cRaw 0 (bit dk) 0 (0)), none⟩
  | .resampleL pz a b lit => some ⟨0x7D, headPlain, .v (vRaw 0 0 a.kf b.kf (0, 0) (pz.toNat)), lit⟩
  | .resampleG pz a b lit => some ⟨0x7E, headPlain, .v (vRaw 0 0 a.kf b.kf (0, 0) (pz.toNat)), lit⟩
  | .ld h sx m scope order size => some ⟨0x80, h, .m (mRaw m.data (bit m.dk) m.base m.bk m.off none scope.code order.code size.code (bitN sx)), none⟩
  | .ldNc h sx m scope order size => some ⟨0x81, h, .m (mRaw m.data (bit m.dk) m.base m.bk m.off none scope.code order.code size.code (bitN sx)), none⟩
  | .ldStr h sx m scope order size => some ⟨0x82, h, .m (mRaw m.data (bit m.dk) m.base m.bk m.off none scope.code order.code size.code (bitN sx)), none⟩
  | .lds h sx m scope order size => some ⟨0x83, h, .m (mRaw m.data (bit m.dk) m.base m.bk m.off none scope.code order.code size.code (bitN sx)), none⟩
  | .ldp h rank m scope order size => some ⟨0x84, h, .m (mRaw m.data (bit m.dk) m.base m.bk m.off none scope.code order.code size.code (rank.toNat)), none⟩
  | .st h m chan scope order size => some ⟨0x90, h, .m (mRaw m.data (bit m.dk) m.base m.bk m.off chan scope.code order.code size.code (0)), none⟩
  | .sts h m scope order size => some ⟨0x91, h, .m (mRaw m.data (bit m.dk) m.base m.bk m.off none scope.code order.code size.code (0)), none⟩
  | .stp h rank m scope order size => some ⟨0x92, h, .m (mRaw m.data (bit m.dk) m.base m.bk m.off none scope.code order.code size.code (rank.toNat)), none⟩
  | .atomAdd h m chan scope order size => some ⟨0x93, h, .m (mRaw m.data (bit m.dk) m.base m.bk m.off chan scope.code order.code size.code (0)), none⟩
  | .atomMin h u m chan scope order size => some ⟨0x94, h, .m (mRaw m.data (bit m.dk) m.base m.bk m.off chan scope.code order.code size.code (bitN u)), none⟩
  | .atomMax h u m chan scope order size => some ⟨0x95, h, .m (mRaw m.data (bit m.dk) m.base m.bk m.off chan scope.code order.code size.code (bitN u)), none⟩
  | .atomAnd h m chan scope order size => some ⟨0x96, h, .m (mRaw m.data (bit m.dk) m.base m.bk m.off chan scope.code order.code size.code (0)), none⟩
  | .atomOr h m chan scope order size => some ⟨0x97, h, .m (mRaw m.data (bit m.dk) m.base m.bk m.off chan scope.code order.code size.code (0)), none⟩
  | .atomXor h m chan scope order size => some ⟨0x98, h, .m (mRaw m.data (bit m.dk) m.base m.bk m.off chan scope.code order.code size.code (0)), none⟩
  | .atomExch h m chan scope order size => some ⟨0x99, h, .m (mRaw m.data (bit m.dk) m.base m.bk m.off chan scope.code order.code size.code (0)), none⟩
  | .atomCas h m chan scope order size => some ⟨0x9A, h, .m (mRaw m.data (bit m.dk) m.base m.bk m.off chan scope.code order.code size.code (0)), none⟩
  | .atomFadd h m chan scope order => some ⟨0x9B, h, .m (mRaw m.data (bit m.dk) m.base m.bk m.off chan scope.code order.code 2 (0)), none⟩
  | .redAdd h m chan scope order size => some ⟨0x9C, h, .m (mRaw m.data (bit m.dk) m.base m.bk m.off chan scope.code order.code size.code (0)), none⟩
  | .redMin h u m chan scope order size => some ⟨0x9D, h, .m (mRaw m.data (bit m.dk) m.base m.bk m.off chan scope.code order.code size.code (bitN u)), none⟩
  | .redMax h u m chan scope order size => some ⟨0x9E, h, .m (mRaw m.data (bit m.dk) m.base m.bk m.off chan scope.code order.code size.code (bitN u)), none⟩
  | .redFadd h ty slot m chan scope order => some ⟨0x9F, h, .m (mRaw m.data (bit m.dk) m.base m.bk m.off chan scope.code order.code ty.size (8 * ty.code + slot.toNat)), none⟩
  | .fence h scope order => some ⟨0xA0, h, .m (mRaw 0 0 0 0 0 none scope.code order.code 0 (0)), none⟩
  | .mwait h eq m scope order => some ⟨0xA1, h, .m (mRaw m.data (bit m.dk) m.base m.bk m.off none scope.code order.code 2 (bitN eq)), none⟩
  | .mwaitB64 h eq m scope order => some ⟨0xA2, h, .m (mRaw m.data (bit m.dk) m.base m.bk m.off none scope.code order.code 3 (bitN eq)), none⟩
  | .chain h ka kb => some ⟨0xA3, h, .m (mRaw 0 0 0 0 0 (some ka) 0 0 0 (kb.toNat)), none⟩
  | .chainAll h ka => some ⟨0xA4, h, .m (mRaw 0 0 0 0 0 (some ka) 0 0 0 (0)), none⟩
  | .drain h hd k => some ⟨0xA5, h, .m (mRaw hd 1 0 0 0 (some k) 0 0 0 (0)), none⟩
  | .chstat h d k n => some ⟨0xA6, h, .m (mRaw d 1 0 0 0 (some k) 0 0 0 (n.toNat)), none⟩
  | .chreset h k => some ⟨0xA7, h, .m (mRaw 0 0 0 0 0 (some k) 0 0 0 (0)), none⟩
  | .subscribe h hd q n => some ⟨0xA8, h, .m (mRaw hd 1 q 1 0 none 0 0 0 (n.toNat)), none⟩
  | .unsub h n => some ⟨0xA9, h, .m (mRaw 0 0 0 0 0 none 0 0 0 (n.toNat)), none⟩
  | .wown h rank m => some ⟨0xAA, h, .m (mRaw m.data (bit m.dk) m.base m.bk m.off none 0 0 0 (rank.toNat)), none⟩
  | .copy h hd base chan scope => some ⟨0xB0, h, .m (mRaw hd 1 base 1 0 chan scope.code 0 0 (0)), none⟩
  | .copyT h hd base chan scope size => some ⟨0xB1, h, .m (mRaw hd 1 base 1 0 chan scope.code 0 size.code (0)), none⟩
  | .hgather h hd base size => some ⟨0xB2, h, .m (mRaw hd 1 base 1 0 none 0 0 size.code (0)), none⟩
  | .cbset h q n => some ⟨0xB3, h, .m (mRaw 0 0 q 1 0 none 0 0 0 (n.toNat)), none⟩
  | .cbwaitP h d cnt n lit => some ⟨0xB4, h, .m (mRaw d 1 cnt.kf.2 cnt.kf.1 0 none 0 0 0 (n.toNat)), lit⟩
  | .cbwaitC h d cnt n lit => some ⟨0xB5, h, .m (mRaw d 1 cnt.kf.2 cnt.kf.1 0 none 0 0 0 (n.toNat)), lit⟩
  | .cbrelP h cnt n lit => some ⟨0xB6, h, .m (mRaw 0 0 cnt.kf.2 cnt.kf.1 0 none 0 0 0 (n.toNat)), lit⟩
  | .cbrelC h cnt n lit => some ⟨0xB7, h, .m (mRaw 0 0 cnt.kf.2 cnt.kf.1 0 none 0 0 0 (n.toNat)), lit⟩
  | .htest h pd hs => some ⟨0xB8, h, .m (mRaw pd 0 hs 1 0 none 0 0 0 (0)), none⟩
  | .hwait h all d m lit => some ⟨0xB9, h, .m (mRaw d 1 m.kf.2 m.kf.1 0 none 0 0 0 (bitN all)), lit⟩
  | .hcancel h hs => some ⟨0xBA, h, .m (mRaw 0 0 hs 1 0 none 0 0 0 (0)), none⟩
  | .hmov h hd hs sg => some ⟨0xBB, h, .m (mRaw hd 1 hs 1 0 none 0 0 0 (sg.toNat)), none⟩
  | .mldb h half fb col kb sx => some ⟨0xC0, h, .x (xRaw 0 fb 0 col (BitVec.ofNat 7 kb.toNat) sx 0 (bit half)), none⟩
  | .mldbPe h half fb col kb sx sy => some ⟨0xC1, h, .x (xRaw 0 fb 0 col (BitVec.ofNat 7 kb.toNat) sx sy (bit half)), none⟩
  | .mlda h fa row rows kb sx => some ⟨0xC2, h, .x (xRaw fa 0 row (BitVec.ofNat 8 kb.toNat) rows sx 0 0), none⟩
  | .mldaV h fa row kb sy => some ⟨0xC3, h, .x (xRaw fa 0 row (BitVec.ofNat 8 kb.toNat) 0 0 sy 0), none⟩
  | .mldaG h fa row rows kb sx => some ⟨0xC4, h, .x (xRaw fa 0 row (BitVec.ofNat 8 kb.toNat) rows sx 0 0), none⟩
  | .mzero h side half row col rows => some ⟨0xC5, h, .x (xRaw (BitVec.ofNat 3 (bitN side)) 0 row col rows 0 0 (bit half)), none⟩
  | .mma h half fa fb row col rows => some ⟨0xC6, h, .x (xRaw fa fb row col rows 0 0 (bit half)), none⟩
  | .mmaZ h half fa fb row col rows => some ⟨0xC7, h, .x (xRaw fa fb row col rows 0 0 (bit half)), none⟩
  | .mmas h fa row col rows => some ⟨0xC8, h, .x (xRaw fa 0 row col rows 0 0 0), none⟩
  | .mscale h half row col rows sx => some ⟨0xC9, h, .x (xRaw 0 0 row col rows sx 0 (bit half)), none⟩
  | .mscaleL h half row col rows => some ⟨0xC9, h, .x (xRaw 1 0 row col rows 0 0 (bit half)), none⟩
  | .mside h row rows sx => some ⟨0xCA, h, .x (xRaw 0 0 row 0 rows sx 0 0), none⟩
  | .msideQ h row rows => some ⟨0xCA, h, .x (xRaw 0 0 row 0 rows 0 0 1), none⟩
  | .msideW h row rows sx => some ⟨0xD6, h, .x (xRaw 0 0 row 0 rows sx 0 0), none⟩
  | .mrdV h half row col sy => some ⟨0xCB, h, .x (xRaw 0 0 row col 0 0 sy (bit half)), none⟩
  | .mrdSp h half fa row col rows sx => some ⟨0xCC, h, .x (xRaw fa 0 row col rows sx 0 (bit half)), none⟩
  | .mwrV h half row col sy => some ⟨0xCD, h, .x (xRaw 0 0 row col 0 0 sy (bit half)), none⟩
  | .mwrSp h half fa row col rows sx => some ⟨0xCE, h, .x (xRaw fa 0 row col rows sx 0 (bit half)), none⟩
  | .mcomp h fb n kb sx sy => some ⟨0xCF, h, .x (xRaw 0 fb 0 n (BitVec.ofNat 7 kb.toNat) sx sy 0), none⟩
  | .mspma h half fa fb row col rows sx => some ⟨0xD0, h, .x (xRaw fa fb row col rows sx 0 (bit half)), none⟩
  | .mspmaZ h half fa fb row col rows sx => some ⟨0xD1, h, .x (xRaw fa fb row col rows sx 0 (bit half)), none⟩
  | .mdrain h half fa row col rows sx sy => some ⟨0xD2, h, .x (xRaw fa 0 row col rows sx sy (bit half)), none⟩
  | .mdrainAdd h half fa row col rows sx sy => some ⟨0xD3, h, .x (xRaw fa 0 row col rows sx sy (bit half)), none⟩
  | .mgang h log => some ⟨0xD4, h, .x (xRaw 0 0 0 (BitVec.ofNat 8 log.toNat) 0 0 0 0), none⟩
  | .mchk h => some ⟨0xD5, h, .x (xRaw 0 0 0 0 0 0 0 0), none⟩
  | .trap h a lit => some ⟨0xE0, h, .v (vRaw 0 0 a.kf (0, 0) (0, 0) (0)), lit⟩
  | .brk h => some ⟨0xE1, h, .v (vRaw 0 0 (0, 0) (0, 0) (0, 0) (0)), none⟩
  | .icinv h scope a b lit => some ⟨0xE2, h, .v (vRaw 0 0 a.kf b.kf (0, 0) (scope.code)), lit⟩
  | .dcflush h a b lit => some ⟨0xE3, h, .v (vRaw 0 0 a.kf b.kf (0, 0) (0)), lit⟩
  | .trec h a lit => some ⟨0xE4, h, .v (vRaw 0 0 a.kf (0, 0) (0, 0) (0)), lit⟩
  | .trecV h a b lit => some ⟨0xE5, h, .v (vRaw 0 0 a.kf b.kf (0, 0) (0)), lit⟩
  | .snap h d => some ⟨0xE6, h, .v (vRaw d.f (bit d.sca) (0, 0) (0, 0) (0, 0) (0)), none⟩
  | .clauseFetch _ _ => none
  | .clauseFetchMissFill _ _ => none
  | .groupFormation _ => none
  | .groupPark _ => none
  | .parkedGroupReturn _ => none
  | .plazaBarrierComplete _ _ => none
  | .tailDeadlockTimeout _ => none
  | .retirementTrackerEmpty _ => none
  | .coordinateDelivery _ => none
  | .loadReply _ _ => none
  | .atomReply _ _ => none
  | .homeWriteArrival _ _ _ => none
  | .storeAck _ _ => none
  | .peerScratchpadWrite _ _ _ => none
  | .mwaitRetest _ _ => none
  | .subscribeFillComplete _ _ => none
  | .unsubComplete _ _ => none
  | .copyQ2Command _ _ _ => none
  | .q2CopyStart _ _ => none
  | .copyComplete _ _ => none
  | .hgatherComplete _ _ => none
  | .drainComplete _ _ => none
  | .icinvDropReceive _ _ => none
  | .dcflushComplete _ _ => none
  | .channelPacketSend _ _ _ _ => none
  | .channelPacketArrive _ => none
  | .ackSend _ _ => none
  | .channelAckReceive _ => none
  | .nakReceive _ => none
  | .sclReceive _ => none
  | .linkDownNotice _ _ => none
  | .channelAckTimeout _ _ => none
  | .rsqReceive _ => none
  | .rsaReceive _ => none
  | .resyncAttemptTimeout _ _ => none
  | .causewayLinkFail _ => none
  | .causewayLinkUp _ _ => none
  | .matrixQ0Command _ _ _ => none
  | .q0CommandEnqueue _ _ => none
  | .matrixWordStart _ => none
  | .matrixWordEnd _ => none
  | .mldaGTransfer _ => none
  | .mdrainComplete _ _ => none
  | .tollgateWindow _ => none
  | .resampleStepBegin _ _ _ => none
  | .resampleStepEnd _ _ _ => none
  | .resampleStallTimeout _ => none
  | .l2MissTranslate _ _ _ => none
  | .faultRecord _ => none
  | .faultRingRoom _ => none
  | .faultAnswerRetry _ _ => none
  | .faultAnswerRefuse _ _ => none
  | .faultSwitchOut _ => none
  | .faultResume _ _ => none
  | .homeMapChange _ _ _ => none
  | .shootDownRequest _ _ _ => none
  | .shootdownReceive _ => none
  | .migrationRequest _ _ _ _ _ => none
  | .migrationLineMove _ _ => none
  | .cutBroadcastReceive _ _ _ => none
  | .milestoneMarkerSend _ _ _ _ => none
  | .milestoneMarkerReceive _ _ _ _ => none
  | .milestoneDrainPage _ => none
  | .revertExecute _ => none
  | .queueDoorbell _ _ _ => none
  | .nopPacket _ => none
  | .launchPacket _ => none
  | .waitPacket _ => none
  | .waitConditionMet _ => none
  | .signalPacket _ => none
  | .copyPacket _ => none
  | .hubCopyComplete _ _ => none
  | .snapPacket _ => none
  | .revertPacket _ => none
  | .appendPacket _ => none
  | .dumpResumePacket _ => none
  | .unassignedPacket _ => none
  | .launchAdmission _ => none
  | .preemption _ => none
  | .contextSave _ => none
  | .launchResume _ => none
  | .haltBroadcastReceive _ => none
  | .dumpWrite _ => none
  | .gangKill _ _ => none
  | .gangRelaunch _ _ => none
  | .debugStop _ _ _ => none
  | .debugResume _ _ _ => none
  | .debugEnd _ _ => none
  | .debugTresume _ _ => none
  | .capabilityMint _ => none
  | .capabilityDelegate _ => none
  | .capabilityRevoke _ => none
  | .hostCxlMemAccess _ _ => none
  | .deviceNumberWrite _ => none
  | .securityCounterRead => none
  | .tenantCreate _ _ => none
  | .tenantDelete _ => none
  | .queueMap _ _ _ _ => none
  | .queueReset _ => none
  | .queueUnmap _ => none
  | .islandPointRequest _ _ => none
  | .islandPointChangeDone _ => none
  | .islandBudgetWrite _ _ => none
  | .thermalThrottle _ _ => none
  | .thermalTrip _ _ => none
  | .thermalTripClear _ => none
  | .erasureTableWrite _ _ _ => none
  | .patrolScrub _ => none
  | .correctedCounterClear _ _ => none
  | .deviceReset => none
  | .nonce => none
  | .transfer _ _ _ => none
  | .getVersion => none
  | .getCapabilities => none
  | .negotiateAlgorithms => none
  | .getDigests => none
  | .getCertificate => none
  | .challenge _ => none
  | .getMeasurements _ => none
  | .keyExchange _ => none
  | .finish _ => none
  | .spdmUnsupportedRequest _ => none
  | .registerWrite _ _ _ _ => none
  | .fixedLatencyResult _ _ => none

/-- The words of an instruction: the word and, where it has one, its long-literal word (R123). -/
def encodeWords (i : Instr) : List Nat :=
  match i with
  | .unassignedOpcode code body => [code.toNat * 2 ^ 56 + body.toNat]
  | i =>
    match encodeParts i with
    | none => []
    | some e => e.word :: (match e.lit with | none => [] | some l => [l.toNat])

/-! ## Bytes (R7: the least significant byte at the lowest address) -/

/-- The number that a list of bytes holds, least significant first. -/
def natOfBytes : List Byte → Nat
  | [] => 0
  | b :: bs => b.toNat + 256 * natOfBytes bs

/-- `n` bytes of a number, least significant first. -/
def bytesOfNat : Nat → Nat → List Byte
  | 0, _ => []
  | n + 1, v => BitVec.ofNat 8 v :: bytesOfNat n (v / 256)

/-- The bytes of an instruction. -/
def encode (i : Instr) : List Byte := (encodeWords i).flatMap (bytesOfNat 8)

/-- The instruction at the head of a list of bytes, and the bytes after it. -/
def decode (bs : List Byte) : Except Reject (Instr × List Byte) :=
  if bs.length < 8 then .error .noWord
  else
    let w := natOfBytes (bs.take 8)
    let rest := bs.drop 8
    let next := if rest.length < 8 then none else some (natOfBytes (rest.take 8))
    match decodeWord w next with
    | .error r => .error r
    | .ok i => .ok (i, if ownsLiteral w then rest.drop 8 else rest)

/-- The instruction whose bits are `w`, numbered as the opcode table numbers them: the first word is bits 63 to 0, its literal word
bits 127 to 64; every bit above `nbits` is zero. -/
def decodeTableWord (nbits w : Nat) : Option Instr :=
  match decode (bytesOfNat 16 (w % 2 ^ nbits)) with
  | .ok (i, _) => some i
  | .error _ => none

end Sys2Proof
end

