-- ==== Sys2Proof/Machine/State.lean ====
section
/-! DEFINITION. The state of the Onaing module, as plain data: the cores with their workgroups, threads, groups, engines and caches; the
compute dies; the hub with the Depot, the Plaza, the dispensers, tenants, queues and launches; the platform registers; and
memory. Fields the manual does not name (the agenda of turns, the counter of free values, ids, lists of work in flight) are the
model's own; the docstrings say so. -/

namespace Sys2Proof.Machine

open Sys2Proof

/-- Why a run can stop. -/
inductive Fault where
  /-- Raised by the meaning of an instruction word when the state names no group that could issue it. `step` never runs a word
  in such a state. Safe: nothing is claimed of it. -/
  | noIssuer
deriving DecidableEq, Repr

/-- Why the model can decline a step. -/
inductive Refusal where
  /-- Raised by an arm of `exec` for an instruction that has no meaning yet, by its mnemonic. Safe: nothing is claimed of it. -/
  | notModelled (mnemonic : String)
deriving DecidableEq, Repr

/-- A byte store in canonical form: keys strictly rising, no entry equal to the 0 that an unlisted key reads as (log entry 1). -/
abbrev Mem := List Host.Cell

/-! ## Threads and groups -/

/-- Where a thread is (R475, R431): in a running group, a ready spawn entry, held at a meeting, in a parked group, waiting at
TAIL, stopped by its own exception (R187). -/
inductive TStat where
  | running | ready | held | parked | atTail | stopped
deriving DecidableEq, Repr

/-- R43, R176, R194, R73, R353: a thread, in its slot. `arr` holds the arrival bits: barrier 0 workgroup, 1-4 stage, 5 gang, 6 launch,
with the phase of the arrival. -/
structure Thread where
  tid : Word32
  par : Word32
  root : Word32
  copy : Word32
  mr : Word32
  preds : BitVec 7
  stage : Nat
  stat : TStat
  arr : SMap Nat
  lease : Option Word32
  weight : Option Word32
  /-- For a thread stopped by its own exception (R187, R431): the word it stands at. -/
  stopPc : Word64
deriving DecidableEq, Repr

/-- R57: a spawn-memory entry. `written` is the ck of the write and `aged` the age it had reached before a save (R415): the age field follows
from both. -/
structure Spawn where
  pc : Word64
  pred : BitVec 7
  mr : BitVec 6
  stage : Nat
  held : Bool
  written : Nat
  aged : Nat
  wix : Nat
  /-- Released from a meeting (R66) or made by a RESAMPLE step (R365): formed ahead of all other formations. The number orders them. -/
  first : Option Nat
  /-- Entries of q5 for the group formed from a RESAMPLE step's threads (R366). -/
  q5 : List Word32
deriving DecidableEq, Repr

/-- R64: a meeting record. -/
structure Meet where
  label : Word64
  expected : Nat
  held : Nat
  saved : Word32
deriving DecidableEq, Repr

/-- The operations a handle can name (R475). -/
inductive HOp where
  | copy | copyT | hgather | drain | subscribe | snap | mdrain | mdrainAdd
deriving DecidableEq, Repr

/-- R76: a handle. A free handle has no entry. `id` ties a pending handle to its operation. -/
structure Handle where
  op : HOp
  id : Nat
  done : Bool
  status : Word32
deriving DecidableEq, Repr

/-- Why a group's next word waits (R50, R422), which decides the stall reason and whether the group stands at a parking point (R61). -/
inductive Wait where
  | clauseMiss | clauseFault | counter31 | portFull (p : Nat) | portEmpty (p : Nat) | masks | handle (n : Nat) | hwait
  | barrier | planned | tail | resample | fetchReply | streamFetch | mwait
  | cbP | cbC | mtxFull | q0Drain | validate | fence | logFull | channel | reply | replica
deriving DecidableEq, Repr

/-- R235: the monitor of an MWAIT. `seen` counts the logged writes when the monitor was placed. -/
structure Monitor where
  addr : Word64
  bytes : Nat
  eq : Bool
  cmp : Word64
  seen : Nat
  dst : Nat
  /-- The scope of an acquire. -/
  acq : Option Scope
  /-- The read has met a fault that is not answered (R382). -/
  fault : Bool
deriving DecidableEq, Repr

/-- R353, R363: a group's arrival at a RESAMPLE: the form, N, pZ, and the place after the word. -/
structure ResArr where
  gangForm : Bool
  n : Word32
  pz : BitVec 3
  pc : Word64
  wix : Nat
  /-- R358: the step of the arrival has been refused. -/
  refused : Bool := false
deriving DecidableEq, Repr

/-- R49: a group, in its slot. `hdr` is the address of the current clause header; `wix` 0 says that the next word is that header,
1 to 16 the word of the clause; `words` are the fetched words after the header. -/
structure Group where
  uid : Nat
  stage : Nat
  slots : List Nat
  sregs : SMap Word32
  handles : SMap Handle
  /-- q0 to q5, oldest entry first (R75). -/
  ports : SMap (List Word32)
  /-- ct1 to ct7 (R128). -/
  cts : SMap Nat
  flags : Word32
  hdr : Word64
  wix : Nat
  fetched : Bool
  header : Word64
  words : List Word64
  /-- The wait masks of the header have been tested (R54, R110). -/
  tested : Bool
  /-- The first ck in which the next word may begin issue (R126), apart from the settle code. -/
  notBefore : Nat
  /-- The previous word carried the settle code 15 (R126). -/
  settle : Bool
  lease : Option Word32
  wait : Option Wait
  /-- The ck in which the group was last found to wait. The model's own record. -/
  waitAt : Nat := 0
  monitor : Option Monitor
  /-- The ck in which the group took its slot (R61, R422) and the ck of its last issue (R50). -/
  since : Nat
  lastIssue : Nat
  /-- R53: the issues of the workgroup of either kind when the group last issued, or was last found to wait. The model's own record. -/
  seen : SMap Nat := []
  /-- The words of q2 copies started whose statuses have not been popped (R254). -/
  q2Started : Nat
  /-- R393: the %ms at which the commands in q2 were written. -/
  q2Gens : List Nat := []
  /-- R195: the thread slots whose arrival under the waiting barrier word has been counted. -/
  arrived : List Nat
  /-- R236: the access or copy of a channelled word some of whose operations have joined their sessions, and how many. -/
  part : Option (Nat × Nat)
  /-- R269: the accesses whose acknowledgement the waiting release awaits, once it has begun to wait. -/
  awaits : Option (List Nat)
  /-- R270: the acquire read that must be satisfied before a later word issues. -/
  holdOp : Option Nat
  /-- R339: the MSPMA whose validation the group waits for. -/
  mspmaId : Option Nat
  /-- R353: the arrival at a RESAMPLE. -/
  resN : Option ResArr
deriving DecidableEq, Repr

/-- R61, R62: a parked group. `at` is the ck of the park. -/
structure Parked where
  group : Group
  parkedAt : Nat
  wasSlot : Nat
deriving DecidableEq, Repr

/-- A place a word writes: a register or predicate of a thread slot, or a scalar register of a group. -/
inductive Loc where
  | vec (slot r : Nat) | pred (slot p : Nat) | sca (uid r : Nat)
deriving DecidableEq, Repr

/-- R127 to R129: a word whose results are not yet available. `vals` are the results; `alts` are the values that its destinations hold until
then, to which every write that completes in the meantime is the later one. The model's own record. -/
structure Flight where
  id : Nat
  due : Nat
  /-- A variable-latency result written at issue (R127): it is available only once its completion step has happened. -/
  var : Bool
  uid : Nat
  ct : Nat
  alts : List (Loc × Word32)
  vals : List (Loc × Word32)
  /-- A variable-latency result that is available at `due` at the latest (R191). -/
  bounded : Bool
deriving DecidableEq, Repr

/-! ## Memory accesses in flight -/

/-- Where an access goes (R216 to R218). `bank` is the window of a constant bank, whose places are written as the virtual addresses of the bank's words. -/
inductive Space where
  | priv (slot : Nat) | scratch (rank : Nat) | trans | bank (k : Nat)
deriving DecidableEq, Repr

/-- What an access does at its home (R226, R228, R230, R233). The numbers of `atom` are the low nibble of the opcode and u. -/
inductive AOp where
  | load | store | atom (op : Nat) (u : Bool) | red (op : Nat) (u : Bool) | fadd (ty : FaddTy) | contrib (ty : FaddTy) (slot : Nat)
  | wown
deriving DecidableEq, Repr

/-- Where one lane of an access stands. -/
inductive LaneStat where
  /-- Not yet performed. -/
  | waiting
  /-- Not yet performed; its fault was answered with Retry (R383). -/
  | retry
  /-- Performed at its home; the old value of an atomic. -/
  | performed
  /-- In the operand log (R382), the entry number. -/
  | logged (e : Nat)
  /-- Held in the channel engine (R236), or discarded with its session (R240). -/
  | channelled | discarded | refused
deriving DecidableEq, Repr

/-- One lane of an access: its effective address, the space and the offset or virtual address there, the data of a write, the old value of
an atomic or the value of a load, and the flags raised at the home. -/
structure LaneAcc where
  lane : Nat
  slot : Nat
  ea : Word64
  space : Space
  off : Nat
  data : Nat
  cmp : Nat
  stat : LaneStat
  old : Nat
  flags : Word32
  /-- R292: bytes of a load read ahead of the others: the byte's number, its value, and the length of the record of writes then. The model's own. -/
  early : List (Nat × Byte × Nat) := []
  /-- R218, R277: the lane names a scratchpad as a peer's, be it its own rank's. -/
  peer : Bool := false
deriving DecidableEq, Repr

/-- Which word of the load row a load is (R226, R227). -/
inductive LKind where
  | plain | nc | str
deriving DecidableEq, Repr

/-- A memory word in flight. -/
structure MemOp where
  id : Nat
  uid : Nat
  gslot : Nat
  pc : Word64
  word : Word64
  aop : AOp
  lk : LKind
  bytes : Nat
  sx : Bool
  /-- The lanes that execute the word (R382). -/
  mask : Nat
  lanes : List LaneAcc
  /-- Destination registers: data field, and whether scalar. -/
  data : Nat
  sca : Bool
  ct : Nat
  scope : Scope
  acq : Bool
  chan : Option Nat
  gen : Nat
  acked : Bool
  /-- The result has been written, or nothing is to be written. -/
  replied : Bool
  /-- R229: it has a release part. -/
  rel : Bool := false
deriving DecidableEq, Repr

/-- R382, R475: an operand-log entry: one for a faulting word, with the lanes that execute it and the address and data of each. `faults` are the pages that it
has met a fault at and that have no answer yet, with the cause. -/
structure LogEntry where
  word : Word64
  pc : Word64
  mask : Word64
  parkedWrite : Bool
  gslot : Nat
  op : Nat
  faults : List (Nat × Nat)
  /-- The kind of R383. -/
  kind : Nat
  addrs : List Word64
  datas : List Nat
deriving DecidableEq, Repr

/-! ## Engine operations -/

/-- A copy or gather, with what its descriptor held at issue (R250, R255), or a drain of the accumulator (R344). -/
structure CopyDesc where
  src : Word64
  dst : Word64
  ext : List Nat
  ss : List Int
  ds : List Int
  stamp : Word64
  sval : Word64
  cbc : Word32
  resv : Bool
  esz : Nat
  chan : Option Nat
  scope : Scope
deriving DecidableEq, Repr

/-- R255: an HGATHER descriptor. -/
structure GatherDesc where
  base : Word64
  idx : Nat
  count : Nat
  dst : Nat
  resv : Bool
  esz : Nat
deriving DecidableEq, Repr

/-- R344: a tensor shape record and the region it drains. `elems` are the elements once the engine has read the region: row, column,
value. -/
structure DrainDesc where
  base : Word64
  rs : Int
  cs : Int
  x0 : Int
  y0 : Int
  xlo : Int
  xhi : Int
  ylo : Int
  yhi : Int
  resv : Bool
  add : Bool
  /-- The slot's format and the value of each element in the box: a row and a column of the tile, and what is written or added. -/
  fmt : Nat
  elems : Option (List (Nat × Nat × Nat))
deriving DecidableEq, Repr

/-- The operations of the engines (R76, R274). -/
inductive EngKind where
  | copy (d : CopyDesc) (t : Bool)
  | gather (d : GatherDesc)
  | drainChan (k : Nat) (ops : List Nat)
  | mdrain (d : DrainDesc)
  | subscribe (n : Nat)
  | snap (tenant : Nat)
deriving DecidableEq, Repr

/-- An engine operation. Its owner is a handle of a group, or a group's q2 stream; operations of freed slots and of saved workgroups run
on (R80, R416). -/
structure EngOp where
  id : Nat
  launch : Nat
  wgno : Nat
  uid : Nat
  /-- `none`: a q2 copy, whose status goes to q3 (R254). -/
  handle : Option Nat
  kind : EngKind
  gen : Nat
  gang : Nat
  rank : Nat
  cancelled : Bool
  /-- The 64 KiB page of a translation fault that is not answered (R383); `refused` is the first error, with which it will complete. -/
  fault : Option Nat
  refused : Option Nat
  /-- The group slot was freed (R80), or the gang was killed (R434: statuses discarded). -/
  freed : Bool
  killed : Bool
  /-- The accesses that its first access waits for (R274, R239). -/
  before : List Nat
  /-- R253: of a channelled copy, the operations that have joined their sessions. -/
  joined : Nat
  /-- R276: the elements performed so far, by number; and those whose source has been read and whose destination has not been written, with their bytes. The
  model's own. -/
  done : List Nat := []
  taken : SMap (List Byte) := []
  /-- R252, R258: an error has ended it: no more of it is performed. A cancel stops it at a burst boundary only. -/
  stopped : Bool := false
deriving DecidableEq, Repr

/-- R210, R213: an ICINV or DCFLUSH under way: the cores whose drop is still to come. -/
structure CacheOp where
  id : Nat
  uid : Nat
  ct : Nat
  flush : Bool
  lo : Nat
  hi : Nat
  all : Bool
  asid : Nat
  cores : List Nat
  clusters : List Nat
  /-- The memory operations whose homes must hear first (R210). -/
  before : List Nat
  started : Bool
deriving DecidableEq, Repr

/-! ## Channels -/

/-- States of a session (R293). -/
inductive SessState where
  | closed | opened | resync | severed
deriving DecidableEq, Repr

/-- A session word of a channel register (R293); `openedAt` is a number of its own, which orders the sessions by age (R295) and tells apart those that
share a stream id (R294); `attempt` counts the handshake (R304), whose attempt began at ck `rsqAt` over the last of `paths`; `rsa` says that the answer
has come and the resent packets up to `resyncEnd` await acknowledgement. -/
structure Session where
  state : SessState
  dev : Nat
  die : Nat
  epoch : Nat
  next : Nat
  acked : Nat
  openedAt : Nat
  attempt : Nat
  rsqAt : Nat
  rsa : Bool
  resyncEnd : Nat
  paths : List Nat
deriving DecidableEq, Repr

/-- One operation of a channel, at the source (R236, R298). `op` and `lane` name the access of the workgroup, or `op` the engine operation, it
belongs to; `sess` is the number of its session, `none` while it waits at the source for one (R308). -/
structure ChanOp where
  id : Nat
  launch : Nat
  wgno : Nat
  asid : Nat
  chan : Nat
  sess : Option Nat
  stream : Nat
  die : Nat
  dev : Nat
  op : Nat
  lane : Nat
  kind : Nat
  va : Nat
  bytes : Nat
  data : Nat
  cmp : Nat
  aop : AOp
  gen : Nat
  scale : Int
  marks : Nat
  /-- The packet that carries it, once sent. -/
  seq : Option Nat
  /-- The operations and anonymous-stream events it waits for through CHAIN (R238), and those it waits for otherwise (R274, R289, R312). -/
  after : List Nat
  soft : List Nat
  /-- It has met a fault that is not answered (R283), or was refused: it then takes no effect. -/
  fault : Bool
  dead : Bool
deriving DecidableEq, Repr

/-- A packet retained at the source until it is acknowledged (R296, R297): its session, and its bytes as they were first sent (R298). -/
structure Packet where
  sess : Nat
  stream : Nat
  seq : Nat
  gen : Nat
  ops : List Nat
  image : List Byte
  link : Nat
  sentAt : Nat
  refused : Bool
deriving DecidableEq, Repr

/-- The record of operations and old values that an ACK carries for one operation. -/
structure Applied where
  op : Nat
  old : Nat
  flags : Word32
deriving DecidableEq, Repr

/-- Messages of the channel machinery (R295, R300 to R306). A packet is its bytes (R297, R298), with the operations they stand for; a reply names the device
and die it comes from. `linkDown` is a notice of the hub to the engine that holds a session. -/
inductive ChanMsg where
  | packet (die : Nat) (stream seq : Nat) (image : List Byte) (ops : List ChanOp)
  | ack (dev die stream a : Nat) (done : List Applied)
  | nak (dev die stream e seq : Nat)
  | scl (die stream : Nat)
  | rsq (die stream acked : Nat)
  | rsa (dev die stream h : Nat) (done : List Applied)
  | rsd (die stream : Nat)
  | linkDown (core sess : Nat)
deriving DecidableEq, Repr

/-- R299: an entry of a resequencer: the expected number, the packets held, what has been applied and not acknowledged, and the operations of the expected
packet performed so far (R311). -/
structure ReseqEntry where
  stream : Nat
  expected : Nat
  held : List (Nat × List ChanOp)
  doing : List Applied
  applied : List Applied
  owesAck : Bool
deriving DecidableEq, Repr

/-- R307: an orphan session in a channel engine. -/
structure Orphan where
  launch : Nat
  wgno : Nat
  chan : Nat
  sess : Nat
  word : Session
  stream : Nat
  killed : Bool
deriving DecidableEq, Repr

/-- R238: a CHAIN word in force: the later channel, and the operations and anonymous-stream events it waits for. -/
structure Chain where
  later : Nat
  mask : BitVec 17
  ops : List Nat
  mems : List Nat
deriving DecidableEq, Repr

/-! ## Scratchpad sharing, circular buffers, the matrix engine -/

/-- R243: a subscription. -/
structure Sub where
  va : Nat
  off : Nat
  len : Nat
  filled : Bool
  ending : Bool
  ct : Nat
  uid : Nat
  since : Nat
  /-- R244: made again at a resume, with its fresh fill still to come. -/
  refill : Bool
deriving DecidableEq, Repr

/-- R248: a circular buffer. -/
structure CBuf where
  off : Nat
  esize : Nat
  count : Nat
  putRes : Word32
  putDone : Word32
  getRes : Word32
  getDone : Word32
  pPutRes : Nat
  pPutDone : Nat
  pGetRes : Nat
  pGetDone : Nat
  /-- The groups that wait, in issue order: uid and whether it is CBWAIT.p (R249). -/
  waiters : List (Nat × Bool)
deriving DecidableEq, Repr

/-- R314: the B window record of a half. -/
structure BRec where
  slot : Nat
  kb : Nat
deriving DecidableEq, Repr

/-- R314: a row record. -/
structure ARec where
  slot : Nat
  ma : Nat
  kb : Nat
deriving DecidableEq, Repr

/-- R316: the records that the issue-side checks use: the state once every earlier matrix word is performed. -/
structure MRecs where
  b0 : Option BRec
  b1 : Option BRec
  rows : SMap ARec
  gn : Nat
deriving DecidableEq, Repr

/-- A word in the matrix queue: what it needs from its issue (R315, R346); `hdr` and `wix` are its place in its clause (R348). -/
structure MWord where
  id : Nat
  instr : Instr
  uid : Nat
  gslot : Nat
  hdr : Word64
  wix : Nat
  pc : Word64
  ct : Nat
  /-- Scratchpad offsets or the rank read from sx and sy at issue. -/
  sx : Nat
  sy : Nat
  /-- The engine operation of an MDRAIN. -/
  drain : Option Nat
  /-- The thread slots of the group's lanes, and the register values that MLDA.v and MWR.v take, in element order. -/
  slots : List Nat
  vals : List Word32
  /-- A command of q0 (R346), and whether its bits break R321 or R346. -/
  fromQ0 : Bool
  bad : Bool
  /-- The scratchpad the engine will read, rank, offset and count, and the writes that must be performed before (R319). -/
  reads : Option (Nat × Nat × Nat)
  before : List Nat
  /-- R339: the metadata, once it has been validated. -/
  nibbles : Option (List Byte)
  /-- R319: bytes of the scratchpad that the engine has read ahead of the others, by number. The model's own. -/
  early : List (Nat × Byte) := []
deriving DecidableEq, Repr

/-- R340, R341: an open pass: its word, acc before it by row, and the metadata it read. -/
structure OpenPass where
  word : MWord
  base : SMap (List Word32)
  nibbles : List Byte
deriving DecidableEq, Repr

/-- R314 to R319: the matrix engine. Columns of cells and of exponents, rows of mantissas (sign-extended), of exponents and of the accumulator
are lists; a row or column that is not listed is as at launch start. The issue-side copy of R316 is computed from the records and the words not
yet performed. -/
structure Mtx where
  cells : SMap (List (BitVec 8))
  bExp : SMap (List (BitVec 8))
  aMant : SMap (List (BitVec 16))
  aExp : SMap (List (BitVec 8))
  acc : SMap (List Word32)
  sideM : SMap Word32
  sideL : SMap Word32
  recs : MRecs
  queue : List MWord
  /-- The word the engine performs. -/
  running : Option MWord
  /-- That word waits at MLDA.g for its M set (R326). -/
  gather : Bool
  passOpen : Option OpenPass
  /-- RP, RQ by row; CP, CQ by column (R314, R340). -/
  rp : SMap Nat
  rq : SMap Nat
  cp : SMap Nat
  cq : SMap Nat
  /-- Traffic of the burst in bytes (R347); a permit granted to the word at the head, and a request that waits. -/
  burst : Nat
  permit : Bool
  waitsPermit : Bool
  /-- R342: the engine performs nothing more. -/
  dead : Bool
deriving DecidableEq, Repr

/-! ## Workgroups and cores -/

/-- An exception as the dump records it (R423, R431). -/
structure Exc where
  code : Nat
  /-- 0 group, 1 thread, 2 workgroup. -/
  kind : Nat
  slot : Nat
  aux : Nat
  pc : Word64
deriving DecidableEq, Repr

/-- R426 to R429: a halt. `core` and `ms` are the core and its %ms at the halt (R430, R440). `ck` is the ck of the exception that began it, while exceptions of the same
ck can join it, with `keys`, their places in the order of R424; `first` is the first exception of the workgroup with a number that orders it among those of the launch
(R439). The last three are the model's own. -/
structure Halt where
  /-- 0 exception, 1 debug stop, 2 end under R427. -/
  reason : Nat
  code : Nat
  dumps : Bool
  dumpDone : Bool
  /-- The address of the dump slot once it is decided; where the dump goes on: `none` before the header is written, then the section, 11 for the final
  header, and the offset in it; whether a fault has stopped it (R433). -/
  slot : Option Nat
  place : Option (Nat × Nat)
  stopped : Bool
  nested : Nat
  dseq : Option Nat
  fva : Nat
  /-- The image of the sections, taken when the dump begins. -/
  image : List (Nat × List Byte)
  noSlot : Bool
  core : Nat := 0
  ms : Nat := 0
  ck : Option Nat := none
  keys : List Nat := []
  first : Option (Nat × Nat) := none
deriving DecidableEq, Repr

/-- A workgroup on its core, with everything a pre-emption saves (R419, R475). -/
structure Wg where
  launch : Nat
  wgno : Nat
  /-- The gang of the launch, which keeps its number here, and its %gang (R176), which a placement changes (R414). -/
  gang : Nat
  gangNo : Nat
  rank : Nat
  gangSize : Nat
  threads : SMap Thread
  groups : SMap Group
  vregs : SMap Word32
  scratch : Mem
  priv : Mem
  spawn : SMap Spawn
  meet : SMap Meet
  /-- The ck of the last formation (R58). The model's own record. -/
  formedAt : Option Nat
  /-- Phases completed, by barrier: 0 workgroup, 1-4 stage; gang and launch phases as this core has heard of them: 5, 6. -/
  phases : SMap Nat
  parked : List Parked
  /-- R62: the park area: the 512-byte record of a park, by the lowest slot of the group. -/
  parkArea : SMap (List Byte)
  flights : List Flight
  /-- Registers that a variable-latency word has still to write (R127, R131): the word's id and the place. The model's own record. -/
  pend : List (Nat × Loc)
  ops : List MemOp
  /-- R264: operations of channels that a clone's program order has from its parent and that are not acknowledged: the operation's id, the clone's thread slot,
  the address and the bytes. The model's own. -/
  inherited : List (Nat × Nat × Nat × Nat)
  /-- R268, R275: a copy at scope `.wg` has written its stamp, and no acquire at `.wg` has dropped lines since. The model's own. -/
  stamped : Bool
  /-- q6 and q7 towards stage s + 1: entry 2 s + (0 or 1), oldest first (R48). -/
  stageQ : SMap (List Word32)
  subs : SMap Sub
  cbs : SMap CBuf
  /-- Window writers that are not the owner (R246). -/
  writers : SMap Nat
  chans : SMap (List Session)
  chains : List Chain
  /-- Channels restored with orphans (R308). -/
  orphaned : List Nat
  /-- R308: the chain masks as they were saved, of the channels restored with orphans. -/
  savedMasks : List (Nat × BitVec 17) := []
  /-- R239: channels an operation of which belonged to a session that severed, or was discarded. -/
  lost : List Nat
  mtx : Mtx
  log : SMap LogEntry
  /-- The operations with parked writes, in program order (R283, R382). -/
  replay : List Nat
  flags : Word32
  gen : Word32
  excs : List Exc
  /-- R428: exceptions raised while the core waits to save the workgroup, for its image. -/
  kept : List Exc := []
  halt : Option Halt
  /-- The workgroup has been told to stop issue (R415, R427, R434). -/
  saving : Bool
  /-- Every thread has ended (R78): the tracker holds what is outstanding. -/
  retired : Bool
  /-- The ck of the last issue (R203, R356). -/
  lastIssue : Nat
  /-- R53: the issue opportunities taken, of the vector issue (0) and the side issue (1). The model's own record. -/
  issues : SMap Nat := []
  /-- R61: the ck in which the last free group slot was taken. The model's own record. -/
  fullAt : Nat := 0
  /-- Writes to the scratchpad and private memory, newest first: key and old bytes (R235, R243). The model's own record. -/
  undo : List (Nat × List Byte)
  /-- Why the workgroup is being saved: 0 pre-emption, 1 fault switch-out (R385, R419). -/
  saveReason : Nat
  /-- R385: after a fault switch-out, the accesses that walk again before any other access of the workgroup. -/
  rewalk : List Nat
  hist : SMap Nat
  reasons : SMap Nat
deriving DecidableEq, Repr

/-- A line of an L1 (R270): its bytes as they were when the line was filled or last written by the core, and which of its four 32-byte units are poisoned (R425). -/
structure L1Line where
  asid : Nat
  line : Nat
  data : List Byte
  bad : List Nat := []
deriving DecidableEq, Repr

/-- A clause in a loop buffer (R209). -/
structure LoopLine where
  addr : Nat
  asid : Nat
  words : List Word64
deriving DecidableEq, Repr

/-- A core. -/
structure Core where
  /-- ck since the core was reset: the model's own count. `%cyc` is `ck + cyc` (R176, R178). -/
  ck : Nat
  cyc : Word64
  /-- A SWRITE whose count takes effect at a ck still to come (R178). -/
  cycAt : List (Nat × Word64)
  vecFree : Nat
  sideFree : Nat
  l1 : List L1Line
  loop : List LoopLine
  loopStale : Bool
  home : List (Nat × Nat × Word32)
  wg : Option Wg
  eng : List EngOp
  cacheOps : List CacheOp
  chanOps : List ChanOp
  packets : List Packet
  orphans : List Orphan
  /-- The %ms of the core for the tenant whose workgroup it holds (R395). -/
  ms : Nat
  /-- R432: the per-core sequence of dumps and trace records. -/
  seq : Word32
  /-- Control messages for the core still to be received: shoot-downs (id, asid, first and last address), a halt. -/
  shoots : List (Nat × Nat × Nat × Nat)
  haltMsg : Bool
deriving DecidableEq, Repr

/-! ## Dies, translation, generations -/

/-- An L2 line (R375): tag, place in memory, permissions, dirty. Bytes live in the frames. -/
structure L2Line where
  asid : Nat
  line : Nat
  key : Nat
  rd : Bool
  wr : Bool
  dirty : Bool
deriving DecidableEq, Repr

/-- A TLB entry (R380). -/
structure TlbEntry where
  asid : Nat
  va : Nat
  size : Nat
  key : Nat
  rd : Bool
  wr : Bool
  ex : Bool
deriving DecidableEq, Repr

/-- R381: the writable mapping recorded for a frame. -/
structure WMap where
  frame : Nat
  frames : Nat
  asid : Nat
  va : Nat
deriving DecidableEq, Repr

/-- R101: a reduction shadow. -/
structure Shadow where
  key : Nat
  ty : FaddTy
  scale : Int
  sum : Int
  count : Nat
  nan : Bool
  pinf : Bool
  ninf : Bool
  /-- The address by which its element was last reached (R387, R400). -/
  asid : Nat
  va : Nat
deriving DecidableEq, Repr

/-- R389, R390: a migration slot. -/
structure Migration where
  asid : Nat
  region : Nat
  newHome : Nat
  newTier : Nat
  newFrame : Nat
  line : Nat
  /-- The number of the messages to the cores that the first move waits for (R389 step 1). -/
  told : Nat
deriving DecidableEq, Repr

/-- A compute die: its L2 by home slice (R27), the TLBs of its three HBM controllers (R375, R380), and the rest. -/
structure Die where
  l2 : SMap (List L2Line)
  tlb : SMap (List TlbEntry)
  wmaps : List WMap
  shadows : List Shadow
  reseq : List ReseqEntry
  slots : SMap Migration
  /-- Instruction caches of the eight clusters: cluster, asid, line, bytes. -/
  icache : List (Nat × Nat × Nat × List Byte)
deriving DecidableEq, Repr

/-- R398, R399: a frozen generation: the pages copied so far (by 64 KiB page of VA), the pages written to the milestone area, and whether it is
drained or discarded. -/
structure Frozen where
  gen : Nat
  copies : SMap Mem
  drained : List Nat
  done : Bool
  /-- The pages mapped at the cut and their frames, in ascending VA, and where the image begins in the milestone area. -/
  pages : List (Nat × Nat)
  base : Option Nat
deriving DecidableEq, Repr

/-- R395 to R398: an open cut. Sources still to move, sources still to send a marker to a die, markers sent and not received. -/
structure Cut where
  gen : Nat
  /-- The SNAP handle to complete: engine operation of a core; or a queue's packet. -/
  op : Option (Nat × Nat)
  pkt : Option (Nat × Nat)
  coresToMove : List Nat
  diesToMove : List Nat
  /-- (from hub, source, die). -/
  owe : List (Bool × Nat × Nat)
  sent : List (Bool × Nat × Nat)
deriving DecidableEq, Repr

/-- A write that reaches a home from outside the cores: a byte that the host writes, a store or an atomic of a peer device (R398, R446). -/
inductive OuterWrite where
  | host (pa : Nat) (b : Byte)
  | store (asid va : Nat) (bs : List Byte)
  | rmw (asid va bytes : Nat) (aop : AOp) (data cmp : Nat)
deriving DecidableEq, Repr

/-- R398: such a write that its home holds for want of a frame in the milestone pool: a number of its own, the generation it was tagged with on its arrival (R395), and
the address-space id and virtual address that it goes to. -/
structure HeldWrite where
  id : Nat
  gen : Nat
  asid : Nat
  va : Nat
  write : OuterWrite
deriving DecidableEq, Repr

/-- R383, R454: a fault record. -/
structure FRec where
  id : Option (BitVec 16)
  va : Nat
  asid : Nat
  core : Nat
  kind : Nat
  cause : Nat
  /-- The number of its own of a record that waits for its place in the ring. -/
  uid : Nat
  /-- R433, R442: a fault of the Depot's or the hub's own write of a dump, a trace or a profile, whose answer resumes nothing (R454). -/
  depot : Bool := false
deriving DecidableEq, Repr

/-- R437: a live capability slot. -/
structure CapSlot where
  slot : Nat
  tenant : Nat
  dbg : Bool
  trace : Bool
  prof : Bool
  nonce : Nat
  parent : Option Nat
  process : Nat
  /-- Its buffers: the ring of events (R440), the trace ring (R441) and the profile buffer (R443), with the entries of the rings. -/
  buf : Nat
  entries : Nat
  trcBuf : Nat
  trcEntries : Nat
  profBuf : Nat
  /-- R442: records that launches under it dropped in a suspension that had not ended when they completed. The model's own record. -/
  lost : Nat := 0
deriving DecidableEq, Repr

/-- A tenant (R452). -/
structure Tenant where
  cfg : TenantCfg
  live : Bool
  /-- R384: records written so far; R454: the id counter. -/
  ringW : Nat
  nextId : BitVec 16
  /-- Fault records on their way to the Depot, oldest first (R382), and records held for want of ring space (R384). -/
  arriving : List FRec
  held : List FRec
  unanswered : List FRec
  /-- R405: token slots. -/
  tokens : SMap Word64
  /-- R393 to R400. -/
  gen : Nat
  /-- The generation that the hub has heard of (R396). -/
  heard : Nat
  dieGen : SMap Nat
  maxGen : Nat
  frozen : List Frozen
  cut : Option Cut
  /-- R398: while a window is open or a SNAP waits: bytes written, by generation and memory key. -/
  masks : List (Nat × Nat)
  /-- SNAP requests not yet served, in order: engine operation of a core or packet of a queue. -/
  snaps : List ((Option (Nat × Nat)) × (Option (Nat × Nat)))
  poolUsed : Nat
  /-- Bytes of the milestone area that images have taken. -/
  areaUsed : Nat
  key : Option Nat
  irqs : Nat
  /-- A reservation in the tenant's pinned memory may fail (R411). The model's own: a free value (log entry 14). -/
  tight : Bool
  /-- R444: busy cycles of the workgroups whose counts are no longer held elsewhere. -/
  busy : Nat := 0
deriving DecidableEq, Repr

/-! ## Queues and launches -/

/-- A packet that has started and not completed, or the WAIT or LAUNCH at which its queue stands (R402). -/
structure Pkt where
  num : Nat
  ty : Nat
  tok : Nat
  tval : Word64
  irq : Bool
  started : Bool
  /-- The eight 64-bit words of the packet. -/
  f : List Word64
  /-- R252, R383: of a COPY, the page of a fault that is not answered, and the status of a refused one. -/
  fault : Option Nat
  refused : Option Nat
deriving DecidableEq, Repr

/-- A queue (R401, R453). -/
structure Queue where
  mapped : Bool
  tenant : Nat
  log : Nat
  base : Nat
  readIx : Nat
  writeIx : Nat
  halted : Bool
  unmapping : Bool
  pkts : List Pkt
  /-- R453: bit 1 of ctl: a reset whose started packets have not all completed. -/
  resetting : Bool := false
deriving DecidableEq, Repr

/-- The launch record (R408), as copied at admission. -/
structure LaunchRec where
  entry : Word64
  w : Nat
  t : Nat
  v : Nat
  gangLog : Nat
  stages : Nat
  sg : List Nat
  scratch : Nat
  priv : Nat
  ctl : Word32
  part : List Nat
  x : Nat
  y : Nat
  z : Nat
  gx : Nat
  gy : Nat
  gz : Nat
  tmask : Word32
  key : Word64
  fs : List Word32
  cbp : List Word64
  cbl : List Nat
  dbg : Word64
  trc : Word64
  resv : Bool
deriving DecidableEq, Repr

/-- A fetch that waits at the hub (R71, R199, R200). -/
structure FetchReq where
  core : Nat
  uid : Nat
  vec : Bool
  dst : Nat
  pred : Nat
  ct : Nat
  lanes : List Nat
  /-- A stream-mode request whose group stands blocked at the word (R201). -/
  blocked : Bool
  id : Nat
deriving DecidableEq, Repr

/-- The dispenser of a launch (R70 to R74). `pos` is the row-major index or the Morton key from which it goes on. -/
structure Dispenser where
  extent : Nat
  pos : Nat
  given : Nat
  returned : List Nat
  ended : Bool
  reqs : List FetchReq
deriving DecidableEq, Repr

/-- A workgroup saved by a pre-emption (R415): what the context image holds, and the exceptions that arise meanwhile (R428). -/
structure Saved where
  wg : Wg
  core : Nat
  ms : Nat
  /-- 0 pre-emption, 1 fault switch-out. -/
  reason : Nat
  pending : List Exc
  /-- R425: the poisoned units of its arrays: the number of the array and the unit in it. -/
  bad : List (Nat × Nat) := []
  /-- R385, R413: a launch has been pre-empted for its resume, and its core is kept for it. -/
  claim : Bool := false
deriving DecidableEq, Repr

inductive LStat where
  | pending | resident | saved
deriving DecidableEq, Repr

/-- A RESAMPLE step under way (R355 to R371): the sums and the plan made at its beginning. -/
structure ResStep where
  gangForm : Bool
  gang : Nat
  total : Nat
  rnd : Word32
  zero : Bool
  g : Word32
  /-- (core, slot, offspring), in population order. -/
  counts : List (Nat × Nat × Nat)
deriving DecidableEq, Repr

/-- R79, R443: a workgroup that has left its core: its number, the core, and the 65 bins and 12 counters of its histogram. -/
structure LeftWg where
  wgno : Nat
  core : Nat
  hist : List Nat
deriving DecidableEq, Repr

/-- R434, R435: a gang that was killed: %gang and its members. -/
structure KilledGang where
  gang : Nat
  gangNo : Nat
  code : Nat
  /-- The cores with the workgroups that were killed there, whose scratchpads the engine operations still under way read and write. -/
  members : List (Nat × Wg)
deriving DecidableEq, Repr

/-- A launch (R68, R408, R420). -/
structure Launch where
  uid : Nat
  tenant : Nat
  lid : Word64
  queue : Nat
  num : Nat
  done : Word64
  stat : LStat
  rcd : LaunchRec
  recAddr : Word64
  age : Nat
  disp : Dispenser
  kills : Nat
  flags : Word32
  nodump : Nat
  preDone : Bool
  saved : List Saved
  /-- Workgroups whose core has left the launch (R79), with their counters (R443). -/
  left : List LeftWg
  /-- The first exception and the core that raised it (R427). -/
  code : Option (Nat × Nat)
  halting : Bool
  ending : Bool
  /-- R434 to R436: machine checks whose kill is still to come, gang and code; gangs killed and not relaunched. -/
  mchecks : List (Nat × Nat)
  killed : List KilledGang
  lStepDone : Bool
  step : List ResStep
  /-- Gang and launch barrier phases completed at the Plaza: by gang, 64 for the launch barrier. -/
  plaza : SMap Nat
  /-- R442. -/
  traceOff : Bool
  dropped : Nat
  gapDue : Bool
  /-- R307, R308: the orphan sessions that the Depot knows of: workgroup number, channel, the session's number. -/
  orphans : List (Nat × Nat × Nat)
  /-- R411: the reservations in the tenant's pinned memory: their physical address and the bytes for each workgroup. -/
  pin : Option (Nat × Nat) := none
  /-- R170: where the 64 KiB pages of the constant banks lay at launch start, by page of the virtual address. The model's own record. -/
  bankAt : SMap Nat
  /-- R389, R170: the lines of those pages that a migration has moved: by line, their place now. The model's own record. -/
  bankLine : SMap Nat := []
  /-- R170, R387: those pages whose place a shoot-down has changed, with the length of the record of writes then. The model's own record. -/
  bankSince : SMap Nat := []
  /-- Writes to memory since launch start, newest first: key and old bytes (R170, R227, R235). The model's own record. -/
  undo : List (Nat × List Byte)
deriving DecidableEq, Repr

/-! ## The platform -/

/-- R456: a permit request: the ck of the island from which it asks, whether it has waited for that window, and its core. -/
structure Ask where
  ck : Nat
  waited : Bool
  core : Nat
deriving DecidableEq, Repr

/-- An island (R455 to R459) and its Tollgate. `ck` is the island's count of ck as far as its cores have come, `epoch` the ck of their own counts at which it began, and
`win` the window that `granted` counts for. -/
structure Island where
  temp : BitVec 16
  budget : BitVec 8
  busy : Bool
  cur : Nat
  req : Nat
  granted : Nat
  waiters : List Ask
  ck : Nat := 0
  epoch : Nat := 0
  win : Nat := 0
deriving DecidableEq, Repr

/-- R466: the answers of the security engine. -/
inductive Spdm where
  | version | capabilities | algorithms | digests | certificate | challengeAuth | measurements | keyExchange | finish | unsupportedRequest
deriving DecidableEq, Repr

/-- Requests and answers that the outside takes from the module: interrupts, SPDM answers, reports. -/
inductive Out where
  | interrupt (tenant vec : Nat)
  | spdm (answer : Spdm) (body : List Nat) (signature : Option Nat)
  | nonceOut (n : Nat)
  | hostRead (pa : Nat) (value : BitVec 8)
  | securityRead (value : Word32)
  | capRef (value : Word64)
  | shootDone (asid : Nat)
  | refusedHomeMap (asid region : Nat)
  | reliability (rank : Nat)
  | faultClass (cls lid core : Nat)
  | peerWrite (dev va : Nat) (data : List Byte)
  | peerOld (asid va value : Nat)
  | register (offset value : Nat)
  | peerMsg (dev : Nat) (m : ChanMsg)
deriving DecidableEq, Repr

/-- The actions outside a step of the table, which the agenda can name: time passing on a core, a line leaving an L1 or a cache, host memory written by
the host, a soft error, a peer's message, store, atomic or load, one lane or byte of a load read, one element of an engine operation read or written, a held write of the host tried again, symbols of an
HBM unit in error, a read of the management window, a reset within a TRANSFER. The model's own. -/
inductive Env where
  | tick (core : Nat)
  | l1Drop (core asid line : Nat)
  | l2Drop (die asid line : Nat)
  | homeDrop (core : Nat)
  | icacheDrop (die cluster line : Nat)
  | hostWrite (pa : Nat) (bs : List Byte)
  | poison (key : Nat)
  | correctable (key pos : Nat)
  | upset (core acc : Nat) (w : Word32)
  | residueUpset (core row col : Nat)
  | sramFix (core : Nat)
  | msgLost (n : Nat)
  | peerMsg (m : ChanMsg)
  | peerStore (asid va : Nat) (bs : List Byte)
  | peerRmw (asid va bytes : Nat) (aop : AOp) (data cmp : Nat)
  | peerLoad (asid va bytes : Nat)
  | loadLane (core op lane : Nat)
  | earlyByte (core op lane i : Nat)
  | engTake (core op i : Nat)
  | engPut (core op i : Nat)
  | mtxByte (core i : Nat)
  | hostRetry
  | symbolErrors (key : Nat) (ps : List Nat)
  | registerRead (offset bytes : Nat)
  | transferCut (newOwner : BitVec 256) (nonce signature step : Nat)
deriving DecidableEq, Repr

/-- The steps of the table that go on by themselves, by name: those that a round of turns names (log entry 30). -/
inductive EvKind where
  | clauseFetchMissFill | groupFormation | groupPark | parkedGroupReturn | plazaBarrierComplete | retirementTrackerEmpty
  | coordinateDelivery | loadReply | atomReply | homeWriteArrival | storeAck | peerScratchpadWrite | mwaitRetest | subscribeFillComplete
  | unsubComplete | q2CopyStart | copyComplete | hgatherComplete | drainComplete | icinvDropReceive | dcflushComplete | channelPacketSend
  | channelPacketArrive | ackSend | channelAckReceive | nakReceive | sclReceive | rsqReceive | rsaReceive | q0CommandEnqueue
  | matrixWordStart | matrixWordEnd | mldaGTransfer | mdrainComplete | tollgateWindow | resampleStepBegin | resampleStepEnd
  | l2MissTranslate | faultRecord | faultRingRoom | faultResume | shootdownReceive | migrationLineMove | cutBroadcastReceive
  | milestoneMarkerSend | milestoneMarkerReceive | milestoneDrainPage | revertExecute | nopPacket | launchPacket | waitPacket
  | waitConditionMet | signalPacket | copyPacket | hubCopyComplete | snapPacket | revertPacket | appendPacket | dumpResumePacket
  | unassignedPacket | launchAdmission | preemption | contextSave | launchResume | haltBroadcastReceive | dumpWrite | gangKill
  | gangRelaunch | islandPointChangeDone | deviceReset | fixedLatencyResult | linkDownNotice
deriving DecidableEq, Repr

/-- Whose turn it is: a core's group issues, a step of the table other than a word happens, or the world acts. The model's own: an agenda of
turns stands for the orders that the manual leaves free. -/
inductive Turn where
  | issue (core grp : Nat)
  | happen (i : Instr)
  /-- A step of the table by its name, with its arguments in the table's order, 0 where it has fewer than four. -/
  | event (k : EvKind) (a b c d : Nat)
  | env (e : Env)
deriving DecidableEq, Repr

/-- The state of the module. -/
structure State where
  turns : List Turn
  /-- The core and group slot whose word issues. -/
  cur : Nat × Nat
  /-- The counter that the free values are applied to, and the counter that gives ids. -/
  free : Nat
  nextId : Nat
  /-- Device and host memory, keyed by tier and physical address (`memKey`). -/
  mem : Mem
  cores : SMap Core
  dies : SMap Die
  /-- The hub's TLB, and the home map of R376 by 2^36 * asid + region. -/
  hubTlb : List TlbEntry
  hubWmaps : List WMap
  homeMap : SMap Word32
  /-- R447, R392: bytes mapped at each expander port, in port order behind the LPDDR6. -/
  expanders : SMap Nat
  /-- R389: regions moved away from under a larger leaf: their tier and frame, by the key of the home map (log entry 25). -/
  regionAt : SMap (Nat × Nat)
  /-- R389, R391: migrations that wait at the hub, oldest first: asid, region, new home, new tier, new frame. -/
  migWait : List (Nat × Nat × Nat × Nat × Nat)
  /-- R398: writes of the host and of peers held for want of a frame in a milestone pool, oldest first. -/
  heldWrites : List HeldWrite
  /-- R425: poisoned 32-byte units, by key / 32. -/
  poisoned : List Nat
  /-- R460: symbols of HBM units in error that nothing has written back: the unit, by key / 32, and the positions. -/
  latent : SMap (List Nat)
  msgs : List ChanMsg
  tenants : SMap Tenant
  queues : SMap Queue
  launches : List Launch
  caps : List CapSlot
  /-- R450, R476, R448, R458. -/
  status : Word32
  security : Word32
  devNum : BitVec 16
  devNumSet : Bool
  trip : Bool
  islands : SMap Island
  /-- R461, R463. Corrected counts by rank and position, then the counters: 0-511 matrix, 512-523 HBM, 524-527 SRAM. -/
  erasure : SMap (BitVec 16)
  symbolFixes : SMap Nat
  corrected : SMap Word32
  /-- Causeway links up (R448, R41). -/
  linksUp : List Nat
  /-- R464 to R468. -/
  ownerKey : Option (BitVec 256)
  transfers : Nat
  /-- R468: the owner that an accepted TRANSFER installs, while its steps 1 to 3 are not complete. -/
  transfer : Option (BitVec 256)
  nonceOut : Option Nat
  minVersion : Nat
  measures : SMap (BitVec 256)
  /-- R466: 0 no session, 1 a key exchange answered, 2 finished. -/
  spdmSession : Nat
  out : List Out
deriving DecidableEq, Repr

/-! ## Reset -/

/-- R293: a session word at its reset value. -/
def Session.closed : Session := ⟨.closed, 0, 0, 0, 0, 0xFFFF, 0, 0, 0, false, 0, []⟩

/-- R314: no records, gang split 1. -/
def MRecs.none : MRecs := ⟨.none, .none, [], 1⟩

/-- R314: the matrix engine at launch start: exponents 0, accumulator +0, side registers m = -inf (the default of `sideM`) and l = +0. -/
def Mtx.start : Mtx :=
  { cells := [], bExp := [], aMant := [], aExp := [], acc := [], sideM := [], sideL := [], recs := MRecs.none,
    queue := [], running := none, gather := false, passOpen := none, rp := [], rq := [], cp := [], cq := [], burst := 0,
    permit := false, waitsPermit := false, dead := false }

/-- A core after reset: no workgroup, every count zero, caches empty (log entry 2 for the values the manual does not give). -/
def Core.reset : Core :=
  { ck := 0, cyc := 0, cycAt := [], vecFree := 0, sideFree := 0, l1 := [], loop := [], loopStale := false, home := [], wg := none,
    eng := [], cacheOps := [], chanOps := [], packets := [], orphans := [], ms := 0, seq := 0, shoots := [],
    haltMsg := false }

/-- A die after reset. -/
def Die.reset : Die := { l2 := [], tlb := [], wmaps := [], shadows := [], reseq := [], slots := [], icache := [] }

/-- R455, R459: an island after reset: point 3, its budget 64. -/
def Island.reset : Island := { temp := 0, budget := 64, busy := false, cur := 3, req := 3, granted := 0, waiters := [] }

/-- A tenant entry whose state is 0 (R452). -/
def Tenant.none : Tenant :=
  { cfg := ⟨false, 0, 0, 0, 0, 0, 0, 0, 0, 0, 0, 0⟩, live := false, ringW := 0, nextId := 0, arriving := [], held := [], unanswered := [], tokens := [],
    gen := 0, heard := 0, dieGen := [], maxGen := 0, frozen := [], cut := Option.none, masks := [], snaps := [], poolUsed := 0, areaUsed := 0, key := Option.none, irqs := 0, tight := false }

/-- A queue that is not mapped (R453). -/
def Queue.none : Queue := ⟨false, 0, 0, 0, 0, 0, false, false, [], false⟩

/-- The module right after reset (R450: stage 0; R459; R463; R464), before the ROM boots it. Memory lists nothing. -/
def State.reset : State :=
  { turns := [], cur := (0, 0), free := 0, nextId := 0, mem := [], cores := [], dies := [], hubTlb := [], hubWmaps := [], homeMap := [],
    expanders := [], regionAt := [], migWait := [], heldWrites := [], poisoned := [], latent := [],
    msgs := [], tenants := [], queues := [], launches := [], caps := [], status := 0, security := 0, devNum := 0,
    devNumSet := false, trip := false, islands := [], erasure := [], symbolFixes := [], corrected := [], linksUp := [],
    ownerKey := none, transfers := 0, transfer := none, nonceOut := none, minVersion := 0, measures := [],
    spdmSession := 0, out := [] }

end Sys2Proof.Machine
end

