-- ==== Sys2Proof/Machine/Sparse.lean ====
section
/-! DEFINITION. Sparse maps and byte stores: reading, writing, removing; multi-byte values with the least significant byte at the lowest
address (R7). -/

namespace Sys2Proof

/-- The value at a key, if listed. -/
def SMap.get? {α : Type} : SMap α → Nat → Option α
  | [], _ => none
  | (k, v) :: m, j => if k = j then some v else SMap.get? m j

/-- The value at a key, or the default. -/
def SMap.getD {α : Type} (m : SMap α) (j : Nat) (d : α) : α := (SMap.get? m j).getD d

/-- The map with a value at a key; keys stay in rising order. -/
def SMap.set {α : Type} : SMap α → Nat → α → SMap α
  | [], j, a => [(j, a)]
  | (k, v) :: m, j, a => if j < k then (j, a) :: (k, v) :: m else if j = k then (j, a) :: m else (k, v) :: SMap.set m j a

/-- The map without a key. -/
def SMap.del {α : Type} (m : SMap α) (j : Nat) : SMap α := m.filter fun p => p.1 != j

/-- Keys, rising. -/
def SMap.keys {α : Type} (m : SMap α) : List Nat := m.map (·.1)

/-- A change of one value that is listed. -/
def SMap.modify {α : Type} (m : SMap α) (j : Nat) (f : α → α) : SMap α :=
  match SMap.get? m j with
  | none => m
  | some a => SMap.set m j (f a)

/-- The lowest number below `n` that is no key. -/
def SMap.lowestFree {α : Type} (m : SMap α) (n : Nat) : Option Nat :=
  (List.range n).find? fun j => (SMap.get? m j).isNone

end Sys2Proof

namespace Sys2Proof.Machine

open Sys2Proof

/-- The byte at a key: an unlisted key reads 0 (log entry 1). -/
def Mem.read (m : Mem) (k : Nat) : Byte := SMap.getD m k 0

/-- Writing a byte keeps the canonical form: writing 0 removes the entry. -/
def Mem.write (m : Mem) (k : Nat) (b : Byte) : Mem := if b = 0 then SMap.del m k else SMap.set m k b

/-- `n` bytes from a key on, lowest first. -/
def Mem.readBytes (m : Mem) (k n : Nat) : List Byte := (List.range n).map fun i => Mem.read m (k + i)

/-- Writes bytes from a key on. -/
def Mem.writeBytes (m : Mem) (k : Nat) : List Byte → Mem
  | [] => m
  | b :: bs => Mem.writeBytes (Mem.write m k b) (k + 1) bs

/-- The number that a list of bytes holds, least significant first (R7). -/
def bytesToNat : List Byte → Nat
  | [] => 0
  | b :: bs => b.toNat + 256 * bytesToNat bs

/-- `n` bytes of a number, least significant first. -/
def natToBytes : Nat → Nat → List Byte
  | 0, _ => []
  | n + 1, v => BitVec.ofNat 8 v :: natToBytes n (v / 256)

/-- An `n`-byte value at a key. -/
def Mem.readNat (m : Mem) (k n : Nat) : Nat := bytesToNat (Mem.readBytes m k n)

/-- Keys strictly rising. -/
def Mem.rising : List Host.Cell → Bool
  | [] => true
  | [_] => true
  | (k, _) :: (j, b) :: m => k < j && Mem.rising ((j, b) :: m)

/-- The canonical form of a byte store. -/
def Mem.wf (m : Mem) : Bool := Mem.rising m && m.all fun c => c.2 != 0

/-- The tiers of the physical address space (R28, R29, R477): 0 the first tier, 1 the second tier, 2 host memory (log entry 3). -/
def memKey (tier pa : Nat) : Nat := tier * 2 ^ 52 + pa

/-- Two's complement reading of the low `n` bits. -/
def signed (n v : Nat) : Int := if v % 2 ^ n < 2 ^ (n - 1) then Int.ofNat (v % 2 ^ n) else Int.ofNat (v % 2 ^ n) - Int.ofNat (2 ^ n)

/-- The low `n` bits of an integer, as a number. -/
def wrapInt (n : Nat) (v : Int) : Nat := (v % Int.ofNat (2 ^ n)).toNat

/-- Bits `hi` to `lo` of a number. -/
def bits (v hi lo : Nat) : Nat := v / 2 ^ lo % 2 ^ (hi - lo + 1)

/-- Division rounded up. -/
def ceilDiv (a b : Nat) : Nat := (a + b - 1) / b

/-- A list without repeats, first occurrences kept. -/
def dedup : List Nat → List Nat
  | [] => []
  | x :: xs => x :: (dedup xs).filter (· != x)

/-- Insertion of an element before the first one that is not below it. -/
def insertBy {α : Type} (lt : α → α → Bool) (a : α) : List α → List α
  | [] => [a]
  | b :: bs => if lt b a then b :: insertBy lt a bs else a :: b :: bs

/-- A list in rising order; equal elements keep their order reversed pairwise only where the order says so. -/
def sortBy {α : Type} (lt : α → α → Bool) : List α → List α
  | [] => []
  | a :: as => insertBy lt a (sortBy lt as)

/-- The first element that is least. -/
def minBy {α : Type} (lt : α → α → Bool) : List α → Option α
  | [] => none
  | a :: as =>
    match minBy lt as with
    | none => some a
    | some b => if lt b a then some b else some a

end Sys2Proof.Machine
end

