-- ==== Sys2Proof/Machine/Access.lean ====
section
/-! DEFINITION. Reading and changing the parts of the state by number: cores, workgroups, groups, threads, dies, tenants, queues, launches,
islands; the fields of the launch record (R408, R409); writing memory. -/

namespace Sys2Proof.Machine

open Sys2Proof

def State.core (s : State) (c : Nat) : Core := SMap.getD s.cores c Core.reset
def State.setCore (s : State) (c : Nat) (x : Core) : State := { s with cores := SMap.set s.cores c x }
def State.modCore (s : State) (c : Nat) (f : Core → Core) : State := s.setCore c (f (s.core c))
def State.wg? (s : State) (c : Nat) : Option Wg := (s.core c).wg
def State.modWg (s : State) (c : Nat) (f : Wg → Wg) : State := s.modCore c fun x => { x with wg := x.wg.map f }
def State.setWg (s : State) (c : Nat) (w : Option Wg) : State := s.modCore c fun x => { x with wg := w }
def Wg.group? (w : Wg) (g : Nat) : Option Group := SMap.get? w.groups g
def Wg.setGroup (w : Wg) (g : Nat) (x : Group) : Wg := { w with groups := SMap.set w.groups g x }
def Wg.modGroup (w : Wg) (g : Nat) (f : Group → Group) : Wg := { w with groups := SMap.modify w.groups g f }
def Wg.modThread (w : Wg) (t : Nat) (f : Thread → Thread) : Wg := { w with threads := SMap.modify w.threads t f }
def State.group? (s : State) (c g : Nat) : Option Group := (s.wg? c).bind (·.group? g)
def State.modGroup (s : State) (c g : Nat) (f : Group → Group) : State := s.modWg c (·.modGroup g f)
def State.modThread (s : State) (c t : Nat) (f : Thread → Thread) : State := s.modWg c (·.modThread t f)
def State.die (s : State) (d : Nat) : Die := SMap.getD s.dies d Die.reset
def State.setDie (s : State) (d : Nat) (x : Die) : State := { s with dies := SMap.set s.dies d x }
def State.modDie (s : State) (d : Nat) (f : Die → Die) : State := s.setDie d (f (s.die d))
def State.tenant (s : State) (t : Nat) : Tenant := SMap.getD s.tenants t Tenant.none
def State.setTenant (s : State) (t : Nat) (x : Tenant) : State := { s with tenants := SMap.set s.tenants t x }
def State.modTenant (s : State) (t : Nat) (f : Tenant → Tenant) : State := s.setTenant t (f (s.tenant t))
def State.queue (s : State) (q : Nat) : Queue := SMap.getD s.queues q Queue.none
def State.setQueue (s : State) (q : Nat) (x : Queue) : State := { s with queues := SMap.set s.queues q x }
def State.modQueue (s : State) (q : Nat) (f : Queue → Queue) : State := s.setQueue q (f (s.queue q))
def State.island (s : State) (i : Nat) : Island := SMap.getD s.islands i Island.reset
def State.setIsland (s : State) (i : Nat) (x : Island) : State := { s with islands := SMap.set s.islands i x }
def State.modIsland (s : State) (i : Nat) (f : Island → Island) : State := s.setIsland i (f (s.island i))
def State.launch? (s : State) (u : Nat) : Option Launch := s.launches.find? (·.uid == u)
def State.modLaunch (s : State) (u : Nat) (f : Launch → Launch) : State :=
  { s with launches := s.launches.map fun l => if l.uid == u then f l else l }
/-- A number not used before, for a word, an operation, a group, a record. The model's own. -/
def State.fresh (s : State) : State := { s with nextId := s.nextId + 1 }
/-- Advances the counter that free values are applied to. -/
def State.draw (s : State) : State := { s with free := s.free + 1 }
def State.emit (s : State) (o : Out) : State := { s with out := s.out ++ [o] }

/-! ## Where things are (R18, R24, R36) -/

def dieOf (core : Nat) : Nat := core / 128
def clusterOf (core : Nat) : Nat := core / 16 % 8
/-- R36: 16 x die + 2 x cluster + (1 for indices 8 to 15). -/
def islandOf (core : Nat) : Nat := core / 8

/-- The cores whose islands run (R455). -/
def State.coreOn (s : State) (c : Nat) : Bool := (s.island (islandOf c)).cur != 4

/-! ## The launch record (R408, R409) -/

def LaunchRec.bit (r : LaunchRec) (n : Nat) : Bool := r.ctl.toNat / 2 ^ n % 2 == 1
def LaunchRec.reloc (r : LaunchRec) : Bool := r.bit 8
def LaunchRec.chk (r : LaunchRec) : Bool := r.bit 7
def LaunchRec.morton (r : LaunchRec) : Bool := r.bit 6
def LaunchRec.stream (r : LaunchRec) : Bool := r.bit 5
def LaunchRec.dims (r : LaunchRec) : Nat := bits r.ctl.toNat 4 3
def LaunchRec.prio (r : LaunchRec) : Nat := bits r.ctl.toNat 1 0
def LaunchRec.gangSize (r : LaunchRec) : Nat := 2 ^ r.gangLog
def LaunchRec.slot (r : LaunchRec) (n : Nat) : Word32 := r.fs.getD n 0
/-- R367: usable thread slots of a core. -/
def LaunchRec.usable (r : LaunchRec) : Nat := min Config.threadSlots (Config.vregsPerCore / max r.v 1)

/-- R96: the fields of a format slot. -/
def slotFmt (f : Word32) : Nat := bits f.toNat 31 28
def slotMa (f : Word32) : Nat := bits f.toNat 27 24 + 1
def slotMb (f : Word32) : Nat := bits f.toNat 23 20 + 1
def slotRnd (f : Word32) : Rnd := match bits f.toNat 17 16 with | 0 => .rne | 1 => .rz | 2 => .rd | _ => .ru
def slotSaturate (f : Word32) : Bool := bits f.toNat 15 15 == 1
def slotLenient (f : Word32) : Bool := bits f.toNat 14 14 == 1
/-- The reduction scale exponent S, signed. -/
def slotScale (f : Word32) : Int := signed 8 (bits f.toNat 7 0)

/-- The launch of the workgroup on a core. -/
def State.launchOf (s : State) (c : Nat) : Option Launch := (s.wg? c).bind fun w => s.launch? w.launch

/-- A launch that could not be found never runs a word: the record of a launch that is not there. -/
def LaunchRec.none : LaunchRec :=
  { entry := 0, w := 8, t := 8, v := 8, gangLog := 0, stages := 1, sg := [1, 0, 0, 0], scratch := 0, priv := 0, ctl := 0, part := [],
    x := 0, y := 0, z := 0, gx := 1, gy := 1, gz := 1, tmask := 0, key := 0, fs := [], cbp := [], cbl := [], dbg := 0, trc := 0,
    resv := false }

def State.recOf (s : State) (c : Nat) : LaunchRec := ((s.launchOf c).map (·.rcd)).getD LaunchRec.none
def State.tenantOf (s : State) (c : Nat) : Nat := ((s.launchOf c).map (·.tenant)).getD 0
def State.asidOf (s : State) (c : Nat) : Nat := (s.tenant (s.tenantOf c)).cfg.asid

/-- The cores that hold a workgroup of a launch, ascending. -/
def State.coresOf (s : State) (u : Nat) : List Nat :=
  (SMap.keys s.cores).filter fun c => match s.wg? c with | some w => w.launch == u | none => false

/-- The cores that hold a workgroup of a gang of a launch. -/
def State.gangCores (s : State) (u gang : Nat) : List Nat :=
  (s.coresOf u).filter fun c => match s.wg? c with | some w => w.gang == gang | none => false

/-- The core that holds a rank of a gang of a launch, if a workgroup is there (R25, R418). -/
def State.rankCore (s : State) (u gang rank : Nat) : Option Nat :=
  (s.gangCores u gang).find? fun c => match s.wg? c with | some w => w.rank == rank | none => false

/-! ## Memory (R7, R170, R235, R425) -/

/-- The 32-byte units that a run of bytes covers wholly. -/
def coveredUnits (key n : Nat) : List Nat :=
  (List.range (n / 32 + 1)).filterMap fun i =>
    let u := (key + 31) / 32 + i
    if 32 * u + 32 ≤ key + n then some u else none

/-- A run of bytes cut at the 32-byte units: the address and the bytes of each piece. -/
def unitPieces : Nat → List Byte → List (Nat × List Byte)
  | _, [] => []
  | va, b :: bs =>
    match unitPieces (va + 1) bs with
    | [] => [(va, [b])]
    | (a, p) :: r => if (va + 1) % 32 = 0 then (va, [b]) :: (a, p) :: r else (va, b :: p) :: r

/-- Writes bytes of device or host memory, with what every launch's record of past values needs. A write that covers a poisoned
unit whole makes it sound (R425). -/
def State.memWrite (s : State) (key : Nat) (bs : List Byte) : State :=
  let old := Mem.readBytes s.mem key bs.length
  { s with
    mem := Mem.writeBytes s.mem key bs
    poisoned := s.poisoned.filter fun u => !(coveredUnits key bs.length).contains u
    latent := s.latent.filter fun p => !(coveredUnits key bs.length).contains p.1
    launches := s.launches.map fun l =>
      if l.stat == .resident || l.stat == .saved then { l with undo := (key, old) :: l.undo } else l }

def State.memNat (s : State) (key n : Nat) : Nat := Mem.readNat s.mem key n

/-- R461: the position of a valid entry. -/
def State.erasedAt (s : State) (rank entry : Nat) : Option Nat :=
  let v := (SMap.getD s.erasure (4 * rank + entry) 0).toNat
  if bits v 15 15 = 1 then some (bits v 5 0) else none

/-- R461: the positions listed in a rank's table. -/
def State.erased (s : State) (rank : Nat) : List Nat :=
  (List.range 4).filterMap (s.erasedAt rank)

/-- R460: a unit with symbols in error decodes against the table of its rank as it stands: `e` listed positions and `t` errors at others, 2t + e at most 4. -/
def State.decodes (s : State) (p : Nat × List Nat) : Bool :=
  let listed := dedup (s.erased (Config.rankOf p.1 % 96))
  decide (2 * (p.2.filter fun q => !listed.contains q).length + listed.length ≤ 4)

/-- R460, R425: the units that a read finds poisoned: those marked, and those that do not decode. -/
def State.badUnitList (s : State) : List Nat := s.poisoned ++ (s.latent.filter fun p => !s.decodes p).map (·.1)

/-- Whether any unit of a run of bytes is poisoned (R425). -/
def State.isPoisoned (s : State) (key n : Nat) : Bool := s.badUnitList.any fun u => decide (u * 32 < key + n) && decide (key < u * 32 + 32)

/-- The keys under which the arrays of a core can be poisoned (R425, R462): the scratchpad, the private memory of its threads, its vector registers, its scalar
registers: where each begins and how long it is. -/
def arraysOf (c : Nat) : List (Nat × Nat) :=
  [(2 ^ 60 + c * 2 ^ 24, 2 ^ 24), (2 ^ 61 + c * 2 ^ 44, 2 ^ 44), (2 ^ 62 + c * 2 ^ 22, 2 ^ 22), (2 ^ 63 + c * 2 ^ 16, 2 ^ 16)]

/-- The keys of a vector register of a thread slot and of a scalar register of a group slot. -/
def vregUnitKey (c slot r : Nat) : Nat := 2 ^ 62 + c * 2 ^ 22 + 4 * (256 * slot + r)
def sregUnitKey (c g r : Nat) : Nat := 2 ^ 63 + c * 2 ^ 16 + 4 * (64 * g + r)

/-- The poisoned units of the arrays of a core: the number of the array, and the unit in it. -/
def State.badUnits (s : State) (c : Nat) : List (Nat × Nat) :=
  ((List.range 4).zip (arraysOf c)).flatMap fun p =>
    (s.poisoned.filter fun u => decide (p.2.1 ≤ 32 * u) && decide (32 * u < p.2.1 + p.2.2)).map fun u => (p.1, u - p.2.1 / 32)

/-- The arrays of a core hold these poisoned units and no others. -/
def State.setBadUnits (s : State) (c : Nat) (bad : List (Nat × Nat)) : State :=
  { s with poisoned := bad.map (fun p => ((arraysOf c).getD p.1 (0, 0)).1 / 32 + p.2) ++
      s.poisoned.filter fun u => !(arraysOf c).any fun p => decide (p.1 ≤ 32 * u) && decide (32 * u < p.1 + p.2) }

/-- No unit of a register file is poisoned. -/
def State.regsSound (s : State) : Bool := s.badUnitList.all fun u => decide (32 * u < 2 ^ 62)

/-- Writes bytes of a workgroup's scratchpad allocation. -/
def Wg.scratchWrite (w : Wg) (off : Nat) (bs : List Byte) : Wg :=
  { w with scratch := Mem.writeBytes w.scratch off bs, undo := (off, Mem.readBytes w.scratch off bs.length) :: w.undo }

/-- The key of a byte of a thread's private memory. -/
def privKey (slot off : Nat) : Nat := slot * 2 ^ 32 + off

/-- Undoes one logged write over a window of bytes that starts at `key`. -/
def undoBytes (key : Nat) (cur : List Byte) (r : Nat × List Byte) : List Byte :=
  (List.range cur.length).map fun i =>
    if r.1 ≤ key + i ∧ key + i < r.1 + r.2.length then r.2.getD (key + i - r.1) 0 else cur.getD i 0

/-- The values that a run of bytes has held: now, and before each of the logged writes given, newest first. -/
def pastValues (key : Nat) : List Byte → List (Nat × List Byte) → List (List Byte)
  | cur, [] => [cur]
  | cur, r :: rs =>
    let p := undoBytes key cur r
    if p = cur then pastValues key cur rs else cur :: pastValues key p rs

/-- R170: where a byte of a constant bank's page stood at launch start, or where the migration of its line has put that place (R389). -/
def Launch.bankStart (l : Launch) (va : Nat) : Option Nat :=
  match SMap.get? l.bankAt (va / 2 ^ 16) with
  | none => none
  | some b => some (((SMap.get? l.bankLine (va / 128)).map (· + va % 128)).getD (b + va % 2 ^ 16))

/-- The writes recorded since a page of a constant bank took its place (R170). -/
def Launch.bankWrites (l : Launch) (va : Nat) : List (Nat × List Byte) :=
  l.undo.take (l.undo.length - SMap.getD l.bankSince (va / 2 ^ 16) 0)

/-! ## Registers of a workgroup -/

def vregKey (slot r : Nat) : Nat := slot * 256 + r
def Wg.vreg (w : Wg) (slot r : Nat) : Word32 := SMap.getD w.vregs (vregKey slot r) 0
def Wg.setVreg (w : Wg) (slot r : Nat) (v : Word32) : Wg := { w with vregs := SMap.set w.vregs (vregKey slot r) v }
def Group.sreg (g : Group) (r : Nat) : Word32 := SMap.getD g.sregs r 0
def Group.ct (g : Group) (n : Nat) : Nat := SMap.getD g.cts n 0
def Group.port (g : Group) (n : Nat) : List Word32 := SMap.getD g.ports n []
def Thread.pred (t : Thread) (p : Nat) : Bool := p = 7 || t.preds.getLsbD p
def Thread.setPred (t : Thread) (p : Nat) (b : Bool) : Thread :=
  if p < 7 then { t with preds := if b then t.preds ||| BitVec.ofNat 7 (2 ^ p) else t.preds &&& ~~~ (BitVec.ofNat 7 (2 ^ p)) } else t

/-- The group slot and group with a uid. -/
def Wg.groupByUid (w : Wg) (u : Nat) : Option (Nat × Group) := w.groups.find? fun p => p.2.uid == u

/-- The group with a uid, in its slot or parked. -/
def Wg.anyByUid (w : Wg) (u : Nat) : Option Group := ((w.groupByUid u).map (·.2)).orElse fun _ => (w.parked.find? fun p => p.group.uid == u).map (·.group)

/-- Changes the group with a uid, in its slot or parked. -/
def Wg.modUid (w : Wg) (u : Nat) (f : Group → Group) : Wg :=
  { w with groups := w.groups.map fun p => if p.2.uid == u then (p.1, f p.2) else p
           parked := w.parked.map fun p => if p.group.uid == u then { p with group := f p.group } else p }

/-- The value now at a place. -/
def Wg.loc (w : Wg) : Loc → Word32
  | .vec slot r => w.vreg slot r
  | .pred slot p => match SMap.get? w.threads slot with | some t => if t.pred p then 1 else 0 | none => 0
  | .sca u r => match w.anyByUid u with | some g => g.sreg r | none => 0

/-- Writes a place. -/
def Wg.setLoc (w : Wg) (l : Loc) (v : Word32) : Wg :=
  match l with
  | .vec slot r => w.setVreg slot r v
  | .pred slot p => w.modThread slot (·.setPred p (v != 0))
  | .sca u r => w.modUid u fun g => { g with sregs := SMap.set g.sregs r v }

/-- Live threads of a workgroup that a barrier counts (R194): not ended and not waiting at TAIL. -/
def Thread.live (t : Thread) : Bool := t.stat != .atTail

end Sys2Proof.Machine
end

