-- ==== Sys2Proof/Machine/Translate.lean ====
section
/-! DEFINITION. Homes and translation: the home map entry (R376, R477), the page walk (R378, R379), the TLBs (R380), the record of writable
mappings (R381), the L2 tags (R375), the steering of a migrating region (R390, R391). -/

namespace Sys2Proof.Machine

open Sys2Proof

/-! ## The home map (R376) -/

def homeKey (asid va : Nat) : Nat := asid * 2 ^ 36 + va / 2 ^ 21 % 2 ^ 36
def State.homeEntry (s : State) (asid va : Nat) : Word32 := SMap.getD s.homeMap (homeKey asid va) 0
def hmV (e : Word32) : Bool := bits e.toNat 31 31 == 1
def hmMig (e : Word32) : Bool := bits e.toNat 30 30 == 1
def hmHome (e : Word32) : Nat := bits e.toNat 29 28
def hmTier (e : Word32) : Nat := bits e.toNat 27 27
def hmNHome (e : Word32) : Nat := bits e.toNat 26 25
def hmNTier (e : Word32) : Nat := bits e.toNat 24 24
def hmSlot (e : Word32) : Nat := bits e.toNat 23 22
def hmHost (e : Word32) : Bool := bits e.toNat 21 21 == 1

/-- R376, R477: v = 1, no nonzero reserved field; the new home and tier are 0 without a migration; a host entry has no other field. -/
def hmOk (e : Word32) : Bool :=
  hmV e && bits e.toNat 20 0 == 0 && (hmMig e || bits e.toNat 26 24 == 0) && (!hmHost e || bits e.toNat 30 22 == 0)

/-! ## Page tables (R378, R379) -/

def pteV (e : Nat) : Bool := bits e 63 63 == 1
def pteLeaf (e : Nat) : Bool := bits e 62 62 == 1
def ptePa (e : Nat) : Nat := bits e 51 12 * 4096

/-- A leaf found by a walk. -/
structure Leaf where
  pa : Nat
  size : Nat
  rd : Bool
  wr : Bool
  ex : Bool
  tier : Nat
  host : Bool
deriving DecidableEq, Repr

/-- R379: reserved bits; [11:8] is a field only of a level-0 entry that points to a page-level table. -/
def pteResvOk (e : Nat) (level0 : Bool) : Bool :=
  bits e 56 52 == 0 && bits e 7 0 == 0 && ((level0 && !pteLeaf e) || bits e 11 8 == 0)

def leafOf (e size : Nat) : Leaf :=
  { pa := ptePa e, size := size, rd := bits e 61 61 == 1, wr := bits e 60 60 == 1, ex := bits e 59 59 == 1, tier := bits e 58 58,
    host := bits e 57 57 == 1 }

/-- Walks one level after another: the level (3 to 0, then the page level), the address of the table and the entry's size. Tables
are read from the first tier (log entry 3). `none` is the fault "not present". -/
def walkFrom (mem : Mem) (va : Nat) : Nat → Nat → Option Leaf
  | 0, table =>
    let e := Mem.readNat mem (memKey 0 (table + 8 * bits va 20 16)) 8
    if pteV e && pteLeaf e && pteResvOk e false && ptePa e % 2 ^ 16 == 0 then some (leafOf e (2 ^ 16)) else none
  | n + 1, table =>
    let e := Mem.readNat mem (memKey 0 (table + 8 * (va / 2 ^ (12 + 9 * (n + 1)) % 512))) 8
    if pteV e && pteResvOk e (n == 0) then
      if pteLeaf e then
        if n < 2 && ptePa e % 2 ^ (12 + 9 * (n + 1)) == 0 then some (leafOf e (2 ^ (12 + 9 * (n + 1)))) else none
      else walkFrom mem va n (ptePa e + (if n = 0 then bits e 11 8 * 256 else 0))
    else none

/-- The tenant that owns an address-space id. -/
def State.tenantOfAsid (s : State) (asid : Nat) : Option Nat :=
  (SMap.keys s.tenants).find? fun t => (s.tenant t).live && (s.tenant t).cfg.asid == asid

/-- What an access needs of a mapping (R379). -/
structure Need where
  rd : Bool
  wr : Bool
  ex : Bool
deriving DecidableEq, Repr

def Need.met (n : Need) (rd wr ex : Bool) : Bool := (!n.rd || rd) && (!n.wr || wr) && (!n.ex || ex)
def needRead : Need := ⟨true, false, false⟩
def needWrite : Need := ⟨false, true, false⟩
def needRmw : Need := ⟨true, true, false⟩
def needFetch : Need := ⟨false, false, true⟩
/-- R217: an access through a constant bank's window meets no fault for a page: it needs a place and no permission. -/
def needPlace : Need := ⟨false, false, false⟩

/-- The outcome of a translation: a place in memory, a fault with its cause (R383), or a line held while it moves (R390). -/
inductive Xl where
  | at (key : Nat) | fault (cause : Nat) | held
deriving DecidableEq, Repr

/-- The first tier of a die: three stacks of 64 GiB each (R28, R379). -/
def paDie (pa : Nat) : Nat := pa / Config.hbmPerDie

/-- R29, R392: the bytes of the second tier: the LPDDR6 and the expanders that are mapped behind it. -/
def State.secondTier (s : State) : Nat := Config.lpddrBytes + s.expanders.foldl (fun n p => n + p.2) 0

/-- R389 (log entry 25): the leaf of a region that was moved away from under a larger one. -/
def State.movedLeaf (s : State) (asid va : Nat) (l : Leaf) : Leaf :=
  match SMap.get? s.regionAt (homeKey asid va) with
  | some (tier, frame) => if 2 ^ 21 < l.size then { l with pa := frame, size := 2 ^ 21, tier := tier } else l
  | none => l

/-- R378: the leaf that a walk comes to. Entry 511 of level 3 is never read. -/
def State.leafAt (s : State) (asid root va : Nat) : Option Leaf :=
  if bits va 56 48 = 0x1FF then none else (walkFrom s.mem va 4 root).map (s.movedLeaf asid va)

/-- R378, R379: the walk and its checks against the home map entry. A second-tier frame beyond the LPDDR6 and the mapped expanders is "not present" too: R379
names only first-tier frames, and the choice is the model's (log entry 83). -/
def State.walk (s : State) (asid va : Nat) (e : Word32) (need : Need) : Except Nat Leaf :=
  match s.tenantOfAsid asid with
  | none => .error 0
  | some t =>
    match s.leafAt asid (s.tenant t).cfg.root va with
    | none => .error 0
    | some l =>
      if l.tier != hmTier e || l.host != hmHost e then .error 0
      else if !l.host && l.tier == 0 && paDie l.pa != hmHome e then .error 0
      else if !l.host && l.tier == 1 && s.secondTier < l.pa + l.size then .error 0
      else if need.met l.rd l.wr l.ex then .ok l else .error 1

/-! ## Migrating regions (R389, R390) -/

/-- R390: where a line of a migrating region goes: the new home, held, or the old home. -/
inductive Steer where
  | old | held | new (m : Migration)
deriving DecidableEq, Repr

/-- The migration of the region of a home map entry. -/
def State.migrationOf (s : State) (e : Word32) : Option Migration := if hmMig e then SMap.get? (s.die (hmHome e)).slots (hmSlot e) else none

/-- R389 step 1: a core has still to acknowledge the entry of a migration, of which no line is moved before. -/
def State.telling (s : State) (m : Migration) : Bool := s.cores.any fun p => p.2.shoots.any fun q => q.1 == m.told

def State.steer (s : State) (e : Word32) (va : Nat) : Steer :=
  match s.migrationOf e with
  | none => .old
  | some m =>
    let i := va / 128 % 2 ^ 14
    if s.telling m then .old else if i < m.line then .new m else if i = m.line then .held else .old

/-- R389, R390: a place in memory is where a byte stands, as far as migrations say: in the new frames once its line has moved, and not there before; a region moved away
from under a larger leaf stands in its own frames. A TLB entry of a mapping that has changed so does not serve the byte. -/
def State.standsAt (s : State) (asid va key : Nat) : Bool :=
  let off := va % 2 ^ 21
  let e := s.homeEntry asid va
  let moved : Option Bool := (SMap.get? s.regionAt (homeKey asid va)).map fun p => key == memKey p.1 (p.2 + off)
  match s.steer e va with
  | .new m => key == memKey m.newTier (m.newFrame + off)
  | _ => moved.getD (match s.migrationOf e with
    | some m => key != memKey m.newTier (m.newFrame + off)
    | none => true)

/-- R381: another writable mapping is recorded for a frame of this one. -/
def synonym (ms : List WMap) (w : WMap) : Bool :=
  ms.any fun m => w.frame < m.frame + m.frames && m.frame < w.frame + w.frames && (m.asid != w.asid || m.va / 2 ^ 16 + w.frame != w.va / 2 ^ 16 + m.frame)

/-- R381, R387: what is left of a writable mapping without its pages in a range: the frames before it, and those behind it. -/
def WMap.without (m : WMap) (asid va len : Nat) : List WMap :=
  if m.asid != asid || decide (m.va + m.frames * 2 ^ 16 ≤ va) || decide (va + len ≤ m.va) then [m]
  else
    let a := (va - m.va) / 2 ^ 16
    let b := (va + len - m.va + (2 ^ 16 - 1)) / 2 ^ 16
    (if a = 0 then [] else [{ m with frames := a }]) ++
      if m.frames ≤ b then [] else [{ m with frame := m.frame + b, frames := m.frames - b, va := m.va + b * 2 ^ 16 }]

/-- R381, R389 (log entry 25): the writable mappings of a leaf: its frames without those of regions moved away from under it. -/
def State.wmapsOf (s : State) (asid vaBase : Nat) (l : Leaf) : List WMap :=
  let all : WMap := ⟨l.pa / 2 ^ 16, max 1 (l.size / 2 ^ 16), asid, vaBase⟩
  if l.size ≤ 2 ^ 21 then [all]
  else ((SMap.keys s.regionAt).filter fun k => k / 2 ^ 36 == asid).foldl (fun ms k => ms.flatMap fun m => m.without asid (k % 2 ^ 36 * 2 ^ 21) (2 ^ 21)) [all]

/-- R375: the controller that serves a region: the hub's (`none`), or one of a die's three (log entry 81). -/
def ctlOf (asid va home tier : Nat) : Option (Nat × Nat) := if tier = 0 then some (home, Config.controller asid (va / 2 ^ 21) % 3) else none

def State.tlbAt (s : State) : Option (Nat × Nat) → List TlbEntry
  | none => s.hubTlb
  | some (d, k) => SMap.getD (s.die d).tlb k []
def State.wmapsAt (s : State) : Option (Nat × Nat) → List WMap
  | none => s.hubWmaps
  | some (d, _) => (s.die d).wmaps
def State.setXl (s : State) (at_ : Option (Nat × Nat)) (t : List TlbEntry) (m : List WMap) : State :=
  match at_ with
  | none => { s with hubTlb := t, hubWmaps := m }
  | some (d, k) => s.modDie d fun x => { x with tlb := SMap.set x.tlb k t, wmaps := m }

/-- The tier of an entry: 2 is host memory. -/
def tierOf (e : Word32) : Nat := if hmHost e then 2 else hmTier e

def TlbEntry.covers (t : TlbEntry) (asid va : Nat) : Bool := t.asid == asid && decide (t.va ≤ va) && decide (va < t.va + t.size)

/-- R380, R389: the TLB entry of a controller that serves an access: one of a mapping that still holds for the byte. -/
def State.tlbHit (s : State) (asid va : Nat) (at_ : Option (Nat × Nat)) (need : Need) : Option TlbEntry :=
  (s.tlbAt at_).find? fun t => t.covers asid va && need.met t.rd t.wr t.ex && s.standsAt asid va (t.key + (va - t.va))

/-- A translation at a controller: TLB, walk, synonym check, and the entry and record that it installs (R378 to R381). `tier` is 2 for host memory. -/
def State.translate (s : State) (asid va : Nat) (at_ : Option (Nat × Nat)) (tier : Nat) (need : Need) (leaf : Except Nat Leaf) : State × Xl :=
  match s.tlbHit asid va at_ need with
  | some t => (s, .at (t.key + (va - t.va)))
  | none =>
    match leaf with
    | .error c => (s, .fault c)
    | .ok l =>
      let vaBase := va / l.size * l.size
      let ws := if l.wr && !l.host then s.wmapsOf asid vaBase l else []
      if ws.any (synonym (s.wmapsAt at_)) then (s, .fault 2)
      else
        let key := memKey tier l.pa
        let tlb := (⟨asid, vaBase, l.size, key, l.rd, l.wr, l.ex⟩ :: s.tlbAt at_).take Config.tlbEntries
        let old := s.wmapsAt at_
        (s.setXl at_ tlb (ws.filter (fun w => !old.contains w) ++ old), .at (key + (va - vaBase)))

/-! ## The L2 (R27, R375) -/

/-- The line of a virtual address (R27: 128 bytes). -/
def lineOf (va : Nat) : Nat := va / 128

/-- R27: the home slice of a line: VA[11:7] xor VA[16:12] xor VA[21:17]. -/
def sliceOf (line : Nat) : Nat := (line % 32 ^^^ line / 2 ^ 5 % 32) ^^^ line / 2 ^ 10 % 32

def Die.slice (d : Die) (line : Nat) : List L2Line := SMap.getD d.l2 (sliceOf line) []

def L2Line.isAt (l : L2Line) (asid line : Nat) : Bool := l.asid == asid && l.line == line

/-- The L2's line of a virtual line. -/
def Die.l2Find (d : Die) (asid line : Nat) : Option L2Line := (d.slice line).find? fun (l : L2Line) => l.isAt asid line

/-- Keeps the lines of the L2 that a test keeps. -/
def Die.l2Keep (d : Die) (keep : L2Line → Bool) : Die := { d with l2 := d.l2.map fun (p : Nat × List L2Line) => (p.1, p.2.filter keep) }

/-- A line enters its slice. A slice that is full gives up the line that entered it first: R27 gives the capacity and no choice (log entry 82). -/
def Die.l2Add (d : Die) (l : L2Line) : Die :=
  { d with l2 := SMap.set d.l2 (sliceOf l.line) ((l :: (d.slice l.line).filter fun (q : L2Line) => !q.isAt l.asid l.line).take Config.sliceLines) }

/-- A line written in L2 is dirty until it is written back (R213, R387). -/
def Die.l2Dirty (d : Die) (asid line : Nat) : Die :=
  { d with l2 := SMap.modify d.l2 (sliceOf line) fun ls => ls.map fun (l : L2Line) => if l.isAt asid line then { l with dirty := true } else l }

/-! ## The place of an access (R375 to R381, R390) -/

/-- R376, R377, R390: the die that is home of a line now. -/
def State.homeDie (s : State) (asid va : Nat) : Nat :=
  let e := s.homeEntry asid va
  match s.steer e va with
  | .new m => m.newHome
  | _ => hmHome e

def State.isHost (s : State) (asid va : Nat) : Bool := hmHost (s.homeEntry asid va)

/-- The place of a line at a home: an L2 hit, or a translation at the controller, which fills the L2 (R375 to R381). Host lines bypass L2. -/
def State.placeAt (s : State) (asid va : Nat) (need : Need) (home tier : Nat) (leaf : Except Nat Leaf) : State × Xl :=
  let hit := if tier = 2 then none else ((s.die home).l2Find asid (lineOf va)).bind fun (l : L2Line) => if need.met l.rd l.wr true then some l else none
  match hit with
  | some l => (s, .at (l.key + va % 128))
  | none =>
    let at_ := ctlOf asid va home tier
    match s.translate asid va at_ tier need leaf with
    | (s, .at k) =>
      if tier = 2 then (s, .at k)
      else
        let t := s.tlbHit asid va at_ need
        (s.modDie home (·.l2Add ⟨asid, lineOf va, k - va % 128, (t.map (·.rd)).getD need.rd, (t.map (·.wr)).getD need.wr, false⟩), .at k)
    | r => r

/-- The place of a line at the home that its home map entry names. -/
def State.placeOld (s : State) (asid va : Nat) (need : Need) (e : Word32) : State × Xl :=
  s.placeAt asid va need (hmHome e) (tierOf e) (s.walk asid va e need)

/-- R389: the mapping of a page whose region moves, as it is for the lines that have moved: the permissions of its leaf, at the new frames. -/
def Migration.leaf (m : Migration) (va : Nat) (l : Leaf) : Leaf := { l with pa := m.newFrame + va % 2 ^ 21 / 2 ^ 16 * 2 ^ 16, size := 2 ^ 16, tier := m.newTier }

/-- The place of a line that has moved (R390): its walk meets the faults that its leaf gives. -/
def State.placeNew (s : State) (asid va : Nat) (need : Need) (e : Word32) (m : Migration) : State × Xl :=
  s.placeAt asid va need m.newHome m.newTier ((s.walk asid va e need).map (m.leaf va))

/-- An access to translated memory finds its place: home map entry, L2 hit, or translation (R375 to R381, R390). -/
def State.place (s : State) (asid va : Nat) (need : Need) : State × Xl :=
  let e := s.homeEntry asid va
  if !hmOk e then (s, .fault 3)
  else
    match s.steer e va with
    | .held => (s, .held)
    | .new m => s.placeNew asid va need e m
    | .old => s.placeOld asid va need e

/-- The place of a line without any change of state: used by reads that the hub makes at once. A line that is moving is held until its move completes
(R390), and its bytes are then those at its old place now. -/
def State.placeOf (s : State) (asid va : Nat) (need : Need) : Except Nat Nat :=
  match (match s.place asid va need with | (s, .held) => (s.placeOld asid va need (s.homeEntry asid va)).2 | (_, r) => r) with
  | .at k => .ok k
  | .fault c => .error c
  | .held => .error 0

/-- R390: where a byte of a tenant's mapped page stands now: its leaf's frame, or the new frame for a line that has moved. -/
def State.keyNow (s : State) (asid va : Nat) (l : Leaf) : Nat :=
  match s.steer (s.homeEntry asid va) va with
  | .new m => memKey m.newTier (m.newFrame + va % 2 ^ 21)
  | _ => memKey l.tier (l.pa + va % l.size)

/-- R216: a generic address names a window. -/
def isWindow (va : Nat) : Bool := bits va 56 48 == 0x1FF
/-- R216: bits [63:57] are zero. -/
def vaOk (ea : Word64) : Bool := ea.toNat < 2 ^ 57

/-- The bytes of translated memory from an address on, byte by byte, or the first fault. -/
def State.readVa (s : State) (asid va : Nat) : Nat → Except Nat (List Byte)
  | 0 => .ok []
  | n + 1 =>
    match s.placeOf asid va needRead with
    | .error c => .error c
    | .ok k =>
      match State.readVa s asid (va + 1) n with
      | .error c => .error c
      | .ok bs => .ok (Mem.read s.mem k :: bs)

end Sys2Proof.Machine
end

