-- ==== Sys2Proof/Machine/Memory.lean ====
section
/-! DEFINITION. Writes at the home of a line: milestone generations (R393, R396, R398), reduction shadows dropped (R103), replicas updated (R286);
the L1 of a core (R226, R227, R270). -/

namespace Sys2Proof.Machine

open Sys2Proof

/-! ## Generations at a home (R395 to R398) -/

/-- The generation of a home die for a tenant. -/
def Tenant.genAt (t : Tenant) (die : Nat) : Nat := SMap.getD t.dieGen die t.gen

/-- The 64 KiB page of a virtual address. -/
def pageOf (va : Nat) : Nat := va / 2 ^ 16

/-- The bytes of a page as a store of offsets. -/
def pageImage (m : Mem) (base : Nat) : Mem :=
  (m.filter fun c => decide (base ≤ c.1) && decide (c.1 < base + 2 ^ 16)).map fun c => (c.1 - base, c.2)

/-- R390, R398: the bytes of the page of an address as they stand now. Of a page whose region moves, the lines below the boundary stand in the new frame. -/
def State.pageMem (s : State) (asid root va key : Nat) : Mem :=
  match s.migrationOf (s.homeEntry asid va), s.leafAt asid root va with
  | some m, some l =>
    let off := va % 2 ^ 21 / 2 ^ 16 * 2 ^ 16
    let cut := 128 * m.line - off
    ((pageImage s.mem (memKey m.newTier (m.newFrame + off))).filter fun c => decide (c.1 < cut)) ++
      (pageImage s.mem (memKey l.tier (l.pa + va % l.size / 2 ^ 16 * 2 ^ 16))).filter fun c => decide (cut ≤ c.1)
  | _, _ => pageImage s.mem (key - va % 2 ^ 16)

/-- Frozen generations below a tag whose images hold a page, and that still need a copy of it before it changes (R398, R399). -/
def Tenant.needsCopy (t : Tenant) (tag page : Nat) : List Nat :=
  (t.frozen.filter fun f => decide (f.gen < tag) && !f.done && f.pages.any (·.1 == page) && !f.drained.contains page && (SMap.get? f.copies page).isNone).map (·.gen)

/-- R398: the copies made before the first write of a new generation to a page. -/
def Tenant.copyPage (t : Tenant) (gens : List Nat) (page : Nat) (img : Mem) : Tenant :=
  { t with
    frozen := t.frozen.map fun f => if gens.contains f.gen then { f with copies := SMap.set f.copies page img } else f
    poolUsed := t.poolUsed + gens.length }

/-- A home moves to a higher generation before it applies a write that carries it (R396). -/
def Tenant.advance (t : Tenant) (die tag : Nat) : Tenant :=
  if t.genAt die < tag then
    { t with dieGen := SMap.set t.dieGen die tag
             cut := t.cut.map fun c => { c with diesToMove := c.diesToMove.filter (· != die) } }
  else t

/-- R395, R396: the hub's own generation: that of the last cut it served, or a higher one that it has heard of. -/
def Tenant.hubGen (t : Tenant) : Nat := max t.gen t.heard

/-- R396: the hub hears of a generation of a tenant. -/
def State.hubHear (s : State) (ti g : Nat) : State := s.modTenant ti fun t => { t with heard := max t.heard g }

/-- R396: a core hears of a generation of its tenant, and moves to it if it is above its own. -/
def State.hear (s : State) (c g : Nat) : State :=
  if (s.core c).ms < g then
    (s.modCore c fun x => { x with ms := g }).modTenant (s.tenantOf c) fun t =>
      { t with cut := t.cut.map fun k => { k with coresToMove := k.coresToMove.filter (· != c) } }
  else s

/-- R396: the reply of a home to the hub carries its generation. -/
def State.hubHearHome (s : State) (ti va : Nat) : State :=
  let t := s.tenant ti
  if s.isHost t.cfg.asid va then s else s.hubHear ti (t.genAt (s.homeDie t.cfg.asid va))

/-- R396: the reply of a home carries its generation. -/
def State.hearHome (s : State) (c va : Nat) : State :=
  if s.isHost (s.asidOf c) va then s.hear c (s.tenant (s.tenantOf c)).hubGen
  else s.hear c ((s.tenant (s.tenantOf c)).genAt (s.homeDie (s.asidOf c) va))

/-- R398: the bytes of a late write that no write of a generation above its tag, and at most `top`, has written. -/
def clearBytes (masks : List (Nat × Nat)) (tag : Nat) (top : Option Nat) (key : Nat) : List Byte → List (Nat × Byte)
  | [] => []
  | b :: bs =>
    let later := masks.any fun m => m.2 == key && decide (tag < m.1) && (match top with | some g => decide (m.1 ≤ g) | none => true)
    if later then clearBytes masks tag top (key + 1) bs else (key, b) :: clearBytes masks tag top (key + 1) bs

/-- R398, R263: what a late write leaves: its bytes where no later write stands, in one write with the bytes that stand between them. -/
def lateBytes (m : Mem) (live : List (Nat × Byte)) (key n : Nat) : List Byte :=
  (List.range n).map fun i => ((live.find? fun p => p.1 == key + i).map (·.2)).getD (Mem.read m (key + i))

/-- R398: while a window of the tenant is open, or a SNAP waits for one, the bytes written are kept by their generation. -/
def Tenant.mark (t : Tenant) (tag key n : Nat) : Tenant :=
  if t.cut.isSome || !t.snaps.isEmpty then { t with masks := ((List.range n).map fun i => (tag, key + i)) ++ t.masks } else t

/-- R103: a write to a line drops its shadows, on whatever die. -/
def State.dropAllShadows (s : State) (key n : Nat) : State :=
  { s with dies := s.dies.map fun (p : Nat × Die) =>
      (p.1, { p.2 with shadows := p.2.shadows.filter fun (h : Shadow) => !(key / 128 ≤ h.key / 128 && h.key / 128 ≤ (key + n - 1) / 128) }) }

/-- R103: a write to a line drops its shadows. -/
def State.dropShadows (s : State) (die key n : Nat) : State :=
  s.modDie die fun d => { d with shadows := d.shadows.filter fun h => !(key / 128 ≤ h.key / 128 && h.key / 128 ≤ (key + n - 1) / 128) }

/-- R286, R396: the update of each filled replica of the range, on every core, which hears the home's generation: the bytes of one write together (R263). -/
def State.updateReplicas (s : State) (asid va : Nat) (bs : List Byte) : State :=
  (SMap.keys s.cores).foldl (fun s c =>
    if s.asidOf c != asid then s
    else
      match s.wg? c with
      | none => s
      | some w =>
        w.subs.foldl (fun s p =>
          let u := p.2
          let lo := max va u.va
          let hi := min (va + bs.length) (u.va + u.len)
          if u.filled && decide (lo < hi) then
            (s.hearHome c lo).modWg c (·.scratchWrite (u.off + (lo - u.va)) ((bs.drop (lo - va)).take (hi - lo)))
          else s) s) s

/-- R398, R396, R286: a write performed at its home. `none`: the milestone pool is empty and the write is held (cause 4). -/
def State.homeWrite (s : State) (asid va key : Nat) (bs : List Byte) (tag : Nat) (keepShadow : Bool) : Option State :=
  match s.tenantOfAsid asid with
  | none => some (s.memWrite key bs)
  | some ti =>
    if s.isHost asid va then some ((s.memWrite key bs).updateReplicas asid va bs)
    else
      let die := s.homeDie asid va
      let s := s.modTenant ti (·.advance die tag)
      let t := s.tenant ti
      let s := if keepShadow then s else s.dropShadows die key bs.length
      if tag < t.genAt die then
        let page := pageOf va
        let base := key - va % 2 ^ 16
        let image (f : Frozen) (m : Mem) : Mem := (clearBytes t.masks tag (some f.gen) key bs).foldl (fun m p => Mem.write m (p.1 - base) p.2) m
        let s := s.modTenant ti fun t => { t with frozen := t.frozen.map fun f =>
          if tag ≤ f.gen then { f with copies := SMap.modify f.copies page (image f) } else f }
        let now := lateBytes s.mem (clearBytes t.masks tag none key bs) key bs.length
        let s := (s.memWrite key now).modTenant ti (·.mark tag key bs.length)
        some (s.updateReplicas asid va now)
      else
        let gens := t.needsCopy tag (pageOf va)
        if !gens.isEmpty && t.cfg.frames < t.poolUsed + gens.length then none
        else
          let s := if gens.isEmpty then s
            else s.modTenant ti (·.copyPage gens (pageOf va) (s.pageMem asid t.cfg.root va key))
          let s := s.memWrite key bs
          let s := s.modTenant ti (·.mark tag key bs.length)
          let s := s.modDie die (·.l2Dirty asid (lineOf va))
          some (s.updateReplicas asid va bs)

/-- R398: the value a read-modify-write of a generation reads: image g for a late one, else the live frame. -/
def State.rmwRead (s : State) (asid va key n tag : Nat) : Nat :=
  match s.tenantOfAsid asid with
  | none => s.memNat key n
  | some ti =>
    let t := s.tenant ti
    if !s.isHost asid va && decide (tag < t.genAt (s.homeDie asid va)) then
      match (t.frozen.find? (·.gen == tag)).bind fun f => SMap.get? f.copies (pageOf va) with
      | some m => Mem.readNat m (va % 2 ^ 16) n
      | none => s.memNat key n
    else s.memNat key n

/-! ## The L1 (R226, R227, R267, R270, R275) -/

def Core.l1Find (x : Core) (asid va : Nat) : Option L1Line := x.l1.find? fun l => l.asid == asid && l.line == lineOf va

def Core.l1Drop (x : Core) (asid line : Nat) : Core := { x with l1 := x.l1.filter fun l => !(l.asid == asid && l.line == line) }

/-- R270, R267: an acquire, or a resume, drops every line of translated memory. -/
def Core.l1Acquire (x : Core) : Core := { x with l1 := [] }

/-- The scopes whose acquire drops lines (R270). -/
def scopeDropsL1 : Scope → Bool
  | .gang => true | .die => true | .dev => true | .sys => true
  | .none => false | .wg => false

/-- R270, R268, R275: an acquire of a core at a scope. One at `.wg` that may read the stamp of a copy drops what the copy may have written at its home. -/
def State.acquireAt (s : State) (c : Nat) (sc : Scope) : State :=
  let stamped := (s.wg? c).any (·.stamped)
  if scopeDropsL1 sc || stamped then (s.modCore c (·.l1Acquire)).modWg c fun w => { w with stamped := false } else s

/-- A write of the core updates its own copy of the line. -/
def Core.l1Write (x : Core) (asid va : Nat) (bs : List Byte) : Core :=
  { x with l1 := x.l1.map fun l =>
      if l.asid == asid then
        { l with
          data := (List.range l.data.length).map fun i =>
            let a := 128 * l.line + i
            if va ≤ a ∧ a < va + bs.length then bs.getD (a - va) 0 else l.data.getD i 0
          bad := l.bad.filter fun u => !(coveredUnits va bs.length).contains (4 * l.line + u) }
      else l }

/-- R425: a read of a line of the L1 meets a poisoned unit. -/
def L1Line.meetsBad (l : L1Line) (va n : Nat) : Bool := l.bad.any fun u => decide (32 * u < va % 128 + n) && decide (va % 128 < 32 * u + 32)

/-- A line of memory enters the L1 (R226), with its poisoned units (R425). -/
def State.l1Fill (s : State) (c asid va key : Nat) : State :=
  let base := key - va % 128
  s.modCore c fun x => { x.l1Drop asid (lineOf va) with
    l1 := (⟨asid, lineOf va, Mem.readBytes s.mem base 128, (List.range 4).filter fun u => s.isPoisoned (base + 32 * u) 32⟩ :: (x.l1Drop asid (lineOf va)).l1).take Config.l1Lines }

/-! ## The move of a line (R389, R390) -/

/-- R170, R389: a launch whose constant banks hold a line that moves to a place. -/
def Launch.moveBank (l : Launch) (va dst : Nat) : Launch :=
  if (SMap.get? l.bankAt (va / 2 ^ 16)).isSome then { l with bankLine := SMap.set l.bankLine (va / 128) dst } else l

/-- R398: the bytes written in a window, where the line they stand in moves from one place to another. -/
def moveMasks (masks : List (Nat × Nat)) (k dst : Nat) : List (Nat × Nat) :=
  masks.filterMap fun m => if k ≤ m.2 ∧ m.2 < k + 128 then some (m.1, m.2 - k + dst) else if dst ≤ m.2 ∧ m.2 < dst + 128 then none else some m

/-- R389: the migration engine of a die moves the line at its boundary: its bytes, with the model's record of the values they have held, its L2 state, its
shadows and its masks (R398); the boundary goes on. -/
def State.moveLine (s : State) (die slot : Nat) (m : Migration) : State :=
  let va := m.region * 2 ^ 21 + 128 * m.line
  let dst := memKey m.newTier (m.newFrame + 128 * m.line)
  let src : Option Nat := match (s.die die).l2Find m.asid (lineOf va) with
    | some (l : L2Line) => some l.key
    | none => (s.tenantOfAsid m.asid).bind fun ti => (s.leafAt m.asid (s.tenant ti).cfg.root va).map fun l => memKey l.tier (l.pa + va % l.size)
  let s := match src with
    | none => s
    | some k =>
      let here (u : Nat) : Bool := decide (k / 32 ≤ u) && decide (u < k / 32 + 4)
      let there (u : Nat) : Bool := decide (dst / 32 ≤ u) && decide (u < dst / 32 + 4)
      let past (r : Nat × List Byte) : Nat × List Byte :=
        if k ≤ r.1 ∧ r.1 < k + 128 then (r.1 - k + dst, r.2) else if dst ≤ r.1 ∧ r.1 < dst + 128 then (r.1, []) else r
      let asidOf (l : Launch) : Nat := (s.tenant l.tenant).cfg.asid
      let s := { s with mem := Mem.writeBytes s.mem dst (Mem.readBytes s.mem k 128)
                        launches := s.launches.map fun (l : Launch) =>
                          let l := { l with undo := l.undo.map past }
                          if asidOf l == m.asid then l.moveBank va dst else l
                        tenants := s.tenants.map fun (p : Nat × Tenant) => (p.1, { p.2 with masks := moveMasks p.2.masks k dst })
                        latent := s.latent.filter fun p => !there p.1 && !here p.1
                        poisoned := (s.poisoned.filter fun u => !there u) ++ (s.badUnitList.filter here).map fun u => u - k / 32 + dst / 32 }
      let line := (s.die die).l2Find m.asid (lineOf va)
      let shs := ((s.die die).shadows.filter fun (h : Shadow) => h.key / 128 == k / 128).map fun (h : Shadow) => { h with key := h.key - k + dst }
      let s := s.modDie die fun d =>
        { (d.l2Keep fun (l : L2Line) => !l.isAt m.asid (lineOf va)) with shadows := d.shadows.filter fun (h : Shadow) => h.key / 128 != k / 128 }
      s.modDie m.newHome fun d =>
        let d := { d with shadows := shs ++ d.shadows }
        match line with | some l => d.l2Add { l with key := dst } | none => d
  s.modDie die fun d => { d with slots := SMap.set d.slots slot { m with line := m.line + 1 } }

/-- R390: a request for the line at the boundary is held until its move completes, and then goes to the new home. -/
def State.moveHeld (s : State) (asid va : Nat) : State :=
  let e := s.homeEntry asid va
  match s.steer e va, s.migrationOf e with
  | .held, some m => s.moveLine (hmHome e) (hmSlot e) m
  | _, _ => s

/-- R390: an access of the hub to the line at the boundary: the move is part of its wait. -/
def State.placeHub (s : State) (asid va : Nat) (need : Need) : State × Xl := (s.moveHeld asid va).place asid va need

end Sys2Proof.Machine
end

