-- ==== Sys2Proof/Machine/Trace.lean ====
section
/-! DEFINITION. Capabilities as references (R437), fault records on their way to the Depot (R382, R383), writes that the Depot and the hub make
(R429, R440, R441), and trace records (R441, R442). -/

namespace Sys2Proof.Machine

open Sys2Proof

/-! ## Capability references (R437) -/

def capTenant (ref : Word64) : Nat := bits ref.toNat 63 60
def capProf (ref : Word64) : Bool := bits ref.toNat 58 58 == 1
def capTrace (ref : Word64) : Bool := bits ref.toNat 57 57 == 1
def capDbg (ref : Word64) : Bool := bits ref.toNat 56 56 == 1
def capSlotNo (ref : Word64) : Nat := bits ref.toNat 55 40
def capNonce (ref : Word64) : Nat := bits ref.toNat 39 0

def State.capSlot? (s : State) (n : Nat) : Option CapSlot := s.caps.find? (·.slot == n)

/-- R437: the slot and every ancestor of it are live; `fuel` bounds the chain by the number of slots. -/
def State.capLive (s : State) : Nat → Nat → Bool
  | 0, _ => false
  | fuel + 1, n =>
    match s.capSlot? n with
    | none => false
    | some k => match k.parent with | none => true | some p => State.capLive s fuel p

/-- R437: a reference is valid for a launch of a tenant. -/
def State.capOk (s : State) (ref : Word64) (tenant : Nat) : Bool :=
  match s.capSlot? (capSlotNo ref) with
  | none => false
  | some k =>
    ref != 0 && bits ref.toNat 59 59 == 0 && k.nonce == capNonce ref && k.tenant == capTenant ref && k.tenant == tenant &&
      (!capDbg ref || k.dbg) && (!capTrace ref || k.trace) && (!capProf ref || k.prof) &&
      State.capLive s (s.caps.length + 1) (capSlotNo ref)

/-- The debug capability of a launch is valid now: dbg rights and no others (R437). -/
def State.dbgOk (s : State) (l : Launch) : Bool :=
  capDbg l.rcd.dbg && !capTrace l.rcd.dbg && !capProf l.rcd.dbg && s.capOk l.rcd.dbg l.tenant
/-- The trace rights of a launch are valid now: trc carries trace or prof rights and not dbg (R437). -/
def State.trcOk (s : State) (l : Launch) : Bool := capTrace l.rcd.trc && !capDbg l.rcd.trc && s.capOk l.rcd.trc l.tenant
def State.profOk (s : State) (l : Launch) : Bool := capProf l.rcd.trc && !capDbg l.rcd.trc && s.capOk l.rcd.trc l.tenant

/-! ## Fault records and interrupts -/

/-- R382: a fault record leaves for the Depot. -/
def State.sendFault (s : State) (tenant : Nat) (va asid core kind cause : Nat) (depot : Bool := false) : State :=
  let r : FRec := { id := none, va := va / 2 ^ 16 * 2 ^ 16, asid := asid, core := core, kind := kind, cause := cause, uid := s.nextId, depot := depot }
  (s.modTenant tenant fun t => { t with arriving := t.arriving ++ [r] }).fresh

/-- A record of a page from a core that has no answer yet (R383). A fault of a dump, a trace or a profile merges with its like only: its record resumes nothing (log
entry 109). -/
def Tenant.pendingFault (t : Tenant) (asid page core : Nat) (depot : Bool := false) : Bool :=
  let same (r : FRec) : Bool := r.kind != 0xFF && r.depot == depot && r.asid == asid && r.va / 2 ^ 16 == page && r.core == core
  t.arriving.any same || t.held.any same || t.unanswered.any same

/-- R383: a fault is reported, unless a record of its page from the core has no answer yet. -/
def State.reportFault (s : State) (tenant : Nat) (va asid core kind cause : Nat) : State :=
  if (s.tenant tenant).pendingFault asid (pageOf va) core then s else s.sendFault tenant va asid core kind cause

/-- R433, R442, R443: a fault of a write of a dump, a trace or a profile: a record of kind 5. -/
def State.reportDepot (s : State) (tenant : Nat) (va core cause : Nat) : State :=
  let asid := (s.tenant tenant).cfg.asid
  if (s.tenant tenant).pendingFault asid (pageOf va) core true then s else s.sendFault tenant va asid core 5 cause true

/-- The tenant's interrupt vector is raised. -/
def State.interrupt (s : State) (tenant : Nat) : State :=
  (s.modTenant tenant fun t => { t with irqs := t.irqs + 1 }).emit (.interrupt tenant (s.tenant tenant).cfg.vec)

/-! ## Writes of the Depot and the hub (at .sys, in the hub's generation: R395) -/

/-- R216: an address that the Depot or the hub can reach: bits [63:57] zero, no window. -/
def hubAddr (va : Nat) : Bool := decide (va < 2 ^ 57) && !isWindow va

/-- Writes pieces of a run at virtual addresses of a tenant, in ascending order, up to the first fault: the state, and the address and
cause of the fault. -/
def State.hubPieces (s : State) (tenant : Nat) : List (Nat × List Byte) → State × Option (Nat × Nat)
  | [] => (s, none)
  | (va, p) :: ps =>
    let asid := (s.tenant tenant).cfg.asid
    if !hubAddr va then (s, some (va, 0))
    else match s.placeHub asid va needWrite with
    | (s, .fault c) => (s, some (va, c))
    | (s, .held) => (s, some (va, 0))
    | (s, .at k) =>
      match s.homeWrite asid va k p (s.tenant tenant).hubGen false with
      | none => (s, some (va, 4))
      | some s => State.hubPieces (s.hubHearHome tenant va) tenant ps

/-- Writes bytes at a virtual address of a tenant, a write for each 32-byte unit (R425). -/
def State.hubWrite (s : State) (tenant va : Nat) (bs : List Byte) : State × Option (Nat × Nat) := s.hubPieces tenant (unitPieces va bs)

/-! ## Trace records (R441, R442) -/

/-- The 64 bytes of a trace record. -/
def traceBytes (ty core : Nat) (seq : Word32) (wgx wgy wgz phase tag : Nat) (pc mask : Word64) : List Byte :=
  natToBytes 2 ty ++ natToBytes 2 core ++ natToBytes 4 seq.toNat ++ natToBytes 4 wgx ++ natToBytes 4 wgy ++ natToBytes 4 wgz ++
    natToBytes 4 phase ++ natToBytes 4 tag ++ natToBytes 4 0 ++ natToBytes 8 pc.toNat ++ natToBytes 8 mask.toNat ++ natToBytes 16 0

/-- R176: the workgroup coordinates of a workgroup number. -/
def wgCoords (r : LaunchRec) (w : Nat) : Nat × Nat × Nat :=
  (w % max r.gx 1, w / max r.gx 1 % max r.gy 1, w / max (r.gx * r.gy) 1)

/-- R442: a trace write met a fault: a record of kind 5, and the launch's trace is suspended. -/
def State.traceSuspend (s : State) (u tenant va core cause : Nat) : State :=
  (s.reportDepot tenant va core cause).modLaunch u fun l =>
    { l with traceOff := true, dropped := l.dropped + 1 }

/-- R441: the entries of one record go into the ring at the write index, which then advances, and whether they did; a full ring drops and counts the record. The ring
begins with its two indices in a 64-byte block (log entry 20). -/
def State.traceRing (s : State) (l : Launch) (core : Nat) (entries : List (List Byte)) : State × Bool :=
  match s.capSlot? (capSlotNo l.rcd.trc) with
  | none => (s, false)
  | some k =>
    let asid := (s.tenant l.tenant).cfg.asid
    match s.readVa asid k.trcBuf 16 with
    | .error c => (s.traceSuspend l.uid l.tenant k.trcBuf core c, false)
    | .ok bs =>
      let w := bytesToNat (bs.take 8)
      let r := bytesToNat (bs.drop 8)
      if k.trcEntries < w - r + entries.length then (s.modLaunch l.uid fun l => { l with dropped := l.dropped + 1 }, false)
      else
        let put := (List.range entries.length).foldl (fun (p : State × Option (Nat × Nat)) i =>
          match p.2 with
          | some f => (p.1, some f)
          | none => p.1.hubWrite l.tenant (k.trcBuf + 64 + 64 * ((w + i) % max k.trcEntries 1)) (entries.getD i [])) (s, none)
        match put with
        | (s, some (va, c)) => (s.traceSuspend l.uid l.tenant va core c, false)
        | (s, none) =>
          match s.hubWrite l.tenant k.trcBuf (natToBytes 8 (w + entries.length)) with
          | (s, some (va, c)) => (s.traceSuspend l.uid l.tenant va core c, false)
          | (s, none) => (s, true)

/-- R442: the gap record that is due, with the dropped count, which ends with it; a gap record that the ring does not take is still due, and the record that it would
come before counts among the dropped. -/
def State.traceGap (s : State) (l : Launch) (c x y z ph : Nat) : State × Bool :=
  if !l.gapDue then (s, true)
  else
    let (s, ok) := s.traceRing l c [traceBytes 3 c (s.core c).seq x y z ph l.dropped 0 0]
    let s := s.modCore c fun k => { k with seq := k.seq + 1 }
    (if ok then s.modLaunch l.uid fun l => { l with gapDue := false, dropped := 0 } else s, ok)

/-- R214, R441: one record of a core, with the entries that follow it; a gap record comes first after a suspension (R442). R214 numbers the records that a core
writes; that a record dropped at a full ring and a gap record take a number, and a record dropped during a suspension takes none, is the model's choice (log entry
84). -/
def State.traceRecord (s : State) (c ty tag : Nat) (pc mask : Word64) (extra : List (List Byte)) : State :=
  match s.wg? c, s.launchOf c with
  | some w, some l =>
    if !s.trcOk l then s
    else if l.traceOff then s.modLaunch l.uid fun l => { l with dropped := l.dropped + 1 }
    else
      let (x, y, z) := wgCoords l.rcd w.wgno
      let ph := SMap.getD w.phases 0 0
      match s.traceGap l c x y z ph with
      | (s, false) => s
      | (s, true) => (s.traceRing l c (traceBytes ty c (s.core c).seq x y z ph tag pc mask :: extra)).1.modCore c fun k => { k with seq := k.seq + 1 }
  | _, _ => s

end Sys2Proof.Machine
end

