-- ==== Sys2Proof/Machine/Flags.lean ====
section
/-! DEFINITION. The flag words (R89 to R91) and the exception and status codes (R135). -/

namespace Sys2Proof.Machine

open Sys2Proof

/-! ## Flags (R89) -/

/-- The flags that one result raises: invalid, overflow, underflow, inexact, sparse metadata absorbed. -/
structure Fl where
  nv : Bool := false
  of : Bool := false
  uf : Bool := false
  nx : Bool := false
  sm : Bool := false
deriving DecidableEq, Repr

def Fl.none : Fl := ⟨false, false, false, false, false⟩
def Fl.or (a b : Fl) : Fl := ⟨a.nv || b.nv, a.of || b.of, a.uf || b.uf, a.nx || b.nx, a.sm || b.sm⟩
/-- The flag word of R89: NV bit 0, OF 1, UF 2, NX 3, SM 4. -/
def Fl.word (f : Fl) : Word32 :=
  BitVec.ofNat 32 ((if f.nv then 1 else 0) + (if f.of then 2 else 0) + (if f.uf then 4 else 0) + (if f.nx then 8 else 0) +
    (if f.sm then 16 else 0))
def Fl.nvOnly : Fl := { Fl.none with nv := true }
def Fl.all (fs : List Fl) : Fl := fs.foldl Fl.or Fl.none

/-- R91: a flag set whose trap mask bit is 1. -/
def trapped (raised tmask : Word32) : Bool := raised &&& tmask &&& 0x1F != 0

/-! ## Codes (R135) -/

def cIllegalInstr : Nat := 0x01
def cIllegalClause : Nat := 0x02
def cIllegalOperand : Nat := 0x03
def cIllegalConvergence : Nat := 0x04
def cStallCheck : Nat := 0x05
def cAddrFault : Nat := 0x10
def cPermFault : Nat := 0x11
def cAlignFault : Nat := 0x12
def cWindowFault : Nat := 0x13
def cSynonymFault : Nat := 0x14
def cBadTarget : Nat := 0x15
def cChannelSevered : Nat := 0x20
def cMeetTableFull : Nat := 0x21
def cResampleCapacity : Nat := 0x22
def cResampleMismatch : Nat := 0x23
def cResampleAborted : Nat := 0x24
def cSparseMeta : Nat := 0x30
def cFpTrap : Nat := 0x31
def cAbft : Nat := 0x40
def cMemUncorrectable : Nat := 0x41
def cTrap : Nat := 0x50
def cBreakpoint : Nat := 0x51
def cDumpFault : Nat := 0x60
def cCancelled : Nat := 0x70
def cBusy : Nat := 0x71

/-- R383: the exception that a refused fault raises. -/
def causeCode (cause : Nat) : Nat := if cause = 1 then cPermFault else if cause = 2 then cSynonymFault else cAddrFault

end Sys2Proof.Machine
end

