-- ==== Sys2Proof/Machine/Ops.lean ====
section
/-! DEFINITION. The shared operations of the words: taking an exception and returning from one (R423 to R428, R439), freeing a group slot
(R80, R90), the frame in which every word issues (R50 to R52, R113, R126 to R131, R134), and writing results (R127 to R129). -/

namespace Sys2Proof.Machine

open Sys2Proof

/-! ## Taking an exception (R423 to R427) -/

/-- R427: without a valid debug capability the launch halts: its other workgroups hear of it. The first code is the launch's. -/
def State.haltLaunch (s : State) (c u code : Nat) : State :=
  let s := s.modLaunch u fun l => { l with halting := true, code := l.code.orElse fun _ => some (code, c) }
  (s.coresOf u).foldl (fun s d => if d = c then s else s.modCore d fun x => { x with haltMsg := true }) s

/-- A halt that has just begun (R426, R429). -/
def Halt.begin (reason code : Nat) (dumps : Bool) : Halt :=
  { reason := reason, code := code, dumps := dumps, dumpDone := false, slot := none, place := none, stopped := false, nested := 0, dseq := none,
    fva := 0, image := [], noSlot := false }

/-- R444: of an exception in a confidential tenant the host receives the class, the launch and the core. -/
def State.reportClass (s : State) (l : Launch) (c code : Nat) : State :=
  if (s.tenant l.tenant).cfg.conf then s.emit (.faultClass (code / 16) l.lid.toNat c) else s

/-- A halt of the workgroup on a core, now. -/
def State.newHalt (s : State) (c reason code : Nat) (dumps : Bool) : Halt :=
  { Halt.begin reason code dumps with core := c, ms := (s.core c).ms }

/-- R424: the place of an exception among those of one ck: its group slot, and at the workgroup after them; `g` is the slot of the group of a thread. -/
def Exc.key (e : Exc) (g : Nat) : Nat := match e.kind with | 0 => e.slot | 1 => g | _ => Config.groupSlots

/-- R424: an exception of the ck in which the workgroup halted joins the others of that ck in their order; the first of them is the workgroup's. -/
def Wg.joinHalt (w : Wg) (h : Halt) (e : Exc) (k : Nat) : Wg :=
  let n := h.keys.countP fun j => decide (j ≤ k)
  let es := w.excs.take n ++ e :: w.excs.drop n
  let code := (es.headD e).code
  { w with excs := es, halt := some { h with keys := h.keys.take n ++ k :: h.keys.drop n, code := code, first := h.first.map fun f => (code, f.2) } }

/-- R424: an exception is recorded: it begins the halt `h0`, joins the exceptions of its ck, or comes after the halt has begun; `n` is its number. -/
def Wg.recorded (w : Wg) (e : Exc) (k n ck : Nat) (h0 : Halt) : Wg :=
  match w.halt with
  | none => { w with excs := w.excs ++ [e], halt := some { h0 with ck := some ck, keys := [k], first := some (e.code, n) } }
  | some h =>
    if h.ck = some ck then w.joinHalt h e k
    else { w with excs := w.excs ++ [e], halt := some { h with first := h.first.orElse fun _ => some (e.code, n) } }

/-- The code of the workgroup's exception. -/
def Wg.haltCode (w : Wg) : Nat := (w.halt.map (·.code)).getD 0

/-- R424 to R427: the exception is recorded at the workgroup of core `c`; the first one halts the workgroup, and with no valid debug capability the
launch, whose code follows the workgroup's exception. No word of the workgroup issues in a later ck. While the core waits to save the workgroup, the exception is kept
for its image (R428). `mask` holds the executing lanes, for its trace record (R441). -/
def State.raise (s : State) (c : Nat) (e : Exc) (mask : Nat := if e.kind = 2 then 0 else e.aux) : State :=
  match s.wg? c, s.launchOf c with
  | some w, some l =>
    if w.saving && w.halt.isNone then s.modWg c fun w => { w with kept := w.kept ++ [e] }
    else
    let first := w.halt.isNone
    let w' := w.recorded e (e.key s.cur.2) s.nextId (s.core c).ck (s.newHalt c 0 e.code true)
    let s := (s.setWg c (some w')).fresh
    let s := s.traceRecord c 2 e.code e.pc (BitVec.ofNat 64 mask) []
    let s := s.reportClass l c e.code
    if first then (if s.dbgOk l then s else s.haltLaunch c l.uid e.code)
    else s.modLaunch l.uid fun l => if l.code = some (w.haltCode, c) then { l with code := some (w'.haltCode, c) } else l
  | _, _ => s

/-- R425, R434, R441, R444: a machine check at core `c`, of a word at a PC with its lanes, asks the Depot to kill the gang of its workgroup, once. -/
def State.machineCheck (s : State) (c : Nat) (code : Nat) (pc : Word64 := 0) (mask : Nat := 0) : State :=
  match s.wg? c, s.launchOf c with
  | some w, some l =>
    if l.mchecks.any (·.1 == w.gang) || l.killed.any (·.gang == w.gang) then s
    else
      ((s.traceRecord c 2 code pc (BitVec.ofNat 64 mask) []).reportClass l c code).modLaunch l.uid fun l => { l with mchecks := l.mchecks ++ [(w.gang, code)] }
  | _, _ => s

/-- The group's place after a word: the next word, past its literal, or the header that follows the clause (R54, R55). -/
def Group.next (g : Group) (lit : Bool) : Group :=
  let n := g.wix + (if lit then 2 else 1)
  if g.words.length < n then
    { g with hdr := g.hdr + BitVec.ofNat 64 (8 * (g.words.length + 1)), wix := 0, fetched := false, tested := false }
  else { g with wix := n }

/-- The group's place after the word it stands at. -/
def Group.skip (g : Group) : Group := g.next (ownsLiteral (g.words.getD (g.wix - 1) 0).toNat)

/-- R439: a halted workgroup that issues again: every group fetches its clause anew; a group stopped by TRAP goes on at the word after it. -/
def Wg.resumed (w : Wg) : Wg :=
  let trapAt : List Nat := (w.excs.filter fun e => e.code == cTrap).map fun e => e.slot
  { w with
    halt := none
    excs := []
    groups := w.groups.map fun p => (p.1, { (if trapAt.contains p.1 then p.2.skip else p.2) with fetched := false, wait := none }) }

/-- The return from a halt (R439), with the loop buffer flushed. -/
def State.resumeWg (s : State) (c : Nat) : State :=
  (s.modCore c fun x => { x with loop := [], loopStale := false }).modWg c Wg.resumed

/-! ## Group slots (R80, R90) -/

/-- R90: flags into the workgroup flag word. -/
def State.orWgFlags (s : State) (c : Nat) (f : Word32) : State := s.modWg c fun w => { w with flags := w.flags ||| f }

/-- R80: the operations of handles that a freed group slot held run on without it. -/
def State.orphanHandles (s : State) (c uid : Nat) : State :=
  s.modCore c fun x => { x with eng := x.eng.map fun e => if e.uid == uid then { e with freed := true } else e }

/-- R80: the nonzero statuses of the done handles of a freed slot are exceptions at the workgroup. -/
def State.raiseStatuses (s : State) (c : Nat) (g : Group) : State :=
  g.handles.foldl (fun s p =>
    if p.2.done && p.2.status != 0 then s.raise c ⟨p.2.status.toNat, 2, 0, 0, 0⟩ else s) s

/-- R80, R90, R73: the group slot frees. -/
def State.freeGroup (s : State) (c g : Nat) : State :=
  match s.group? c g with
  | none => s
  | some x =>
    let s := s.orWgFlags c x.flags
    let s := s.orphanHandles c x.uid
    let s := s.modWg c fun w => { w with groups := SMap.del w.groups g }
    s.raiseStatuses c x

/-! ## The issuing group -/

/-- What a word knows of its issue. `lanes` are the lanes of the group and their thread slots in ascending order, `ex` those that execute
(R113); `now` is the ck in which the issue begins, `fin` the ck in which it ends (R126); `ctr` is what free values are applied to. -/
structure Ctx where
  c : Nat
  g : Nat
  grp : Group
  wg : Wg
  cr : Core
  l : Launch
  h : Head
  op : Nat
  lit : Lit
  pc : Word64
  now : Nat
  fin : Nat
  lanes : List (Nat × Nat)
  ex : List (Nat × Nat)
  ctr : Nat

def Ctx.r (x : Ctx) : LaunchRec := x.l.rcd

/-- R52: the largest number of lanes of the group that one register bank holds; at least 1. -/
def issueCost (slots : List Nat) : Nat :=
  max 1 ((List.range 64).foldl (fun m b => max m (slots.countP fun s => s % 64 == b)) 0)

/-- The class of an opcode in a clause (R108); CTL words have none of the four. -/
def classOf (op : Nat) : Nat :=
  if op < 0x60 then 0 else if op < 0x80 then 3 else if op < 0xC0 then 1 else if op < 0xE0 then 2 else if op < 0xF0 then 4 else 5

/-- R108: the class of the nearest earlier VEC, MEM, MTX or SYS word of a clause, before word `n` (0 is the first); literal words have none. -/
def classBefore : List Word64 → Nat → Option Nat → Option Nat
  | [], _, acc => acc
  | _, 0, acc => acc
  | [w], _ + 1, acc => if classOf (opcodeOf w.toNat) = 3 then acc else some (classOf (opcodeOf w.toNat))
  | w :: l :: ws, n + 1, acc =>
    let acc' := if classOf (opcodeOf w.toNat) = 3 then acc else some (classOf (opcodeOf w.toNat))
    if ownsLiteral w.toNat then (match n with | 0 => acc' | m + 1 => classBefore ws m acc') else classBefore (l :: ws) n acc'

/-- R108: one ck more in a MIX clause where the class changes. -/
def mixWait (g : Group) (op : Nat) : Nat :=
  if bits g.header.toNat 63 60 == 0xE && classOf op != 3 then
    match classBefore g.words (g.wix - 1) none with
    | none => 0
    | some k => if k = classOf op then 0 else 1
  else 0

/-- R126: the last ck at which a fixed-latency result of the group becomes available. -/
def settleCk (w : Wg) (uid : Nat) : Nat := (w.flights.filter fun f => f.uid == uid && !f.var).foldl (fun m f => max m f.due) 0

/-- R50, R126: the ck in which the group's next word can begin issue, for a word of the vector or the side issue. -/
def beginCk (x : Core) (w : Wg) (g : Group) (op : Nat) : Nat :=
  max (max x.ck (if op < 0x60 then x.vecFree else x.sideFree))
    (max g.notBefore (if g.settle then settleCk w g.uid else 0) + mixWait g op)

/-! ## Reading registers (R129) -/

/-- A number for a place, to apply the choice to. -/
def locKey : Loc → Nat
  | .vec slot r => 8 * (slot * 256 + r)
  | .pred slot p => 8 * (slot * 8 + p) + 1
  | .sca u r => 8 * (u * 64 + r) + 2

/-- R129: one of the values allowed; where they agree there is no choice. -/
def pickFrom (ctr key : Nat) (cur : Word32) (alts : List Word32) : Word32 :=
  if alts.all (· == cur) then cur else (cur :: alts).getD (Config.pick ctr key % (alts.length + 1)) cur

/-- R170: one of the runs of bytes allowed. -/
def pickBytes (ctr key : Nat) (cur : List Byte) (alts : List (List Byte)) : List Byte :=
  if alts.all (· == cur) then cur else (cur :: alts).getD (Config.pick ctr key % (alts.length + 1)) cur

/-- R127, R129: the result of a word is still to come at a ck. -/
def Flight.openAt (f : Flight) (now : Nat) : Bool := (f.var && !f.bounded) || decide (now < f.due)

/-- The value that a word writes, or leaves until it writes, at a place. -/
def Flight.val? (f : Flight) (l : Loc) : Option Word32 := (f.vals.find? (·.1 == l)).map (·.2)
def Flight.alt? (f : Flight) (l : Loc) : Option Word32 := (f.alts.find? (·.1 == l)).map (·.2)

/-- The result at a place that completed last by a ck, of those whose completion (R128) is still to be counted. -/
def Wg.landedAt (w : Wg) (now : Nat) (l : Loc) : Option Word32 :=
  ((w.flights.filter fun f => !f.openAt now && (f.val? l).isSome).foldl
    (fun (m : Option Flight) f => match m with | some g => (if g.due ≤ f.due then some f else some g) | none => some f) none).bind (·.val? l)

/-- R129: the value at a place before the writes still to come: that of the write that completed last. -/
def Wg.baseAt (w : Wg) (now : Nat) (l : Loc) : Word32 :=
  match w.landedAt now l with
  | some v => v
  | none => ((w.flights.find? fun f => f.openAt now && (f.alt? l).isSome).bind (·.alt? l)).getD (w.loc l)

/-- R223: the registers of a loaded value. -/
def extend (b : Nat) (sx : Bool) (v : Nat) : List Word32 :=
  if 4 ≤ b then (List.range (b / 4)).map fun i => BitVec.ofNat 32 (v / 2 ^ (32 * i))
  else [if sx then BitVec.ofNat 32 (wrapInt 32 (signed (8 * b) v)) else BitVec.ofNat 32 (v % 2 ^ (8 * b))]

/-- The register places that one lane of an access writes. -/
def MemOp.locs (o : MemOp) (slot regs : Nat) : List Loc :=
  (List.range regs).map fun i => if o.sca then .sca o.uid (o.data + i) else .vec slot (o.data + i)

/-- What an access will write at a place, where its lane has been performed and so its value is known. -/
def MemOp.known (o : MemOp) (l : Loc) : List Word32 :=
  (o.lanes.filter (·.stat == .performed)).flatMap fun a =>
    let vs := extend o.bytes o.sx a.old
    (((o.locs a.slot vs.length).zip vs).filter (·.1 == l)).map (·.2)

/-- R129: the values that writes still to come produce at a place, as far as they exist: those of words in flight, and those that accesses have
obtained and not yet written (log entry 10). -/
def Wg.comingAt (w : Wg) (now : Nat) (l : Loc) : List Word32 :=
  ((w.flights.filter (·.openAt now)).filterMap (·.val? l)) ++
    (w.pend.filter (·.2 == l)).flatMap fun p => match w.ops.find? (·.id == p.1) with | some o => o.known l | none => []

def Wg.readAt (w : Wg) (now ctr : Nat) (l : Loc) : Word32 := pickFrom ctr (locKey l) (w.baseAt now l) (w.comingAt now l)

/-- A read of a place by a word. -/
def Ctx.read (x : Ctx) (l : Loc) : Word32 := x.wg.readAt x.now x.ctr l

/-- R131: a write to a place is still to come. -/
def Wg.busyAt (w : Wg) (now : Nat) (l : Loc) : Bool :=
  w.pend.any (·.2 == l) || w.flights.any fun f => f.openAt now && f.vals.any (·.1 == l)

/-- R113: the lane executes the word. -/
def executes (w : Wg) (now ctr : Nat) (h : Head) (slot : Nat) : Bool :=
  (if h.pred = 7 then true else w.readAt now ctr (.pred slot h.pred.toNat) != 0) != h.neg

/-- The lanes of a group with their thread slots, in ascending lane order. -/
def lanesOf (g : Group) : List (Nat × Nat) := (List.range g.slots.length).zip g.slots

/-- The address of the group's next word. -/
def Group.pc (g : Group) : Word64 := g.hdr + BitVec.ofNat 64 (8 * g.wix)

/-- R424, R426: words still issue in a ck: the workgroup is not halted, or this is the ck of the exception that halted it. -/
def Wg.issuesAt (w : Wg) (ck : Nat) : Bool := match w.halt with | none => true | some h => h.ck == some ck

/-- The issue of the group that `cur` names, if it can issue a word: the workgroup is resident, not stopped, and not halted in an earlier ck (R424, R426), the group has its
clause, and its next word is not the header. -/
def State.ctx? (s : State) (h : Head) (op : Nat) (lit : Lit) : Option Ctx :=
  match s.wg? s.cur.1, s.launchOf s.cur.1, s.group? s.cur.1 s.cur.2 with
  | some w, some l, some g =>
    let x := s.core s.cur.1
    let now := beginCk x w g op
    if w.issuesAt now && !w.saving && g.fetched && 0 < g.wix then
      let ls := lanesOf g
      some { c := s.cur.1, g := s.cur.2, grp := g, wg := w, cr := x, l := l, h := h, op := op, lit := lit, pc := g.pc, now := now,
             fin := now + issueCost g.slots - 1, lanes := ls, ex := ls.filter fun p => executes w now s.free h p.2, ctr := s.free }
    else none
  | _, _, _ => none

/-- A mask of lanes. -/
def laneMask (ls : List (Nat × Nat)) : Nat := ls.foldl (fun m p => m + 2 ^ p.1) 0

/-! ## The waits of a clause header (R110) -/

/-- R110: every counter that the header names is zero. -/
def Group.countersMet (g : Group) : Bool :=
  (List.range 7).all fun i => bits g.header.toNat (48 + i) (48 + i) == 0 || g.ct (i + 1) == 0

/-- R110: every handle that the header names is done or free. -/
def Group.handlesMet (g : Group) : Bool :=
  (List.range 16).all fun i => bits g.header.toNat (32 + i) (32 + i) == 0 || (match SMap.get? g.handles i with | some h => h.done | none => true)

/-- R54: the group stands at the first word of a clause whose header still waits. -/
def Group.headerWaits (g : Group) : Bool := g.fetched && decide (0 < g.wix) && !g.tested && !(g.countersMet && g.handlesMet)

/-! ## Time (R5, R422) -/

/-- R422: the code of the reason a group waits for. -/
def Wait.reason : Option Wait → Nat
  | none => 0
  | some .clauseMiss => 8
  | some .clauseFault => 10
  | some .counter31 => 0
  | some (.portFull _) => 3
  | some (.portEmpty _) => 2
  | some .masks => 1
  | some (.handle _) => 1
  | some .hwait => 1
  | some .barrier => 5
  | some .planned => 0
  | some .tail => 5
  | some .resample => 5
  | some .fetchReply => 2
  | some .streamFetch => 2
  | some .mwait => 9
  | some .cbP => 3
  | some .cbC => 2
  | some .mtxFull => 3
  | some .q0Drain => 3
  | some .validate => 0
  | some .fence => 9
  | some .logFull => 10
  | some .channel => 9
  | some .reply => 9
  | some .replica => 9

/-- R50, as far as a ck shows it: the groups that are not known to wait, whose stall has elapsed, with a settle code met, and whose header does not wait. -/
def Wg.eligibleAt (w : Wg) (ck : Nat) : Nat :=
  w.groups.countP fun p => p.2.wait.isNone && p.2.holdOp.isNone && !p.2.headerWaits && decide (p.2.notBefore ≤ ck) &&
    (!p.2.settle || decide (settleCk w p.2.uid ≤ ck))

/-- The group that has held its slot longest (R61, R422). -/
def Wg.oldest (w : Wg) : Option (Nat × Group) := minBy (fun a b => decide (a.2.since < b.2.since)) w.groups

/-- R422: a group held by an acquire read: a load that has not come (8), or the reply of an atomic (9). -/
def Wg.replyReason (w : Wg) (g : Group) : Nat :=
  match g.holdOp.bind fun i => w.ops.find? (·.id == i) with
  | some o => if o.aop == .load then 8 else 9
  | none => 9

/-- R422: the reason charged in a ck with no eligible group: that of the oldest resident group, "fence" as replay while the replay queue is not
empty (R234), "meeting hold" when every thread left is held, else "idle"; "Tollgate" at a matrix word while the engine waits for a permit (R347); at a header,
the counters it waits for before the handles. -/
def Wg.stallReason (w : Wg) : Nat :=
  match w.oldest with
  | some p =>
    if p.2.holdOp.isSome then w.replyReason p.2
    else if p.2.headerWaits then (if p.2.countersMet then 1 else 0)
    else if p.2.wait = some .fence ∧ !w.replay.isEmpty then 7
    else if w.mtx.waitsPermit && (p.2.wait == some .mtxFull || p.2.wait == some .q0Drain || p.2.wait == some .validate) then 6
    else Wait.reason p.2.wait
  | none => if w.threads.any (fun t => t.2.stat == .held) then 4 else 11

/-- R422: one ck of the histogram. -/
def Wg.countCk (w : Wg) (ck : Nat) : Wg :=
  let e := min 64 (w.eligibleAt ck)
  let w := { w with hist := SMap.set w.hist e (SMap.getD w.hist e 0 + 1) }
  if e = 0 then { w with reasons := SMap.set w.reasons w.stallReason (SMap.getD w.reasons w.stallReason 0 + 1) } else w

def Wg.countCks (w : Wg) (ck : Nat) : Nat → Wg
  | 0 => w
  | n + 1 => Wg.countCks (w.countCk ck) (ck + 1) n

/-- R178: the count of `%cyc` at a ck. -/
def Core.cycAtCk (x : Core) (ck : Nat) : Word64 :=
  let offs := (x.cycAt.filter fun p => decide (p.1 ≤ ck)).foldl (fun _ p => p.2) x.cyc
  offs + BitVec.ofNat 64 ck

/-- Time passes on a core up to a ck. -/
def State.advanceTo (s : State) (c ck : Nat) : State :=
  s.modCore c fun x =>
    if x.ck < ck then { x with ck := ck, wg := x.wg.map fun w => Wg.countCks w x.ck (ck - x.ck) } else x

/-! ## The frame of a word (R126, R128, R134) -/

/-- What comes of the effect of a word: done; an exception of its own effect, with which nothing happened (a code and the aux of R431); an exception
taken after the results are written (R91); it waits, unissued; it waits and keeps what it has done (R61, R195); it has raised its exception itself. -/
inductive Res where
  | done (s : State)
  | exc (code aux : Nat)
  | after (s : State) (code : Nat)
  | wait (w : Wait)
  | hold (s : State) (w : Wait)
  | raised (s : State)

/-- The word issues: its effect is not put off by a queue, a handle or what a release waits for (R50, R269), nor blocked in a stream (R201). -/
def Res.begins : Res → Bool
  | .wait _ => false
  | .hold _ w => w != .fence && w != .streamFetch
  | .done _ => true
  | .exc _ _ => true
  | .after _ _ => true
  | .raised _ => true

/-- R50: the issue that an opcode takes: the vector issue (0) or the side issue (1). -/
def issueKind (op : Nat) : Nat := if op < 0x60 then 0 else 1

/-- R53: the issues of the workgroup, one of an opcode among them. -/
def Wg.issued (w : Wg) (op : Nat) : SMap Nat := SMap.set w.issues (issueKind op) (SMap.getD w.issues (issueKind op) 0 + 1)

/-- The issue itself: the group goes on to its next word, under the stall field; the issue port is taken (R50, R126). -/
def State.advance (s : State) (x : Ctx) : State :=
  let s := s.advanceTo x.c x.now
  let s := s.modCore x.c fun k =>
    if x.op < 0x60 then { k with vecFree := x.fin + 1 } else { k with sideFree := x.fin + 1 }
  let s := s.modWg x.c fun w => { w with lastIssue := x.now, issues := x.wg.issued x.op }
  let s := s.modGroup x.c x.g fun g =>
    { g.next x.lit.isSome with
      seen := x.wg.issued x.op
      notBefore := x.fin + (if x.h.stall = 15 then 1 else max x.h.stall.toNat 1)
      settle := x.h.stall = 15
      lastIssue := x.now
      wait := none }
  s.draw

/-- R128: the counter that the word names goes up. -/
def State.incCt (s : State) (x : Ctx) : State :=
  if x.h.ct = 0 then s
  else s.modGroup x.c x.g fun g => { g with cts := SMap.set g.cts x.h.ct.toNat (g.ct x.h.ct.toNat + 1) }

/-- R128: a counter goes down when the word completes. -/
def State.decCt (s : State) (c uid ct : Nat) : State :=
  if ct = 0 then s
  else s.modWg c fun w => w.modUid uid fun g => { g with cts := SMap.set g.cts ct (g.ct ct - 1) }

/-- The group waits (R50), as found in this ck, and no issue has passed over it yet (R53); nothing else changes. -/
def State.setWait (s : State) (c g : Nat) (w : Option Wait) : State :=
  s.modGroup c g fun x => { x with wait := w, waitAt := (s.core c).ck, seen := ((s.wg? c).map (·.issues)).getD [] }

/-- R423: a precise exception names the word's PC; the aux field holds the executing lanes but for TRAP (R431). -/
def State.raisePrecise (s : State) (x : Ctx) (code aux : Nat) : State :=
  (s.advanceTo x.c x.now).raise x.c ⟨code, 0, x.g, aux, x.pc⟩ (laneMask x.ex)

/-- R425, R462: a register that a word reads lies in a poisoned unit of a register file. -/
def State.badReg (s : State) (x : Ctx) : Loc → Bool
  | .vec slot r => s.isPoisoned (vregUnitKey x.c slot r) 4
  | .sca u r => u == x.grp.uid && s.isPoisoned (sregUnitKey x.c x.g r) 4
  | .pred _ _ => false

/-- The frame of every word: R134 items 1 (done by the decoder) and 2, the wait of R128, R131 where the word issues, R425 for the registers that it reads (log entry
105), and then the effect; first the wait of R270 for an acquire read. -/
def word (s : State) (h : Head) (op : Nat) (lit : Lit) (illegal : Ctx → Bool) (reads writes : Ctx → List Loc)
    (eff : Ctx → State → Res) : Host.Outcome State Fault Refusal :=
  match s.ctx? h op lit with
  | none => .fault .noIssuer
  | some x =>
    let mask := laneMask x.ex % 2 ^ 32
    if x.grp.holdOp.isSome then .next (s.setWait x.c x.g (some .reply))
    else if illegal x then .next (s.raisePrecise x cIllegalOperand mask)
    else if x.h.ct != 0 && decide (31 ≤ x.grp.ct x.h.ct.toNat) then .next (s.setWait x.c x.g (some .counter31))
    else
      let r := eff x s
      if r.begins && (x.r.chk && !x.ex.isEmpty && ((reads x).any (x.wg.busyAt x.now) || (writes x).any (x.wg.busyAt x.now))) then
        .next (s.raisePrecise x cStallCheck mask)
      else if r.begins && (reads x).any (s.badReg x) then
        .next ((s.advanceTo x.c x.now).machineCheck x.c cMemUncorrectable x.pc (laneMask x.ex))
      else
      match r with
      | .done s' => .next s'
      | .exc code aux => .next (s.raisePrecise x code (if aux = 0 then mask else aux))
      | .after s' code => .next (s'.raise x.c ⟨code, 0, x.g, mask, x.pc⟩ (laneMask x.ex))
      | .wait w => .next (s.setWait x.c x.g (some w))
      | .hold s' w => .next (s'.setWait x.c x.g (some w))
      | .raised s' => .next s'

/-! ## Writing results (R127 to R129) -/

/-- One result of a word that becomes available at `due`: it is written now, and the value before it stays readable until then. A write that completes
later keeps the place (R129). -/
def writeLoc (now due : Nat) (acc : Wg × List (Loc × Word32)) (p : Loc × Word32) : Wg × List (Loc × Word32) :=
  let (w, alts) := acc
  let alts := alts ++ [(p.1, w.baseAt now p.1)]
  if (w.flights.any fun f => !f.var && decide (due < f.due) && (f.val? p.1).isSome) then (w, alts) else (w.setLoc p.1 p.2, alts)

/-- The results of a word of latency `lat`, or of variable latency, and its counter. -/
def State.commit (s : State) (x : Ctx) (lat : Nat) (var : Bool) (ws : List (Loc × Word32)) (bounded : Bool := false) : State :=
  let s := s.incCt x
  let id := s.nextId
  (s.modWg x.c fun w =>
    let (w, alts) := ws.foldl (writeLoc x.now (x.fin + lat)) (w, [])
    { w with flights := w.flights ++ [⟨id, x.fin + lat, var, x.grp.uid, x.h.ct.toNat, alts, ws, bounded⟩] }).fresh

/-- R129: a write to a place completes in a ck: it is the last one there until another completes. -/
def Wg.land (w : Wg) (ck : Nat) (p : Loc × Word32) : Wg :=
  let later (f : Flight) : Flight :=
    if f.openAt ck then { f with alts := f.alts.map fun q => if q.1 == p.1 then p else q } else { f with vals := f.vals.filter (·.1 != p.1) }
  let w := { w with flights := w.flights.map later }
  if w.flights.any fun f => f.openAt ck && (f.val? p.1).isSome then w else w.setLoc p.1 p.2

/-- Flags set in the issuing group's flag word (R89). -/
def State.orFlags (s : State) (x : Ctx) (f : Word32) : State := s.modGroup x.c x.g fun g => { g with flags := g.flags ||| f }

/-- R89, R91: the flags of a word, and FP_TRAP after the results. -/
def finish (x : Ctx) (f : Fl) (s : State) : Res :=
  let s := s.orFlags x f.word
  if trapped f.word x.r.tmask then .after s cFpTrap else .done s

/-- R128: a fixed-latency word completes. -/
def State.completeFlight (s : State) (c id : Nat) : State :=
  match (s.wg? c).bind fun w => w.flights.find? (·.id == id) with
  | none => s
  | some f =>
    let s := if f.var then s else s.advanceTo c f.due
    let at_ := if f.var then (s.core c).ck else f.due
    (s.modWg c fun w => f.vals.foldl (fun w p => w.land at_ p) { w with flights := w.flights.filter (·.id != id) }).decCt c f.uid f.ct

end Sys2Proof.Machine
end

