-- ==== Sys2Proof/Machine/Threads.lean ====
section
/-! DEFINITION. Threads on their way between groups: spawn entries (R56, R57, R130), meetings (R63 to R67), barriers (R194 to R198), the end of a
thread and of a workgroup (R77 to R79). -/

namespace Sys2Proof.Machine

open Sys2Proof

/-! ## Spawn memory (R56, R57) -/

/-- A spawn entry for a thread that goes on at a place. -/
def spawnEntry (t : Thread) (pc : Word64) (wix : Nat) (held : Bool) (ck : Nat) : Spawn :=
  { pc := pc, pred := t.preds, mr := t.mr.setWidth 6, stage := t.stage, held := held, written := ck, aged := 0, wix := wix, first := none, q5 := [] }

/-- A thread leaves its group with a spawn entry. -/
def Wg.spawnThread (w : Wg) (pc : Word64) (wix : Nat) (held : Bool) (ck slot : Nat) : Wg :=
  match SMap.get? w.threads slot with
  | none => w
  | some t =>
    { w with
      spawn := SMap.set w.spawn slot (spawnEntry t pc wix held ck)
      threads := SMap.set w.threads slot { t with stat := if held then .held else .ready } }

def Wg.spawnAll (w : Wg) (pc : Word64) (wix : Nat) (held : Bool) (ck : Nat) (slots : List Nat) : Wg :=
  slots.foldl (fun w t => w.spawnThread pc wix held ck t) w

/-- A group without some of its threads; the lanes close up (R49). -/
def Group.without (g : Group) (slots : List Nat) : Group := { g with slots := g.slots.filter fun t => !slots.contains t }

/-- The group at a clause header (R55). -/
def Group.goto (g : Group) (hdr : Word64) : Group := { g with hdr := hdr, wix := 0, fetched := false, tested := false }

/-- R56: threads leave the group of the issue; a group left with none frees its slot. -/
def State.leave (s : State) (c g : Nat) (slots : List Nat) : State :=
  let s := s.modGroup c g (·.without slots)
  match s.group? c g with
  | some x => if x.slots.isEmpty then s.freeGroup c g else s
  | none => s

/-- R130: a write to a register of the slot is still to be performed. -/
def Wg.slotBusy (w : Wg) (now slot : Nat) : Bool :=
  let at? : Loc → Bool := fun l => match l with
    | .vec t _ => t == slot
    | .pred t _ => t == slot
    | .sca _ _ => false
  (w.pend.any fun p => at? p.2) || w.flights.any fun f => f.openAt now && f.vals.any fun p => at? p.1

/-! ## Meetings (R63 to R67) -/

/-- R63: the record that an mr names. -/
def mrRec (mr : Word32) : Option Nat := if mr.toNat / 32 % 2 = 1 then some (mr.toNat % 32) else none

/-- R66: every thread held at the record becomes ready at the label with mr at root, to be formed ahead of the others. -/
def Wg.releaseRec (w : Wg) (rec n ck : Nat) : Wg :=
  let held := (SMap.keys w.spawn).filter fun t =>
    match SMap.get? w.spawn t, SMap.get? w.threads t with
    | some e, some th => e.held && mrRec th.mr == some rec
    | _, _ => false
  let w := { w with meet := SMap.del w.meet rec }
  held.foldl (fun w t =>
    { w with
      spawn := SMap.modify w.spawn t fun e => { e with held := false, mr := 0, written := ck, aged := 0, first := some n }
      threads := SMap.modify w.threads t fun th => { th with mr := 0, stat := .ready } }) w

/-- R66, R67: every record whose held count has reached its expected count releases. -/
def Wg.settleMeets (w : Wg) (n ck : Nat) : Wg :=
  (SMap.keys w.meet).foldl (fun w r =>
    match SMap.get? w.meet r with
    | some m => if m.expected ≤ m.held then w.releaseRec r n ck else w
    | none => w) w

/-- R67: the expected counts of the record that an mr names and of those that enclose it go down; `fuel` bounds the chain by the table. -/
def Wg.lowerMeets (w : Wg) : Nat → Word32 → Wg
  | 0, _ => w
  | fuel + 1, mr =>
    match mrRec mr with
    | none => w
    | some r =>
      match SMap.get? w.meet r with
      | none => w
      | some m => Wg.lowerMeets { w with meet := SMap.set w.meet r { m with expected := m.expected - 1 } } fuel m.saved

/-- R65: threads of a group about to fetch a clause, held at the record whose label it is. -/
def Wg.meetHeld (w : Wg) (g : Group) : List Nat :=
  g.slots.filter fun t =>
    match (SMap.get? w.threads t).bind fun th => mrRec th.mr with
    | none => false
    | some r => match SMap.get? w.meet r with | some m => m.label == g.hdr | none => false

/-- R65, R192: the held counts go up. -/
def Wg.countHeld (w : Wg) (slots : List Nat) : Wg :=
  slots.foldl (fun w t =>
    match (SMap.get? w.threads t).bind fun th => mrRec th.mr with
    | none => w
    | some r => { w with meet := SMap.modify w.meet r fun m => { m with held := m.held + 1 } }) w

/-! ## Barriers (R194 to R198): 0 the workgroup, 1 to 4 the stages, 5 the gang, 6 the launch -/

def Wg.phase (w : Wg) (b : Nat) : Nat := SMap.getD w.phases b 0

/-- R194: the threads that a barrier of the workgroup counts. -/
def Wg.counted (w : Wg) (b : Nat) : List Thread :=
  (w.threads.map (·.2)).filter fun t => t.live && (b == 0 || 4 < b || t.stage + 1 == b)

/-- R196: every thread counted has arrived in the phase. -/
def phaseFull (ts : List Thread) (b phase : Nat) : Bool := !ts.isEmpty && ts.all fun t => SMap.get? t.arr b == some phase

def Wg.settleBar (w : Wg) (b : Nat) : Wg :=
  if phaseFull (w.counted b) b (w.phase b) then { w with phases := SMap.set w.phases b (w.phase b + 1) } else w

/-- The barriers that complete within the workgroup. -/
def Wg.settleBars (w : Wg) : Wg := [0, 1, 2, 3, 4].foldl Wg.settleBar w

/-- The workgroups of a launch, resident and saved. -/
def State.wgsOf (s : State) (u : Nat) : List Wg :=
  (s.coresOf u).filterMap s.wg? ++ (match s.launch? u with | some l => l.saved.map (·.wg) | none => [])

/-- The phase of the gang barrier (key: the gang) or launch barrier (key 64) at the Plaza. -/
def Launch.plazaPhase (l : Launch) (key : Nat) : Nat := SMap.getD l.plaza key 0

def plazaBar (key : Nat) : Nat := if key = 64 then 6 else 5

/-- The threads that a Plaza barrier counts (R194). -/
def State.plazaThreads (s : State) (u key : Nat) : List Thread :=
  ((s.wgsOf u).filter fun w => key == 64 || w.gang == key).flatMap fun w => w.counted (plazaBar key)

/-- R196, R198: a gang or launch barrier that is complete, at the Plaza. -/
def State.settleKey (s : State) (u key : Nat) : State :=
  match s.launch? u with
  | none => s
  | some l =>
    if phaseFull (s.plazaThreads u key) (plazaBar key) (l.plazaPhase key) then
      s.modLaunch u fun l => { l with plaza := SMap.set l.plaza key (l.plazaPhase key + 1) }
    else s

def State.settlePlaza (s : State) (u : Nat) : State :=
  (dedup ((s.wgsOf u).map fun w : Wg => w.gang) ++ [64]).foldl (fun s k => s.settleKey u k) s

/-- R35, R198: a gang phase, or a launch phase, of the launch is in progress. -/
def State.gangPhaseOn (s : State) (u : Nat) : Bool :=
  (s.wgsOf u).any fun w => (w.counted 5).any fun t => SMap.get? t.arr 5 == some (((s.launch? u).map (·.plazaPhase w.gang)).getD 0)
def State.launchPhaseOn (s : State) (u : Nat) : Bool :=
  (s.wgsOf u).any fun w => (w.counted 6).any fun t => SMap.get? t.arr 6 == some (((s.launch? u).map (·.plazaPhase 64)).getD 0)

/-- R67, R196: what follows when threads have stopped to count: meetings and barriers that are now complete. -/
def State.settle (s : State) (c : Nat) : State :=
  match s.wg? c with
  | none => s
  | some w0 =>
    let n := s.nextId
    let ck := (s.core c).ck
    ((s.modWg c fun w => (w.settleMeets n ck).settleBars).fresh).settlePlaza w0.launch

/-- R196: barriers that threads of a core's workgroup have left, and that count none any more: the counts are equal at 0, and the phase completes. `old` is the workgroup
before. -/
def State.emptied (s : State) (c : Nat) (old : Wg) : State :=
  let left (w : Wg) (b : Nat) : Wg :=
    if (old.counted b).isEmpty || !(w.counted b).isEmpty then w else { w with phases := SMap.set w.phases b (w.phase b + 1) }
  let plaza (s : State) (key : Nat) : State :=
    if (old.counted (plazaBar key)).isEmpty || !(s.plazaThreads old.launch key).isEmpty then s
    else s.modLaunch old.launch fun l => { l with plaza := SMap.set l.plaza key (l.plazaPhase key + 1) }
  [old.gang, 64].foldl plaza (s.modWg c fun w => [0, 1, 2, 3, 4].foldl left w)

/-! ## The end of threads and workgroups (R77 to R79, R202) -/

/-- R77, R202: the thread ends: its slot is free, its lease has ended, its outstanding loads are discarded, its meetings expect one less. -/
def Wg.endThread (w : Wg) (slot : Nat) : Wg :=
  let mr := ((SMap.get? w.threads slot).map (·.mr)).getD 0
  let w := w.lowerMeets Config.meetRecords mr
  { w with
    threads := SMap.del w.threads slot
    spawn := SMap.del w.spawn slot
    inherited := w.inherited.filter (·.2.1 != slot)
    pend := w.pend.filter fun p => match p.2 with
      | .vec t _ => t != slot
      | .pred t _ => t != slot
      | .sca _ _ => true }

/-- R244: the subscriptions of a workgroup end with its retirement; one whose fill is pending ends with its operation, which has no handle left to take a status (log
entry 90). -/
def State.endSubs (s : State) (c : Nat) : State :=
  match s.wg? c with
  | none => s
  | some w =>
    (s.modCore c fun x => { x with eng := x.eng.filter fun e => !(e.launch == w.launch && e.wgno == w.wgno && !e.killed &&
      match e.kind with | .subscribe _ => true | _ => false) }).modWg c fun w => { w with subs := [] }

/-- R78: the workgroup retires: every group slot and spawn entry is free, and its subscriptions end. -/
def State.retire (s : State) (c : Nat) : State :=
  let gs := match s.wg? c with | some w => SMap.keys w.groups | none => []
  let s := gs.foldl (fun s g => s.freeGroup c g) s
  let parked := match s.wg? c with | some w => w.parked | none => []
  let s := parked.foldl (fun s p => ((s.orWgFlags c p.group.flags).orphanHandles c p.group.uid).raiseStatuses c p.group) s
  (s.endSubs c).modWg c fun w =>
    { w with threads := [], spawn := [], meet := [], parked := [], vregs := [], flights := [], pend := [], retired := true }

/-- R78: every thread has ended or waits at TAIL. -/
def Wg.allEnded (w : Wg) : Bool := !w.retired && w.threads.all fun t => t.2.stat == .atTail

/-- R79, R310: the channels of a workgroup with operations outstanding, the bursts and stamps of its copies among them. -/
def State.openChannels (s : State) (w : Wg) : List Nat :=
  dedup (s.cores.flatMap fun p => (p.2.chanOps.filter fun o => o.launch == w.launch && o.wgno == w.wgno).map (·.chan))

/-- R78, R79: the workgroup retires, unless the retirement tracker has too few entries for its channels: the retirement then holds until the excess has drained. -/
def State.checkRetire (s : State) (c : Nat) : State :=
  match s.wg? c with
  | some w => if w.allEnded && decide ((s.openChannels w).length ≤ Config.trackerChannels) then s.retire c else s
  | none => s

/-- Threads of a group end. -/
def State.endThreads (s : State) (c g : Nat) (slots : List Nat) : State :=
  let old := s.wg? c
  let s := s.modWg c fun w => slots.foldl Wg.endThread w
  let s := match old with | some w => s.emptied c w | none => s
  ((s.leave c g slots).settle c).checkRetire c

/-! ## Releases (R269, R270) -/

/-- A lane that is still to be performed. -/
def LaneAcc.isOpen (l : LaneAcc) : Bool :=
  match l.stat with
  | .waiting => true | .retry => true | .logged _ => true | .channelled => true
  | .performed => false | .discarded => false | .refused => false

/-- The accesses that precede a release or an engine operation of threads (R269, R274, R289): the anonymous stream of the workgroup that is not
acknowledged (R277), and the reads of these threads that are not performed. -/
def Wg.before (w : Wg) (slots : List Nat) : List Nat :=
  (w.ops.filter fun o =>
    (o.chan.isNone && !o.acked && o.aop != .load) ||
      ((o.aop == .load) && o.lanes.any fun l => l.isOpen && (o.sca || slots.contains l.slot))).map (·.id)

/-- R269: a release of the issuing group may take effect: the replay queue is empty and what had been issued before it is acknowledged. Otherwise the
group waits, and what it waits for is kept. -/
def releaseGate (x : Ctx) (s : State) (go : State → Res) : Res :=
  let now := x.wg.before x.grp.slots
  let left := (x.grp.awaits.getD now).filter fun i => now.contains i
  if x.wg.replay.isEmpty && left.isEmpty then go (s.modGroup x.c x.g fun g => { g with awaits := none })
  else .hold (s.modGroup x.c x.g fun g => { g with awaits := some left }) .fence

end Sys2Proof.Machine
end

