-- ==== Sys2Proof/Machine/Operands.lean ====
section
/-! DEFINITION. The operand forms: sources and destinations of formats V and S (R120 to R125, R143 to R147), queue ports and handles (R75, R76,
R144), constant banks (R169, R170), and the frame that the words of the vector row share. -/

namespace Sys2Proof.Machine

open Sys2Proof

/-! ## Legal operands (R134 item 2) -/

/-- R124: a register of the allotment; a pair is even and whole. -/
def vecOk (v : Nat) (r : BitVec 8) (n : Nat) : Bool := r.toNat % n == 0 && decide (r.toNat + n ≤ v)
def scaOk (f : BitVec 8) (n : Nat) : Bool := f.toNat % n == 0 && decide (f.toNat + n ≤ 64)

def isHandle (f : BitVec 8) : Bool := 0x40 ≤ f.toNat && f.toNat < 0x50
def isPort (f : BitVec 8) : Bool := 0x50 ≤ f.toNat && f.toNat < 0x58
def handleNo (f : BitVec 8) : Nat := f.toNat - 0x40
def portNo (f : BitVec 8) : Nat := f.toNat - 0x50

/-- R75, R48: ports that can be read by a group of a stage; q4 only by FETCH (R71). -/
def portReadable (stage p : Nat) : Bool := p = 1 || p = 3 || p = 5 || ((p = 6 || p = 7) && 0 < stage)
/-- R75, R48: ports that can be written by a group of a stage of so many. -/
def portWritable (stage stages p : Nat) : Bool := p = 0 || p = 2 || ((p = 6 || p = 7) && stage + 1 < stages)

/-- The type that a word gives an operand: it decides the width and the meaning of a short literal (R122). -/
inductive OTy where
  | i32 | i64 | f32 | f16 | bf16
deriving DecidableEq, Repr

def OTy.wide : OTy → Bool
  | .i64 => true
  | _ => false

def OTy.regs (t : OTy) : Nat := if t.wide then 2 else 1

/-- R120, R124, R145, R76: a source that a word may name. -/
def srcOk (x : Ctx) (ty : OTy) : Src → Bool
  | .vec r => vecOk x.r.v r ty.regs
  | .sca f =>
    if f.toNat < 0x40 then scaOk f ty.regs
    else if isHandle f then !ty.wide && (SMap.get? x.grp.handles (handleNo f)).isSome
    else if isPort f then !ty.wide && portReadable x.grp.stage (portNo f)
    else false
  | .cst _ w => !ty.wide || w.toNat % 2 == 0
  | .short _ => true
  | .long => true

def srcIsVec : Src → Bool
  | .vec _ => true
  | _ => false

/-- The ports that a source names. -/
def srcPort : Src → Option Nat
  | .sca f => if isPort f then some (portNo f) else none
  | _ => none

def srcHandle : Src → Option Nat
  | .sca f => if isHandle f then some (handleNo f) else none
  | _ => none

def dstPort (d : Dst) : Option Nat := if d.sca && isPort d.f then some (portNo d.f) else none

/-- R75: a port named twice. -/
def twice : List Nat → Bool
  | [] => false
  | p :: ps => ps.contains p || twice ps

def portsOf (d : Option Dst) (srcs : List Src) : List Nat := (d.bind dstPort).toList ++ srcs.filterMap srcPort

/-- R121: a register destination of a word, vector or scalar, of one register or a pair, or a write port. -/
def dstOk (x : Ctx) (n : Nat) (d : Dst) : Bool :=
  if d.sca then
    if d.f.toNat < 0x40 then scaOk d.f n
    else n == 1 && isPort d.f && portWritable x.grp.stage x.r.stages (portNo d.f)
  else vecOk x.r.v d.f n

/-- R147: a predicate destination. -/
def predOk (d : Dst) : Bool := !d.sca && d.f.toNat < 8

/-! ## Values of sources -/

/-- R122: a short literal by the type of its operand: an integer, or that integer converted exactly. -/
def f32OfInt (v : Int) : Word32 :=
  if v = 0 then 0
  else
    let m := v.natAbs
    let e := Nat.log2 m
    BitVec.ofNat 32 ((if v < 0 then 2 ^ 31 else 0) + (e + 127) * 2 ^ 23 + (m * 2 ^ (23 - e)) % 2 ^ 23)

def f16OfInt (v : Int) : Nat :=
  if v = 0 then 0
  else
    let m := v.natAbs
    let e := Nat.log2 m
    (if v < 0 then 2 ^ 15 else 0) + (e + 15) * 2 ^ 10 + (m * 2 ^ (10 - e)) % 2 ^ 10

def bf16OfInt (v : Int) : Nat :=
  if v = 0 then 0
  else
    let m := v.natAbs
    let e := Nat.log2 m
    (if v < 0 then 2 ^ 15 else 0) + (e + 127) * 2 ^ 7 + (m * 2 ^ (7 - e)) % 2 ^ 7

def shortValue (ty : OTy) (v : BitVec 8) : Word64 :=
  match ty with
  | .i32 => BitVec.ofNat 64 (v.signExtend 32).toNat
  | .i64 => v.signExtend 64
  | .f32 => BitVec.ofNat 64 (f32OfInt v.toInt).toNat
  | .f16 => BitVec.ofNat 64 (f16OfInt v.toInt * 65537)
  | .bf16 => BitVec.ofNat 64 (bf16OfInt v.toInt * 65537)

def longValue (ty : OTy) (l : Lit) : Word64 :=
  let b := l.getD 0
  if ty.wide then b.signExtend 64 else BitVec.ofNat 64 b.toNat

/-- R170, R226: the bytes of `n / 4` words of a constant bank from an index on, which one write gave them: what they held at launch start, at the place that their page
had then, or what has been written to them since. Of a page that was not mapped at launch start the manual gives no value: its words are free values, one for the
launch, or what the page that is mapped since holds (log entry 10). -/
def bankUnit (s : State) (l : Launch) (asid ctr bank ix n : Nat) : List Byte :=
  let va := (l.rcd.cbp.getD bank 0).toNat + 4 * ix
  let held (k : Nat) (log : List (Nat × List Byte)) : List (List Byte) := pastValues k (Mem.readBytes s.mem k n) log
  let key := 2 ^ 40 + bank * 2 ^ 34 + ix
  let now := s.placeOf asid va needPlace
  match l.bankStart va with
  | some b =>
    let start := (held b l.undo).getLastD []
    pickBytes ctr key start (match now with | .ok k => (held k (l.bankWrites va)).filter fun v => k != b || v != start | .error _ => [])
  | none =>
    let free := (List.range (n / 4)).flatMap fun i => natToBytes 4 (Config.early l.uid (key + i)).toNat
    pickBytes ctr key free (match now with | .ok k => [Mem.readBytes s.mem k n] | .error _ => [])

/-- R169, R170: a word of a constant bank: 0 beyond its length. -/
def bankWord (s : State) (l : Launch) (asid ctr bank ix : Nat) : Word32 :=
  if l.rcd.cbl.getD bank 0 ≤ 4 * ix then 0 else BitVec.ofNat 32 (bytesToNat (bankUnit s l asid ctr bank ix 4))

/-- R217, R226, R170: bytes of a constant bank as its window reads them, from a virtual address of the bank on: an access of `n` bytes takes each aligned unit of up to eight
from one write. -/
def bankRun (s : State) (l : Launch) (asid ctr bank va n : Nat) : List Byte :=
  let off := va - (l.rcd.cbp.getD bank 0).toNat
  let unit := if n % 8 = 0 ∧ off % 8 = 0 then 8 else 4
  (List.range n).map fun i => (bankUnit s l asid ctr bank ((off + i) / unit * (unit / 4)) unit).getD ((off + i) % unit) 0

/-- The two registers of a pair. -/
def pairOf (lo hi : Word32) : Word64 := BitVec.ofNat 64 (lo.toNat + 2 ^ 32 * hi.toNat)

/-- The head of a readable port: its own port, or the stage queue that comes from the stage below (R48). -/
def portQueue (w : Wg) (g : Group) (p : Nat) : List Word32 :=
  if p = 6 ∨ p = 7 then SMap.getD w.stageQ (2 * (g.stage - 1) + (p - 6)) [] else g.port p

/-- The queue that a write port pushes to. -/
def portTarget (w : Wg) (g : Group) (p : Nat) : List Word32 :=
  if p = 6 ∨ p = 7 then SMap.getD w.stageQ (2 * g.stage + (p - 6)) [] else g.port p

/-- The value of a source in the thread slot of a lane (R120). -/
def srcVal (s : State) (x : Ctx) (ty : OTy) (slot : Nat) : Src → Word64
  | .vec r =>
    if ty.wide then pairOf (x.read (.vec slot r.toNat)) (x.read (.vec slot (r.toNat + 1)))
    else BitVec.ofNat 64 (x.read (.vec slot r.toNat)).toNat
  | .sca f =>
    if f.toNat < 0x40 then
      if ty.wide then pairOf (x.read (.sca x.grp.uid f.toNat)) (x.read (.sca x.grp.uid (f.toNat + 1)))
      else BitVec.ofNat 64 (x.read (.sca x.grp.uid f.toNat)).toNat
    else if isHandle f then
      match SMap.get? x.grp.handles (handleNo f) with
      | some hd => BitVec.ofNat 64 hd.status.toNat
      | none => 0
    else BitVec.ofNat 64 ((portQueue x.wg x.grp (portNo f)).headD 0).toNat
  | .cst b w =>
    let lo := bankWord s x.l (s.tenantOf x.c |> fun t => (s.tenant t).cfg.asid) x.ctr b.toNat w.toNat
    if ty.wide then
      pairOf lo (bankWord s x.l (s.tenantOf x.c |> fun t => (s.tenant t).cfg.asid) x.ctr b.toNat (w.toNat + 1))
    else BitVec.ofNat 64 lo.toNat
  | .short v => shortValue ty v
  | .long => longValue ty x.lit

/-- The places a source reads in the executing lanes (R131). -/
def srcLocs (x : Ctx) (ty : OTy) : Src → List Loc
  | .vec r => x.ex.flatMap fun p => (List.range ty.regs).map fun i => .vec p.2 (r.toNat + i)
  | .sca f => if f.toNat < 0x40 then (List.range ty.regs).map fun i => .sca x.grp.uid (f.toNat + i) else []
  | _ => []

/-- R113, R131: the predicate of a word is read too, in the executing lanes. -/
def headLocs (x : Ctx) : List Loc := if x.h.pred = 7 then [] else x.ex.map fun p => .pred p.2 x.h.pred.toNat

/-- The places a destination of `n` registers writes. -/
def dstLocs (x : Ctx) (n : Nat) (d : Dst) : List Loc :=
  if d.sca then (if d.f.toNat < 0x40 then (List.range n).map fun i => .sca x.grp.uid (d.f.toNat + i) else [])
  else x.ex.flatMap fun p => (List.range n).map fun i => .vec p.2 (d.f.toNat + i)

/-! ## Waiting, popping and freeing (R75, R76, R144) -/

/-- R268, R269: a push of q6 or q7 is a release, which takes effect once it is performed. -/
def pushHeld (x : Ctx) (p : Nat) : Bool := decide (6 ≤ p) && !(x.wg.replay.isEmpty && (x.wg.before x.grp.slots).isEmpty)

/-- What a word that executes waits for: a pending handle, an empty port, a full port, and the release that a push of q6 or q7 is. -/
def operandWait (x : Ctx) (d : Option Dst) (srcs : List Src) : Option Wait :=
  if x.ex.isEmpty then none
  else
    match srcs.find? fun o => match srcHandle o with
      | some n => match SMap.get? x.grp.handles n with | some hd => !hd.done | none => false
      | none => false with
    | some o => some (.handle ((srcHandle o).getD 0))
    | none =>
      match (srcs.filterMap srcPort).find? fun p => (portQueue x.wg x.grp p).isEmpty with
      | some p => some (.portEmpty p)
      | none =>
        match d.bind dstPort with
        | some p => if 4 ≤ (portTarget x.wg x.grp p).length then some (.portFull p) else if pushHeld x p then some .fence else none
        | none => none

/-- Pops a port (R75); a pop of q3 is the join of its copy (R254, R275). -/
def State.popPort (s : State) (c g p : Nat) : State :=
  s.modWg c fun w =>
    match w.group? g with
    | none => w
    | some x =>
      if p = 6 ∨ p = 7 then
        let k := 2 * (x.stage - 1) + (p - 6)
        { w with stageQ := SMap.set w.stageQ k ((SMap.getD w.stageQ k []).drop 1) }
      else
        w.setGroup g { x with
          ports := SMap.set x.ports p ((x.port p).drop 1)
          q2Gens := if p = 2 then x.q2Gens.drop 1 else x.q2Gens
          q2Started := if p = 3 then x.q2Started - 1 else x.q2Started }

/-- Pushes to a port (R48, R75); a command for the copy engine keeps the %ms of the word (R393). -/
def State.pushPort (s : State) (c g p : Nat) (v : Word32) : State :=
  s.modWg c fun w =>
    match w.group? g with
    | none => w
    | some x =>
      if p = 6 ∨ p = 7 then
        let k := 2 * x.stage + (p - 6)
        { w with stageQ := SMap.set w.stageQ k (SMap.getD w.stageQ k [] ++ [v]) }
      else w.setGroup g { x with ports := SMap.set x.ports p (x.port p ++ [v]), q2Gens := if p = 2 then x.q2Gens ++ [(s.core c).ms] else x.q2Gens }

/-- R275, R282: the join of an operation drops from the core's L1 the lines that it wrote: the model drops every line of translated memory,
as an acquire does (log entry 21). -/
def State.joinDrop (s : State) (c : Nat) : State := s.modCore c (·.l1Acquire)

/-- Frees a handle (R76). -/
def State.freeHandle (s : State) (c g n : Nat) : State := s.modGroup c g fun x => { x with handles := SMap.del x.handles n }

/-- A source taken: its handle freed, its port popped. -/
def State.takeSrc (s : State) (x : Ctx) (o : Src) : State :=
  match srcHandle o with
  | some n => (s.freeHandle x.c x.g n).joinDrop x.c
  | none =>
    match srcPort o with
    | some p => if p = 3 then (s.popPort x.c x.g p).joinDrop x.c else s.popPort x.c x.g p
    | none => s

/-- R144: the ports and handles that a word named are popped and freed when a lane executes. -/
def State.consume (s : State) (x : Ctx) (srcs : List Src) : State :=
  if x.ex.isEmpty then s else srcs.foldl (fun s o => s.takeSrc x o) s

/-- A word with such a source has variable latency (R168). -/
def isVariable (srcs : List Src) : Bool := srcs.any fun o => (srcHandle o).isSome || (srcPort o).isSome

/-! ## The frame of the vector row (R142 to R145) -/

/-- The registers of a result of one or two. -/
def splitWide (n : Nat) (v : Word64) : List Word32 :=
  if n = 2 then [BitVec.ofNat 32 v.toNat, BitVec.ofNat 32 (v.toNat / 2 ^ 32)] else [BitVec.ofNat 32 v.toNat]

/-- The results of a destination: each executing lane's, or once for the group (R121, R143). -/
def dstWrites (x : Ctx) (n : Nat) (d : Dst) (f : Nat → Word64) : List (Loc × Word32) :=
  if d.sca then
    if x.ex.isEmpty then []
    else (List.range n).zip (splitWide n (f 0)) |>.map fun p => (.sca x.grp.uid (d.f.toNat + p.1), p.2)
  else x.ex.flatMap fun l => (List.range n).zip (splitWide n (f l.2)) |>.map fun p => (.vec l.2 (d.f.toNat + p.1), p.2)

/-- The thread slots for which a word computes: the executing lanes, or one for a scalar destination (R143). -/
def workSlots (x : Ctx) (d : Dst) : List Nat := if d.sca then (x.ex.map (·.2)).take 1 else x.ex.map (·.2)

/-- What the vector row shares: sources with their types, one destination of `n` registers, the latency of R127, and the result and flags of
one lane from its source values. -/
structure Alu where
  n : Nat := 1
  tys : List OTy
  lat : Nat
  vectorOnly : Bool := false
  f : List Word64 → Word64 × Fl

/-- R120 to R125, R143: an operand of the word is illegal. -/
def aluIllegal (x : Ctx) (k : Alu) (d : Dst) (srcs : List Src) : Bool :=
  !dstOk x k.n d || (k.vectorOnly && d.sca) || (d.sca && srcs.any srcIsVec) ||
    !((k.tys.zip srcs).all fun p => srcOk x p.1 p.2) || twice (portsOf (some d) srcs)

def aluReads (x : Ctx) (k : Alu) (srcs : List Src) : List Loc :=
  headLocs x ++ (k.tys.zip srcs).flatMap fun p => srcLocs x p.1 p.2

/-- The result of one lane. -/
def aluVal (s : State) (x : Ctx) (k : Alu) (srcs : List Src) (slot : Nat) : Word64 × Fl :=
  k.f ((k.tys.zip srcs).map fun p => srcVal s x p.1 slot p.2)

def aluEff (k : Alu) (d : Dst) (srcs : List Src) (x : Ctx) (s : State) : Res :=
  match operandWait x (some d) srcs with
  | some w => .wait w
  | none =>
    let fl := Fl.all ((workSlots x d).map fun t => (aluVal s x k srcs t).2)
    let s' := ((s.advance x).consume x srcs)
    match dstPort d with
    | some p =>
      let s' := (if x.ex.isEmpty then s' else s'.pushPort x.c x.g p (BitVec.ofNat 32 (aluVal s x k srcs 0).1.toNat))
      finish x fl (s'.commit x k.lat (isVariable srcs) [])
    | none =>
      let slot0 := ((x.ex.map (·.2)).headD 0)
      let ws := dstWrites x k.n d fun t => (aluVal s x k srcs (if d.sca then slot0 else t)).1
      finish x fl (s'.commit x k.lat (isVariable srcs) ws)

/-- A word of the vector row that computes one result from its sources. -/
def alu (s : State) (h : Head) (op : Nat) (lit : Lit) (k : Alu) (d : Dst) (srcs : List Src) :
    Host.Outcome State Fault Refusal :=
  word s h op lit (fun x => aluIllegal x k d srcs) (fun x => aluReads x k srcs) (fun x => dstLocs x k.n d) (aluEff k d srcs)

/-- The same with a result that depends on the issue, checks of its own and further places that it reads. -/
def aluGen (s : State) (h : Head) (op : Nat) (lit : Lit) (k : Ctx → Alu) (illegal : Ctx → Bool) (more : Ctx → List Loc) (d : Dst)
    (srcs : List Src) : Host.Outcome State Fault Refusal :=
  word s h op lit illegal (fun x => aluReads x (k x) srcs ++ more x) (fun x => dstLocs x (k x).n d) fun x s => aluEff (k x) d srcs x s

/-- A word of the vector row that is vector only or writes predicates: what each executing lane writes, and its flags. -/
structure Lanes where
  srcs : List (OTy × Src)
  lat : Nat
  illegal : Ctx → Bool
  reads : Ctx → List Loc
  writes : Ctx → List Loc
  f : State → Ctx → Nat × Nat → List (Loc × Word32) × Fl

def lanesIllegal (x : Ctx) (k : Lanes) : Bool :=
  k.illegal x || !(k.srcs.all fun p => srcOk x p.1 p.2) || twice (portsOf none (k.srcs.map (·.2)))

def lanesReads (x : Ctx) (k : Lanes) : List Loc := headLocs x ++ k.reads x ++ k.srcs.flatMap fun p => srcLocs x p.1 p.2

def lanesEff (k : Lanes) (x : Ctx) (s : State) : Res :=
  match operandWait x none (k.srcs.map (·.2)) with
  | some w => .wait w
  | none =>
    let rs := x.ex.map fun l => k.f s x l
    finish x (Fl.all (rs.map (·.2)))
      (((s.advance x).consume x (k.srcs.map (·.2))).commit x k.lat (isVariable (k.srcs.map (·.2))) (rs.flatMap (·.1)))

/-- A word whose executing lanes each write what `k.f` gives. -/
def laneWord (s : State) (h : Head) (op : Nat) (lit : Lit) (k : Lanes) : Host.Outcome State Fault Refusal :=
  word s h op lit (fun x => lanesIllegal x k) (fun x => lanesReads x k) (fun x => k.writes x) (lanesEff k)

/-- A predicate value as a place's value. -/
def b32 (b : Bool) : Word32 := if b then 1 else 0

/-- R147: a predicate operand in a thread slot; 7 is pt. -/
def predVal (x : Ctx) (slot : Nat) (p : BitVec 3) : Bool := if p = 7 then true else x.read (.pred slot p.toNat) != 0

/-- A result with no flag. -/
def noFl (v : Word64) : Word64 × Fl := (v, Fl.none)
def noFl32 (v : Word32) : Word64 × Fl := (BitVec.ofNat 64 v.toNat, Fl.none)

/-- The 32 bits of a value. -/
def lo32 (v : Word64) : Word32 := BitVec.ofNat 32 v.toNat

end Sys2Proof.Machine
end

