-- ==== Sys2Proof/Machine/SoftFloat.lean ====
section
/-! DEFINITION. Floating-point values, exactly: the element formats (R82 to R84), rounding and its flags (R85, R86), conversion into a format
(R87) and into an integer (R88), and the arithmetic on exact values that R12 speaks of. -/

namespace Sys2Proof.Machine

open Sys2Proof

/-- R82: an element format: exponent bits, fraction bits, bias, infinities, and NaN codes. -/
structure FFmt where
  eb : Nat
  fb : Nat
  bias : Nat
  inf : Bool
  /-- 0: none; 1: IEEE; 2: the one code of .e4m3. -/
  nan : Nat
deriving DecidableEq, Repr

def F32 : FFmt := ⟨8, 23, 127, true, 1⟩
def F16 : FFmt := ⟨5, 10, 15, true, 1⟩
def BF16 : FFmt := ⟨8, 7, 127, true, 1⟩
def E4M3 : FFmt := ⟨4, 3, 7, false, 2⟩
def E5M2 : FFmt := ⟨5, 2, 15, true, 1⟩
def F6E3 : FFmt := ⟨3, 2, 3, false, 0⟩
def F6E2 : FFmt := ⟨2, 3, 1, false, 0⟩
def F4 : FFmt := ⟨2, 1, 1, false, 0⟩

def FFmt.bits (f : FFmt) : Nat := 1 + f.eb + f.fb
def FFmt.emax (f : FFmt) : Nat := 2 ^ f.eb - 1

/-- R96: the element format of a slot's fmt field 0 to 7. -/
def fmtOfCode (n : Nat) : FFmt :=
  match n with
  | 0 => F32 | 1 => F16 | 2 => BF16 | 3 => E4M3 | 4 => E5M2 | 5 => F6E3 | 6 => F6E2 | _ => F4

/-- A value: NaN (signalling or not), an infinity with its sign, or an exact (-1)^neg * m * 2^e. -/
inductive FV where
  | nan (sig : Bool)
  | inf (neg : Bool)
  | fin (neg : Bool) (m : Nat) (e : Int)
deriving DecidableEq, Repr

/-- R83: decoding. -/
def FFmt.decode (f : FFmt) (w : Nat) : FV :=
  let neg := w / 2 ^ (f.eb + f.fb) % 2 == 1
  let e := w / 2 ^ f.fb % 2 ^ f.eb
  let fr := w % 2 ^ f.fb
  if e = 0 then .fin neg fr (1 - Int.ofNat f.bias - Int.ofNat f.fb)
  else if e = f.emax ∧ f.nan = 1 then (if fr = 0 then .inf neg else .nan (fr / 2 ^ (f.fb - 1) == 0))
  else if e = f.emax ∧ f.nan = 2 ∧ fr = 2 ^ f.fb - 1 then .nan false
  else .fin neg (2 ^ f.fb + fr) (Int.ofNat e - Int.ofNat f.bias - Int.ofNat f.fb)

/-- R84: the canonical NaN. -/
def FFmt.canon (f : FFmt) : Nat :=
  if f.nan = 2 then 2 ^ (f.eb + f.fb) - 1 else f.emax * 2 ^ f.fb + 2 ^ (f.fb - 1)

def FFmt.signBit (f : FFmt) (neg : Bool) : Nat := if neg then 2 ^ (f.eb + f.fb) else 0
def FFmt.infBits (f : FFmt) (neg : Bool) : Nat := f.signBit neg + f.emax * 2 ^ f.fb

/-- R82: the largest normal as a code without sign. -/
def FFmt.maxCode (f : FFmt) : Nat :=
  if f.nan = 1 then f.emax * 2 ^ f.fb - 1 else if f.nan = 2 then 2 ^ (f.eb + f.fb) - 2 else 2 ^ (f.eb + f.fb) - 1
def FFmt.maxBits (f : FFmt) (neg : Bool) : Nat := f.signBit neg + f.maxCode

/-- The exponent of the unit in the last place of subnormals. -/
def FFmt.lsbMin (f : FFmt) : Int := 1 - Int.ofNat f.bias - Int.ofNat f.fb

/-- m * 2^k for an integer k, exact downwards: quotient and whether a remainder is lost. -/
def scaleNat (m : Nat) (k : Int) : Nat × Bool :=
  if 0 ≤ k then (m * 2 ^ k.toNat, false) else (m / 2 ^ (-k).toNat, m % 2 ^ (-k).toNat != 0)

/-- R85: rounding of (m + part) / 2^k to an integer, where `sticky` says that 0 < part < 1; the result and whether it is inexact. -/
def roundShift (mode : Rnd) (neg : Bool) (m : Nat) (sticky : Bool) (k : Nat) : Nat × Bool :=
  let q := m / 2 ^ k
  let r := m % 2 ^ k
  let inexact := r != 0 || sticky
  let up :=
    match mode with
    | .rne => k ≠ 0 && (2 ^ k < 2 * r || (2 * r = 2 ^ k && (sticky || q % 2 = 1)))
    | .rz => false
    | .rd => neg && inexact
    | .ru => !neg && inexact
  (if up then q + 1 else q, inexact)

/-- R86: rounding to a format's precision, exponent unbounded above: the mantissa, the exponent of its unit, and the flags NX and UF. A value with
`sticky` has more bits than the format keeps. -/
def FFmt.round (f : FFmt) (mode : Rnd) (neg : Bool) (m : Nat) (e : Int) (sticky : Bool) : Nat × Int × Fl :=
  if m = 0 ∧ !sticky then (0, f.lsbMin, Fl.none)
  else
    let top : Int := Int.ofNat (Nat.log2 m) + e
    let lsb := max (top - Int.ofNat f.fb) f.lsbMin
    let tiny := top < f.lsbMin + Int.ofNat f.fb
    if lsb ≤ e then
      let q := m * 2 ^ (e - lsb).toNat
      let (q, nx) := roundShift mode neg (q * 4) sticky 2
      (q, lsb, { Fl.none with nx := nx, uf := nx && tiny })
    else
      let (q, nx) := roundShift mode neg m sticky (lsb - e).toNat
      (q, lsb, { Fl.none with nx := nx, uf := nx && tiny })

/-- The code of a rounded magnitude that does not pass the largest normal. -/
def FFmt.encodeMag (f : FFmt) (m : Nat) (lsb : Int) : Nat :=
  if m < 2 ^ f.fb then m
  else if m < 2 ^ (f.fb + 1) then ((lsb - f.lsbMin).toNat + 1) * 2 ^ f.fb + (m - 2 ^ f.fb)
  else ((lsb - f.lsbMin).toNat + 2) * 2 ^ f.fb

/-- R87: rounding into a format with overflow judged on the rounded value. -/
def FFmt.ofExact (f : FFmt) (mode : Rnd) (neg : Bool) (m : Nat) (e : Int) (sticky : Bool) : Nat × Fl :=
  let (q, lsb, fl) := f.round mode neg m e sticky
  let code := f.encodeMag q lsb
  if f.maxCode < code then
    let fl := { fl with of := true, nx := true }
    if f.inf && (mode == .rne || (mode == .rd && neg) || (mode == .ru && !neg)) then (f.infBits neg, fl) else (f.maxBits neg, fl)
  else (f.signBit neg + code, fl)

/-- R87: convert(). -/
def FFmt.convert (f : FFmt) (mode : Rnd) (saturate : Bool) (x : FV) : Nat × Fl :=
  match x with
  | .nan sig =>
    if f.nan ≠ 0 then (f.canon, { Fl.none with nv := sig })
    else (if saturate then f.maxCode else 0, Fl.nvOnly)
  | .inf neg => if f.inf then (f.infBits neg, Fl.none) else (f.maxBits neg, { Fl.none with of := true })
  | .fin neg m e => f.ofExact mode neg m e false

/-- R88: conv_int() into an n-bit type. -/
def convInt (n : Nat) (u : Bool) (mode : Rnd) (x : FV) : Int × Fl :=
  let hi : Int := if u then Int.ofNat (2 ^ n) - 1 else Int.ofNat (2 ^ (n - 1)) - 1
  let lo : Int := if u then 0 else -Int.ofNat (2 ^ (n - 1))
  match x with
  | .nan _ => (0, Fl.nvOnly)
  | .inf neg => (if neg then lo else hi, Fl.nvOnly)
  | .fin neg m e =>
    let (q, nx) := if 0 ≤ e then (m * 2 ^ e.toNat, false) else roundShift mode neg m false (-e).toNat
    let y : Int := if neg then -Int.ofNat q else Int.ofNat q
    if hi < y then (hi, Fl.nvOnly) else if y < lo then (lo, Fl.nvOnly) else (y, { Fl.none with nx := nx })

/-- The exact value of an integer (R88). -/
def fvOfInt (v : Int) : FV := .fin (decide (v < 0)) v.natAbs 0

def FV.isNan : FV → Bool
  | .nan _ => true
  | _ => false
def FV.isSig : FV → Bool
  | .nan true => true
  | _ => false
def FV.isInf : FV → Bool
  | .inf _ => true
  | _ => false
def FV.isZero : FV → Bool
  | .fin _ 0 _ => true
  | _ => false
def FV.neg? : FV → Bool
  | .nan _ => false
  | .inf n => n
  | .fin n _ _ => n
def FV.negate : FV → FV
  | .nan s => .nan s
  | .inf n => .inf (!n)
  | .fin n m e => .fin (!n) m e

/-- The signed integer that a finite value is of 2^e. -/
def signedAt (neg : Bool) (m : Nat) (e base : Int) : Int :=
  let v := Int.ofNat (m * 2 ^ (e - base).toNat)
  if neg then -v else v

/-- R84, R86: the sum of two values in a format and mode. -/
def FFmt.add (f : FFmt) (mode : Rnd) (x y : FV) : Nat × Fl :=
  if x.isNan || y.isNan then (f.canon, { Fl.none with nv := x.isSig || y.isSig })
  else
    match x, y with
    | .inf a, .inf b => if a = b then (f.infBits a, Fl.none) else (f.canon, Fl.nvOnly)
    | .inf a, _ => (f.infBits a, Fl.none)
    | _, .inf b => (f.infBits b, Fl.none)
    | .fin a m e, .fin b n g =>
      let base := min e g
      let t := signedAt a m e base + signedAt b n g base
      if t = 0 then
        (f.signBit (if m = 0 ∧ n = 0 ∧ a = b then a else mode == .rd), Fl.none)
      else f.ofExact mode (decide (t < 0)) t.natAbs base false
    | _, _ => (f.canon, Fl.none)

/-- R84, R86: the exact product of two values; the flag is the NV of 0 x infinity or of a signalling operand. -/
def mulExact (x y : FV) : FV × Bool :=
  if x.isNan || y.isNan then (.nan false, x.isSig || y.isSig)
  else if (x.isInf && y.isZero) || (x.isZero && y.isInf) then (.nan false, true)
  else
    match x, y with
    | .fin a m e, .fin b n g => (.fin (a != b) (m * n) (e + g), false)
    | _, _ => (.inf (x.neg? != y.neg?), false)

def FFmt.mul (f : FFmt) (mode : Rnd) (x y : FV) : Nat × Fl :=
  match mulExact x y with
  | (.nan _, nv) => (f.canon, { Fl.none with nv := nv })
  | (.inf n, _) => (f.infBits n, Fl.none)
  | (.fin n m e, _) => f.ofExact mode n m e false

/-- R154: x * y + z with one rounding; a product 0 x infinity sets NV whatever z is. -/
def FFmt.fma (f : FFmt) (mode : Rnd) (x y z : FV) : Nat × Fl :=
  match mulExact x y with
  | (.nan _, nv) => (f.canon, { Fl.none with nv := nv || z.isSig })
  | (p, _) => f.add mode p z

/-- A comparison of two values that are no NaN; -0 and +0 are equal. -/
def fvLt (x y : FV) : Bool :=
  match x, y with
  | .inf a, .inf b => a && !b
  | .inf a, _ => a
  | _, .inf b => !b
  | .fin a m e, .fin b n g => decide (signedAt a m e (min e g) < signedAt b n g (min e g))
  | _, _ => false

/-- R155: the smaller or larger of two operands, -0 below +0; the code chosen is returned unrounded. -/
def FFmt.minMax (f : FFmt) (larger : Bool) (a b : Nat) : Nat × Fl :=
  let x := f.decode a
  let y := f.decode b
  let nv := { Fl.none with nv := x.isSig || y.isSig }
  if x.isNan && y.isNan then (f.canon, nv)
  else if x.isNan then (b, nv)
  else if y.isNan then (a, nv)
  else
    let lt := fvLt x y || (x.isZero && y.isZero && x.neg? && !y.neg?)
    ((if lt != larger then a else b), nv)

/-- R154: FRND, a value rounded to an integral value of the format. -/
def FFmt.integral (f : FFmt) (mode : Rnd) (x : FV) : Nat × Fl :=
  match x with
  | .nan s => (f.canon, { Fl.none with nv := s })
  | .inf n => (f.infBits n, Fl.none)
  | .fin n m e =>
    let (q, nx) := if 0 ≤ e then (m * 2 ^ e.toNat, false) else roundShift mode n m false (-e).toNat
    ((f.ofExact mode n q 0 false).1, { Fl.none with nx := nx })

/-- R333: a division with one rounding to nearest even; a finite nonzero value over zero is an infinity without a flag. -/
def FFmt.div (f : FFmt) (x y : FV) : Nat × Fl :=
  if x.isNan || y.isNan then (f.canon, { Fl.none with nv := x.isSig || y.isSig })
  else
    match x, y with
    | .inf a, .fin b _ _ => (f.infBits (a != b), Fl.none)
    | .inf _, .inf _ => (f.canon, Fl.nvOnly)
    | .fin a _ _, .inf b => (f.signBit (a != b), Fl.none)
    | .fin a m e, .fin b n g =>
      if n = 0 then (if m = 0 then (f.canon, Fl.nvOnly) else (f.infBits (a != b), Fl.none))
      else if m = 0 then (f.signBit (a != b), Fl.none)
      else
        let k := Nat.log2 n + 64
        f.ofExact .rne (a != b) (m * 2 ^ k / n) (e - g - Int.ofNat k) (m * 2 ^ k % n != 0)
    | _, _ => (f.canon, Fl.none)

/-! ## The functions of R157, to 400 bits (log entry 22) -/

/-- Bits of the fixed-point working precision. -/
def fpBits : Nat := 400
/-- ln 2 and pi, times 2^400, rounded down. -/
def ln2Fixed : Nat := 0xb17217f7d1cf79abc9e3b39803f2f6af40f343267298b62d8a0d175b8baafa2be7b876206debac98559552fb4afa1b10ed2e
def piFixed : Nat := 0x3243f6a8885a308d313198a2e03707344a4093822299f31d0082efa98ec4e6c89452821e638d01377be5466cf34e90c6cc0ac

/-- floor(sqrt n), bit by bit from bit `k - 1` down. -/
def isqrtFrom : Nat → Nat → Nat → Nat
  | 0, _, r => r
  | k + 1, n, r => if (r + 2 ^ k) * (r + 2 ^ k) ≤ n then isqrtFrom k n (r + 2 ^ k) else isqrtFrom k n r

def isqrt (n : Nat) : Nat := isqrtFrom (Nat.log2 n / 2 + 1) n 0

/-- The sum of y^i / i! from term i on, in fixed point. -/
def expSeries : Nat → Nat → Nat → Nat → Nat
  | 0, _, _, _ => 0
  | n + 1, y, i, term => term + expSeries n y (i + 1) (term * y / 2 ^ fpBits / (i + 1))

/-- The alternating sum of y^(2 i + c) / (2 i + c)!, in fixed point: sine from term y, cosine from term 1. -/
def trigSeries : Nat → Nat → Nat → Nat → Nat
  | 0, _, _, _ => 0
  | n + 1, y, i, term => term - trigSeries n y (i + 2) (term * y / 2 ^ fpBits * y / 2 ^ fpBits / ((i + 1) * (i + 2)))

/-- The sum of t^(2 i + 1) / (2 i + 1), in fixed point: half of ln((1 + t) / (1 - t)). -/
def atanhSeries : Nat → Nat → Nat → Nat → Nat
  | 0, _, _, _ => 0
  | n + 1, t, i, pw => pw / (2 * i + 1) + atanhSeries n t (i + 1) (pw * t / 2 ^ fpBits * t / 2 ^ fpBits)

/-- Whether a value is negative and not zero. -/
def fvBelowZero (x : FV) : Bool := x.neg? && !x.isZero && !x.isNan

/-- R157: 1 / x. -/
def FFmt.rcp (f : FFmt) (x : FV) : Nat × Fl := f.div (.fin false 1 0) x

/-- R157: sqrt x. -/
def FFmt.sqrt (f : FFmt) (x : FV) : Nat × Fl :=
  match x with
  | .nan s => (f.canon, { Fl.none with nv := s })
  | .inf n => if n then (f.canon, Fl.nvOnly) else (f.infBits false, Fl.none)
  | .fin n m e =>
    if m = 0 then (f.signBit n, Fl.none)
    else if n then (f.canon, Fl.nvOnly)
    else
      let k : Int := if e % 2 = 0 then 128 else 129
      let v := m * 2 ^ k.toNat
      let r := isqrt v
      f.ofExact .rne false r ((e - k) / 2) (r * r != v)

/-- R157: 1 / sqrt x. -/
def FFmt.rsq (f : FFmt) (x : FV) : Nat × Fl :=
  match x with
  | .nan s => (f.canon, { Fl.none with nv := s })
  | .inf n => if n then (f.canon, Fl.nvOnly) else (f.signBit false, Fl.none)
  | .fin n m e =>
    if m = 0 then (f.infBits n, Fl.none)
    else if n then (f.canon, Fl.nvOnly)
    else
      let k : Nat := if e % 2 = 0 then 256 else 257
      let v := 2 ^ k / m
      let r := isqrt v
      f.ofExact .rne false r ((-e - Int.ofNat k) / 2) (r * r * m != 2 ^ k)

/-- 2^x for a finite x as mantissa and exponent with what is lost below; x is (-1)^n m 2^e. -/
def exp2Exact (n : Bool) (m : Nat) (e : Int) : Nat × Int × Bool :=
  let whole : Int := if 0 ≤ e then signedAt n m e 0 else (if n then -Int.ofNat m else Int.ofNat m) / Int.ofNat (2 ^ (-e).toNat)
  let frac : Nat :=
    if 0 ≤ e then 0
    else
      let r := ((if n then -Int.ofNat m else Int.ofNat m) % Int.ofNat (2 ^ (-e).toNat)).toNat
      (scaleNat r (Int.ofNat fpBits + e)).1
  let exact := 0 ≤ e || m % 2 ^ (-e).toNat == 0
  if exact then (1, whole, false)
  else (expSeries 100 (frac * ln2Fixed / 2 ^ fpBits) 0 (2 ^ fpBits), whole - Int.ofNat fpBits, true)

/-- R157: 2^x. The exponent is bounded first, so that an operand far out of range costs nothing. -/
def FFmt.exp2 (f : FFmt) (x : FV) : Nat × Fl :=
  match x with
  | .nan s => (f.canon, { Fl.none with nv := s })
  | .inf n => (if n then f.signBit false else f.infBits false, Fl.none)
  | .fin n m e =>
    if m = 0 then f.ofExact .rne false 1 0 false
    else if 12 ≤ Int.ofNat (Nat.log2 m) + e then
      (if n then f.ofExact .rne false 1 (-2000) false else f.ofExact .rne false 1 2000 false)
    else if Int.ofNat (Nat.log2 m) + e < -64 then f.ofExact .rne false (if n then 2 ^ 80 - 1 else 2 ^ 80) (-80) true
    else
      let (q, g, sticky) := exp2Exact n m e
      f.ofExact .rne false q g sticky

/-- R157: log2 x. -/
def FFmt.log2 (f : FFmt) (x : FV) : Nat × Fl :=
  match x with
  | .nan s => (f.canon, { Fl.none with nv := s })
  | .inf n => if n then (f.canon, Fl.nvOnly) else (f.infBits false, Fl.none)
  | .fin n m e =>
    if m = 0 then (f.infBits true, Fl.none)
    else if n then (f.canon, Fl.nvOnly)
    else
      let k := Nat.log2 m
      let whole : Int := Int.ofNat k + e
      if m = 2 ^ k then f.ofExact .rne (decide (whole < 0)) whole.natAbs 0 false
      else
        let t := (m - 2 ^ k) * 2 ^ fpBits / (m + 2 ^ k)
        let ln := 2 * atanhSeries 130 t 0 t
        let v : Int := whole * Int.ofNat (2 ^ fpBits) + Int.ofNat (ln * 2 ^ fpBits / ln2Fixed)
        f.ofExact .rne (decide (v < 0)) v.natAbs (-Int.ofNat fpBits) true

/-- The sine of pi r for 0 < r <= 1/4 in units of 2^-400, in the same units. -/
def sinSmall (r : Nat) : Nat := let y := r * piFixed / 2 ^ fpBits; trigSeries 48 y 1 y
/-- The cosine of pi r for 0 <= r <= 1/4. -/
def cosSmall (r : Nat) : Nat := let y := r * piFixed / 2 ^ fpBits; trigSeries 48 y 0 (2 ^ fpBits)

/-- sin(pi r) for 0 < r < 1 in units of 2^-400. -/
def sinTurn (r : Nat) : Nat :=
  let r := if 2 ^ (fpBits - 1) < r then 2 ^ fpBits - r else r
  if r ≤ 2 ^ (fpBits - 2) then sinSmall r else cosSmall (2 ^ (fpBits - 1) - r)

/-- x mod 2 for a magnitude m 2^e, in units of 2^-400. -/
def mod2Fixed (m : Nat) (e : Int) : Nat := (scaleNat m (e + Int.ofNat fpBits)).1 % (2 ^ (fpBits + 1))

/-- The sine of half-turns t in [0, 2), in units of 2^-400: exact at multiples of 1/2. -/
def sinPi (f : FFmt) (neg : Bool) (t : Nat) : Nat × Fl :=
  let n := neg != decide (2 ^ fpBits < t)
  let r := t % 2 ^ fpBits
  if r = 2 ^ (fpBits - 1) then f.ofExact .rne n 1 0 false
  else f.ofExact .rne n (sinTurn r) (-Int.ofNat fpBits) true

/-- R157: sin(pi x); integers give a zero of the sign of x. -/
def FFmt.sinpi (f : FFmt) (x : FV) : Nat × Fl :=
  match x with
  | .nan s => (f.canon, { Fl.none with nv := s })
  | .inf _ => (f.canon, Fl.nvOnly)
  | .fin n m e =>
    let t := mod2Fixed m e
    if m = 0 ∨ t % 2 ^ fpBits = 0 then (f.signBit n, Fl.none) else sinPi f n t

/-- R157: cos(pi x) = sin(pi (x + 1/2)); half-integers give +0. -/
def FFmt.cospi (f : FFmt) (x : FV) : Nat × Fl :=
  match x with
  | .nan s => (f.canon, { Fl.none with nv := s })
  | .inf _ => (f.canon, Fl.nvOnly)
  | .fin _ m e =>
    if m = 0 then f.ofExact .rne false 1 0 false
    else if Int.ofNat (Nat.log2 m) + e < -100 then f.ofExact .rne false (2 ^ 60 - 1) (-60) true
    else
      let t := (mod2Fixed m e + 2 ^ (fpBits - 1)) % 2 ^ (fpBits + 1)
      if t % 2 ^ fpBits = 0 then (f.signBit false, Fl.none) else sinPi f false t

end Sys2Proof.Machine
end

