-- ==== Sys2Proof/Machine/Fp32.lean ====
section
/-! DEFINITION. FP32 arithmetic (R154 to R157): opcodes 0x20 to 0x2D. -/

namespace Sys2Proof.Machine

open Sys2Proof

/-- R154: a' or c': the operand, its sign bit inverted where asked. -/
def negCode (neg : Bool) (v : Word64) : Nat := if neg then (v.toNat % 2 ^ 32 + 2 ^ 31) % 2 ^ 32 else v.toNat % 2 ^ 32

def asWide (r : Nat × Fl) : Word64 × Fl := (BitVec.ofNat 64 r.1, r.2)

def fp1 (na : Bool) (f : FV → Nat × Fl) : List Word64 → Word64 × Fl
  | [a] => asWide (f (F32.decode (negCode na a)))
  | _ => noFl 0

def fp2 (na : Bool) (f : FV → FV → Nat × Fl) : List Word64 → Word64 × Fl
  | [a, b] => asWide (f (F32.decode (negCode na a)) (F32.decode b.toNat))
  | _ => noFl 0

def fp3 (na nc : Bool) (f : FV → FV → FV → Nat × Fl) : List Word64 → Word64 × Fl
  | [a, b, c] => asWide (f (F32.decode (negCode na a)) (F32.decode b.toNat) (F32.decode (negCode nc c)))
  | _ => noFl 0

/-- R155: the operands are compared as values and returned as codes. -/
def fpMinMax (na larger : Bool) : List Word64 → Word64 × Fl
  | [a, b] => asWide (F32.minMax larger (negCode na a) (b.toNat % 2 ^ 32))
  | _ => noFl 0

def execFadd (h : Head) (na : Bool) (rnd : Rnd) (d : Dst) (a b : Src) (lit : Lit) (s : State) : Host.Outcome State Fault Refusal :=
  alu s h 0x20 lit { tys := [.f32, .f32], lat := 6, f := fp2 na (F32.add rnd) } d [a, b]

def execFsub (h : Head) (na : Bool) (rnd : Rnd) (d : Dst) (a b : Src) (lit : Lit) (s : State) : Host.Outcome State Fault Refusal :=
  alu s h 0x21 lit { tys := [.f32, .f32], lat := 6, f := fp2 na fun x y => F32.add rnd x y.negate } d [a, b]

def execFmul (h : Head) (na : Bool) (rnd : Rnd) (d : Dst) (a b : Src) (lit : Lit) (s : State) : Host.Outcome State Fault Refusal :=
  alu s h 0x22 lit { tys := [.f32, .f32], lat := 6, f := fp2 na (F32.mul rnd) } d [a, b]

def execFfma (h : Head) (nc na : Bool) (rnd : Rnd) (d : Dst) (a b c : Src) (lit : Lit) (s : State) :
    Host.Outcome State Fault Refusal :=
  alu s h 0x23 lit { tys := [.f32, .f32, .f32], lat := 6, f := fp3 na nc (F32.fma rnd) } d [a, b, c]

def execFmin (h : Head) (na : Bool) (d : Dst) (a b : Src) (lit : Lit) (s : State) : Host.Outcome State Fault Refusal :=
  alu s h 0x24 lit { tys := [.f32, .f32], lat := 6, f := fpMinMax na false } d [a, b]

def execFmax (h : Head) (na : Bool) (d : Dst) (a b : Src) (lit : Lit) (s : State) : Host.Outcome State Fault Refusal :=
  alu s h 0x25 lit { tys := [.f32, .f32], lat := 6, f := fpMinMax na true } d [a, b]

def execFrnd (h : Head) (na : Bool) (rnd : Rnd) (d : Dst) (a : Src) (lit : Lit) (s : State) : Host.Outcome State Fault Refusal :=
  alu s h 0x26 lit { tys := [.f32], lat := 6, f := fp1 na (F32.integral rnd) } d [a]

def execFrcp (h : Head) (na : Bool) (d : Dst) (a : Src) (lit : Lit) (s : State) : Host.Outcome State Fault Refusal :=
  alu s h 0x27 lit { tys := [.f32], lat := 14, f := fp1 na F32.rcp } d [a]

def execFrsq (h : Head) (na : Bool) (d : Dst) (a : Src) (lit : Lit) (s : State) : Host.Outcome State Fault Refusal :=
  alu s h 0x28 lit { tys := [.f32], lat := 14, f := fp1 na F32.rsq } d [a]

def execFsqrt (h : Head) (na : Bool) (d : Dst) (a : Src) (lit : Lit) (s : State) : Host.Outcome State Fault Refusal :=
  alu s h 0x29 lit { tys := [.f32], lat := 14, f := fp1 na F32.sqrt } d [a]

def execFexp2 (h : Head) (na : Bool) (d : Dst) (a : Src) (lit : Lit) (s : State) : Host.Outcome State Fault Refusal :=
  alu s h 0x2A lit { tys := [.f32], lat := 14, f := fp1 na F32.exp2 } d [a]

def execFlog2 (h : Head) (na : Bool) (d : Dst) (a : Src) (lit : Lit) (s : State) : Host.Outcome State Fault Refusal :=
  alu s h 0x2B lit { tys := [.f32], lat := 14, f := fp1 na F32.log2 } d [a]

def execFsin (h : Head) (na : Bool) (d : Dst) (a : Src) (lit : Lit) (s : State) : Host.Outcome State Fault Refusal :=
  alu s h 0x2C lit { tys := [.f32], lat := 14, f := fp1 na F32.sinpi } d [a]

def execFcos (h : Head) (na : Bool) (d : Dst) (a : Src) (lit : Lit) (s : State) : Host.Outcome State Fault Refusal :=
  alu s h 0x2D lit { tys := [.f32], lat := 14, f := fp1 na F32.cospi } d [a]

end Sys2Proof.Machine
end

