-- ==== Sys2Proof/Machine/Packed.lean ====
section
/-! DEFINITION. Packed half precision (R158): opcodes 0x30 to 0x35. -/

namespace Sys2Proof.Machine

open Sys2Proof

def halfTy (bf : Bool) : OTy := if bf then .bf16 else .f16
def halfFmt (bf : Bool) : FFmt := if bf then BF16 else F16

/-- R146: element e of a packed register. -/
def element (v : Word64) (e : Nat) : Nat := v.toNat / 2 ^ (16 * e) % 2 ^ 16

/-- R158: both elements, and the flags of both. -/
def packed (f : Nat → Nat × Fl) : Word64 × Fl := (BitVec.ofNat 64 ((f 0).1 + 2 ^ 16 * (f 1).1), (f 0).2.or (f 1).2)

def half2 (bf : Bool) (f : FV → FV → Nat × Fl) : List Word64 → Word64 × Fl
  | [a, b] => packed fun e => f ((halfFmt bf).decode (element a e)) ((halfFmt bf).decode (element b e))
  | _ => noFl 0

def half3 (bf : Bool) (f : FV → FV → FV → Nat × Fl) : List Word64 → Word64 × Fl
  | [a, b, c] => packed fun e =>
      f ((halfFmt bf).decode (element a e)) ((halfFmt bf).decode (element b e)) ((halfFmt bf).decode (element c e))
  | _ => noFl 0

def halfMinMax (bf larger : Bool) : List Word64 → Word64 × Fl
  | [a, b] => packed fun e => (halfFmt bf).minMax larger (element a e) (element b e)
  | _ => noFl 0

def execHadd2 (h : Head) (bf : Bool) (rnd : Rnd) (d : Dst) (a b : Src) (lit : Lit) (s : State) :
    Host.Outcome State Fault Refusal :=
  alu s h 0x30 lit { tys := [halfTy bf, halfTy bf], lat := 6, f := half2 bf ((halfFmt bf).add rnd) } d [a, b]

def execHmul2 (h : Head) (bf : Bool) (rnd : Rnd) (d : Dst) (a b : Src) (lit : Lit) (s : State) :
    Host.Outcome State Fault Refusal :=
  alu s h 0x31 lit { tys := [halfTy bf, halfTy bf], lat := 6, f := half2 bf ((halfFmt bf).mul rnd) } d [a, b]

def execHfma2 (h : Head) (rnd : Rnd) (d : Dst) (a b c : Src) (lit : Lit) (s : State) : Host.Outcome State Fault Refusal :=
  alu s h 0x32 lit { tys := [.f16, .f16, .f16], lat := 6, f := half3 false (F16.fma rnd) } d [a, b, c]

def execBfma2 (h : Head) (rnd : Rnd) (d : Dst) (a b c : Src) (lit : Lit) (s : State) : Host.Outcome State Fault Refusal :=
  alu s h 0x33 lit { tys := [.bf16, .bf16, .bf16], lat := 6, f := half3 true (BF16.fma rnd) } d [a, b, c]

def execHmin2 (h : Head) (bf : Bool) (d : Dst) (a b : Src) (lit : Lit) (s : State) : Host.Outcome State Fault Refusal :=
  alu s h 0x34 lit { tys := [halfTy bf, halfTy bf], lat := 6, f := halfMinMax bf false } d [a, b]

def execHmax2 (h : Head) (bf : Bool) (d : Dst) (a b : Src) (lit : Lit) (s : State) : Host.Outcome State Fault Refusal :=
  alu s h 0x35 lit { tys := [halfTy bf, halfTy bf], lat := 6, f := halfMinMax bf true } d [a, b]

end Sys2Proof.Machine
end

