-- ==== Sys2Proof/Machine/Convert.lean ====
section
/-! DEFINITION. Conversions (R159 to R164): opcodes 0x36 to 0x3A. -/

namespace Sys2Proof.Machine

open Sys2Proof

def ftyFmt : FTy → FFmt
  | .f32 => F32 | .f16 => F16 | .bf16 => BF16
def ftyTy : FTy → OTy
  | .f32 => .f32 | .f16 => .f16 | .bf16 => .bf16
def ityBits : ITy → Nat
  | .s32 => 32 | .b32 => 32 | .s64 => 64 | .b64 => 64
def ityU : ITy → Bool
  | .s32 => false | .b32 => true | .s64 => false | .b64 => true
def ityTy (t : ITy) : OTy := if ityBits t = 64 then .i64 else .i32

/-- R146: the value of a float source: a 16-bit one in its low half. -/
def floatIn (t : FTy) (v : Word64) : FV := (ftyFmt t).decode (v.toNat % 2 ^ (ftyFmt t).bits)

/-- R160: float from float. -/
def cvtFFVal (dt st : FTy) (rnd : Rnd) : List Word64 → Word64 × Fl
  | [a] => asWide ((ftyFmt dt).convert rnd false (floatIn st a))
  | _ => noFl 0

/-- R160: integer from float. -/
def cvtIFVal (st : FTy) (dt : ITy) (rnd : Rnd) : List Word64 → Word64 × Fl
  | [a] =>
    let r := convInt (ityBits dt) (ityU dt) rnd (floatIn st a)
    (BitVec.ofNat 64 (wrapInt (ityBits dt) r.1), r.2)
  | _ => noFl 0

/-- R160: float from integer. -/
def cvtFIVal (dt : FTy) (st : ITy) (rnd : Rnd) : List Word64 → Word64 × Fl
  | [a] =>
    let v : Int := if ityU st then Int.ofNat (a.toNat % 2 ^ ityBits st) else signed (ityBits st) a.toNat
    asWide ((ftyFmt dt).convert rnd false (fvOfInt v))
  | _ => noFl 0

def execCvtFF (h : Head) (dt st : FTy) (rnd : Rnd) (d : Dst) (a : Src) (lit : Lit) (s : State) : Host.Outcome State Fault Refusal :=
  alu s h 0x36 lit { tys := [ftyTy st], lat := 6, f := cvtFFVal dt st rnd } d [a]

def execCvtIF (h : Head) (st : FTy) (dt : ITy) (rnd : Rnd) (d : Dst) (a : Src) (lit : Lit) (s : State) :
    Host.Outcome State Fault Refusal :=
  alu s h 0x37 lit { n := ityBits dt / 32, tys := [ftyTy st], lat := 6, f := cvtIFVal st dt rnd } d [a]

def execCvtFI (h : Head) (dt : FTy) (st : ITy) (rnd : Rnd) (d : Dst) (a : Src) (lit : Lit) (s : State) :
    Host.Outcome State Fault Refusal :=
  alu s h 0x38 lit { tys := [ityTy st], lat := 6, f := cvtFIVal dt st rnd } d [a]

/-- R162: the slot formats that CVTN and CVTW allow, and the positions in each. -/
def narrowOk (fmt pos : Nat) (pack : Bool) : Bool :=
  if fmt = 7 then decide (pos < (if pack then 4 else 8)) else decide (3 ≤ fmt) && decide (fmt < 7) && decide (pos < (if pack then 2 else 4))

/-- R163. -/
def cvtnVal (slot : Word32) (pos : Nat) : List Word64 → Word64 × Fl
  | [a, b, c] =>
    let f := fmtOfCode (slotFmt slot)
    let e0 := f.convert (slotRnd slot) (slotSaturate slot) (F32.decode (a.toNat % 2 ^ 32))
    let e1 := f.convert (slotRnd slot) (slotSaturate slot) (F32.decode (b.toNat % 2 ^ 32))
    let sh := 2 ^ (f.bits * (2 * pos))
    let m : Word32 := BitVec.ofNat 32 ((2 ^ (2 * f.bits) - 1) * sh)
    let v : Word32 := BitVec.ofNat 32 ((e0.1 + 2 ^ f.bits * e1.1) * sh)
    (BitVec.ofNat 64 ((lo32 c &&& ~~~ m) ||| (v &&& m)).toNat, e0.2.or e1.2)
  | _ => noFl 0

/-- R164: exact, without flags. -/
def cvtwVal (slot : Word32) (pos : Nat) : List Word64 → Word64 × Fl
  | [a] =>
    let f := fmtOfCode (slotFmt slot)
    noFl (BitVec.ofNat 64 (F32.convert .rne false (f.decode (a.toNat / 2 ^ (f.bits * pos) % 2 ^ f.bits))).1)
  | _ => noFl 0

def cvtnAlu (slot pos : BitVec 3) (x : Ctx) : Alu :=
  { tys := [.f32, .f32, .i32], lat := 6, f := cvtnVal (x.r.slot slot.toNat) pos.toNat }

def cvtwAlu (slot pos : BitVec 3) (x : Ctx) : Alu := { tys := [.i32], lat := 6, f := cvtwVal (x.r.slot slot.toNat) pos.toNat }

def execCvtn (h : Head) (slot pos : BitVec 3) (d : Dst) (a b c : Src) (lit : Lit) (s : State) : Host.Outcome State Fault Refusal :=
  aluGen s h 0x39 lit (cvtnAlu slot pos)
    (fun x => aluIllegal x (cvtnAlu slot pos x) d [a, b, c] || !narrowOk (slotFmt (x.r.slot slot.toNat)) pos.toNat true)
    (fun _ => []) d [a, b, c]

def execCvtw (h : Head) (slot pos : BitVec 3) (d : Dst) (a : Src) (lit : Lit) (s : State) : Host.Outcome State Fault Refusal :=
  aluGen s h 0x3A lit (cvtwAlu slot pos)
    (fun x => aluIllegal x (cvtwAlu slot pos x) d [a] || !narrowOk (slotFmt (x.r.slot slot.toNat)) pos.toNat false)
    (fun _ => []) d [a]

end Sys2Proof.Machine
end

