-- ==== Sys2Proof/Machine/IntArith.lean ====
section
/-! DEFINITION. Integer and address arithmetic (R149 to R151): opcodes 0x01 to 0x0F. -/

namespace Sys2Proof.Machine

open Sys2Proof

/-- R149: ext() of an n-bit value: unsigned or signed. -/
def extInt (n : Nat) (u : Bool) (v : Word64) : Int := if u then Int.ofNat (v.toNat % 2 ^ n) else signed n v.toNat

/-- R88: the bounds of an n-bit integer type. -/
def tmin (n : Nat) (u : Bool) : Int := if u then 0 else -Int.ofNat (2 ^ (n - 1))
def tmax (n : Nat) (u : Bool) : Int := if u then Int.ofNat (2 ^ n) - 1 else Int.ofNat (2 ^ (n - 1)) - 1

/-- R150: the exact result, saturated where asked, modulo 2^n. -/
def satInt (n : Nat) (sat u : Bool) (t : Int) : Word64 :=
  let t := if sat then min (max t (tmin n u)) (tmax n u) else t
  BitVec.ofNat 64 (wrapInt n t)

def addInt (n : Nat) (sat u : Bool) (a b : Word64) : Word64 := satInt n sat u (extInt n u a + extInt n u b)
def subInt (n : Nat) (sat u : Bool) (a b : Word64) : Word64 := satInt n sat u (extInt n u a - extInt n u b)
def mulLow (n : Nat) (a b : Word64) : Word64 := BitVec.ofNat 64 (a.toNat * b.toNat % 2 ^ n)
/-- R149: bits [63:32] of the exact product. -/
def mulHigh (u : Bool) (a b : Word64) : Word64 := BitVec.ofNat 64 (wrapInt 64 (extInt 32 u a * extInt 32 u b) / 2 ^ 32)
def mad32 (a b c : Word64) : Word64 := BitVec.ofNat 64 ((a.toNat * b.toNat + c.toNat) % 2 ^ 32)
def mad64 (u : Bool) (a b c : Word64) : Word64 := BitVec.ofNat 64 (wrapInt 64 (extInt 32 u a * extInt 32 u b + Int.ofNat c.toNat))
def minInt (u : Bool) (a b : Word64) : Word64 := if extInt 32 u b < extInt 32 u a then b else a
def maxInt (u : Bool) (a b : Word64) : Word64 := if extInt 32 u a < extInt 32 u b then b else a
def absInt (sat : Bool) (a : Word64) : Word64 := satInt 32 sat false (Int.ofNat (signed 32 a.toNat).natAbs)
def negInt (sat : Bool) (a : Word64) : Word64 := satInt 32 sat false (-signed 32 a.toNat)
/-- R151. -/
def leaAddr (sx : Bool) (n : Nat) (a b : Word64) : Word64 :=
  BitVec.ofNat 64 (wrapInt 64 (Int.ofNat a.toNat + extInt 32 (!sx) b * Int.ofNat (2 ^ n)))

/-- A function of two values as a function of a list of them. -/
def on2 (f : Word64 → Word64 → Word64) : List Word64 → Word64 × Fl
  | [a, b] => noFl (f a b)
  | _ => noFl 0
def on3 (f : Word64 → Word64 → Word64 → Word64) : List Word64 → Word64 × Fl
  | [a, b, c] => noFl (f a b c)
  | _ => noFl 0
def on1 (f : Word64 → Word64) : List Word64 → Word64 × Fl
  | [a] => noFl (f a)
  | _ => noFl 0

def execIadd (h : Head) (sat u : Bool) (d : Dst) (a b : Src) (lit : Lit) (s : State) : Host.Outcome State Fault Refusal :=
  alu s h 0x01 lit { tys := [.i32, .i32], lat := 4, f := on2 (addInt 32 sat u) } d [a, b]

def execIaddB64 (h : Head) (sat u : Bool) (d : Dst) (a b : Src) (lit : Lit) (s : State) : Host.Outcome State Fault Refusal :=
  alu s h 0x02 lit { n := 2, tys := [.i64, .i64], lat := 4, f := on2 (addInt 64 sat u) } d [a, b]

/-- R150: the sum and the carry out of an unsigned add with carry in. -/
def addCarry (a b : Nat) (ci : Bool) : Nat × Bool :=
  let t := a + b + (if ci then 1 else 0)
  (t % 2 ^ 32, t / 2 ^ 32 % 2 == 1)

def execIaddc (h : Head) (cout cin : BitVec 3) (d : Dst) (a b : Src) (lit : Lit) (s : State) : Host.Outcome State Fault Refusal :=
  laneWord s h 0x03 lit
    { srcs := [(.i32, a), (.i32, b)], lat := 4
      illegal := fun x => d.sca || !dstOk x 1 d
      reads := fun x => if cin = 7 then [] else x.ex.map fun l => .pred l.2 cin.toNat
      writes := fun x => dstLocs x 1 d ++ (if cout = 7 then [] else x.ex.map fun l => .pred l.2 cout.toNat)
      f := fun s x l =>
        let r := addCarry (srcVal s x .i32 l.2 a).toNat (srcVal s x .i32 l.2 b).toNat (cin != 7 && predVal x l.2 cin)
        ((.vec l.2 d.f.toNat, BitVec.ofNat 32 r.1) :: (if cout = 7 then [] else [(.pred l.2 cout.toNat, b32 r.2)]), Fl.none) }

def execIsub (h : Head) (sat u : Bool) (d : Dst) (a b : Src) (lit : Lit) (s : State) : Host.Outcome State Fault Refusal :=
  alu s h 0x04 lit { tys := [.i32, .i32], lat := 4, f := on2 (subInt 32 sat u) } d [a, b]

def execIsubB64 (h : Head) (sat u : Bool) (d : Dst) (a b : Src) (lit : Lit) (s : State) : Host.Outcome State Fault Refusal :=
  alu s h 0x05 lit { n := 2, tys := [.i64, .i64], lat := 4, f := on2 (subInt 64 sat u) } d [a, b]

def execImul (h : Head) (d : Dst) (a b : Src) (lit : Lit) (s : State) : Host.Outcome State Fault Refusal :=
  alu s h 0x06 lit { tys := [.i32, .i32], lat := 6, f := on2 (mulLow 32) } d [a, b]

def execImulB64 (h : Head) (d : Dst) (a b : Src) (lit : Lit) (s : State) : Host.Outcome State Fault Refusal :=
  alu s h 0x07 lit { n := 2, tys := [.i64, .i64], lat := 6, f := on2 (mulLow 64) } d [a, b]

def execImulh (h : Head) (u : Bool) (d : Dst) (a b : Src) (lit : Lit) (s : State) : Host.Outcome State Fault Refusal :=
  alu s h 0x08 lit { tys := [.i32, .i32], lat := 6, f := on2 (mulHigh u) } d [a, b]

def execImad (h : Head) (d : Dst) (a b c : Src) (lit : Lit) (s : State) : Host.Outcome State Fault Refusal :=
  alu s h 0x09 lit { tys := [.i32, .i32, .i32], lat := 6, f := on3 mad32 } d [a, b, c]

def execImadB64 (h : Head) (u : Bool) (d : Dst) (a b c : Src) (lit : Lit) (s : State) : Host.Outcome State Fault Refusal :=
  alu s h 0x0A lit { n := 2, tys := [.i32, .i32, .i64], lat := 6, f := on3 (mad64 u) } d [a, b, c]

def execImin (h : Head) (u : Bool) (d : Dst) (a b : Src) (lit : Lit) (s : State) : Host.Outcome State Fault Refusal :=
  alu s h 0x0B lit { tys := [.i32, .i32], lat := 4, f := on2 (minInt u) } d [a, b]

def execImax (h : Head) (u : Bool) (d : Dst) (a b : Src) (lit : Lit) (s : State) : Host.Outcome State Fault Refusal :=
  alu s h 0x0C lit { tys := [.i32, .i32], lat := 4, f := on2 (maxInt u) } d [a, b]

def execIabs (h : Head) (sat : Bool) (d : Dst) (a : Src) (lit : Lit) (s : State) : Host.Outcome State Fault Refusal :=
  alu s h 0x0D lit { tys := [.i32], lat := 4, f := on1 (absInt sat) } d [a]

def execIneg (h : Head) (sat : Bool) (d : Dst) (a : Src) (lit : Lit) (s : State) : Host.Outcome State Fault Refusal :=
  alu s h 0x0E lit { tys := [.i32], lat := 4, f := on1 (negInt sat) } d [a]

def execLea (h : Head) (sx : Bool) (n : BitVec 5) (d : Dst) (a b : Src) (lit : Lit) (s : State) : Host.Outcome State Fault Refusal :=
  alu s h 0x0F lit { n := 2, tys := [.i64, .i32], lat := 4, f := on2 (leaAddr sx n.toNat) } d [a, b]

end Sys2Proof.Machine
end

