-- ==== Sys2Proof/Machine/Compare.lean ====
section
/-! DEFINITION. Compares, select and predicates (R165 to R167): opcodes 0x40 to 0x4F. -/

namespace Sys2Proof.Machine

open Sys2Proof

/-- R165: the combination with a predicate. -/
def combine (c : Comb) (t p : Bool) : Bool :=
  match c with
  | .none => t
  | .and => t && p
  | .or => t || p
  | .xor => t != p

/-- R147: a write to a predicate of a lane; a write to pt is discarded. -/
def predWrite (slot : Nat) (d : Dst) (b : Bool) : List (Loc × Word32) := if d.f = 7 then [] else [(.pred slot d.f.toNat, b32 b)]
def predWrites (x : Ctx) (d : Dst) : List Loc := if d.f = 7 then [] else x.ex.map fun l => .pred l.2 d.f.toNat

/-- The frame of the compares: `t` is the comparison of two source values. -/
def compareWord (s : State) (h : Head) (op lat : Nat) (lit : Lit) (ty : OTy) (comb : Comb) (pc : BitVec 3) (d : Dst) (a b : Src)
    (t : Word64 → Word64 → Bool × Fl) : Host.Outcome State Fault Refusal :=
  laneWord s h op lit
    { srcs := [(ty, a), (ty, b)], lat := lat
      illegal := fun _ => !predOk d
      reads := fun x => if comb = .none ∨ pc = 7 then [] else x.ex.map fun l => .pred l.2 pc.toNat
      writes := fun x => predWrites x d
      f := fun s x l =>
        let r := t (srcVal s x ty l.2 a) (srcVal s x ty l.2 b)
        (predWrite l.2 d (combine comb r.1 (predVal x l.2 pc)), r.2) }

/-- R165: integer comparisons of ext(a) and ext(b). -/
def intTest (u : Bool) (f : Int → Int → Bool) (a b : Word64) : Bool × Fl := (f (extInt 32 u a) (extInt 32 u b), Fl.none)

def execIcmpEq (h : Head) (comb : Comb) (pc : BitVec 3) (u : Bool) (d : Dst) (a b : Src) (lit : Lit) (s : State) :
    Host.Outcome State Fault Refusal :=
  compareWord s h 0x40 4 lit .i32 comb pc d a b (intTest u fun a b => decide (a = b))

def execIcmpNe (h : Head) (comb : Comb) (pc : BitVec 3) (u : Bool) (d : Dst) (a b : Src) (lit : Lit) (s : State) :
    Host.Outcome State Fault Refusal :=
  compareWord s h 0x41 4 lit .i32 comb pc d a b (intTest u fun a b => decide (a ≠ b))

def execIcmpLt (h : Head) (comb : Comb) (pc : BitVec 3) (u : Bool) (d : Dst) (a b : Src) (lit : Lit) (s : State) :
    Host.Outcome State Fault Refusal :=
  compareWord s h 0x42 4 lit .i32 comb pc d a b (intTest u fun a b => decide (a < b))

def execIcmpLe (h : Head) (comb : Comb) (pc : BitVec 3) (u : Bool) (d : Dst) (a b : Src) (lit : Lit) (s : State) :
    Host.Outcome State Fault Refusal :=
  compareWord s h 0x43 4 lit .i32 comb pc d a b (intTest u fun a b => decide (a ≤ b))

def execIcmpGt (h : Head) (comb : Comb) (pc : BitVec 3) (u : Bool) (d : Dst) (a b : Src) (lit : Lit) (s : State) :
    Host.Outcome State Fault Refusal :=
  compareWord s h 0x44 4 lit .i32 comb pc d a b (intTest u fun a b => decide (b < a))

def execIcmpGe (h : Head) (comb : Comb) (pc : BitVec 3) (u : Bool) (d : Dst) (a b : Src) (lit : Lit) (s : State) :
    Host.Outcome State Fault Refusal :=
  compareWord s h 0x45 4 lit .i32 comb pc d a b (intTest u fun a b => decide (b ≤ a))

/-- -0 and +0 are equal (R166). -/
def fvEq (x y : FV) : Bool := !fvLt x y && !fvLt y x

/-- R166: the result of a comparison, with `nanRes` when an operand is a NaN, and NV for any NaN or only for a signalling one. -/
def fpTest (nanRes anyNv : Bool) (f : FV → FV → Bool) (a b : Word64) : Bool × Fl :=
  let x := F32.decode (a.toNat % 2 ^ 32)
  let y := F32.decode (b.toNat % 2 ^ 32)
  if x.isNan || y.isNan then (nanRes, { Fl.none with nv := anyNv || x.isSig || y.isSig }) else (f x y, Fl.none)

def execFcmpEq (h : Head) (comb : Comb) (pc : BitVec 3) (d : Dst) (a b : Src) (lit : Lit) (s : State) :
    Host.Outcome State Fault Refusal :=
  compareWord s h 0x46 4 lit .f32 comb pc d a b (fpTest false false fvEq)

def execFcmpNe (h : Head) (comb : Comb) (pc : BitVec 3) (d : Dst) (a b : Src) (lit : Lit) (s : State) :
    Host.Outcome State Fault Refusal :=
  compareWord s h 0x47 4 lit .f32 comb pc d a b (fpTest true false fun x y => !fvEq x y)

def execFcmpLt (h : Head) (comb : Comb) (pc : BitVec 3) (d : Dst) (a b : Src) (lit : Lit) (s : State) :
    Host.Outcome State Fault Refusal :=
  compareWord s h 0x48 4 lit .f32 comb pc d a b (fpTest false true fvLt)

def execFcmpLe (h : Head) (comb : Comb) (pc : BitVec 3) (d : Dst) (a b : Src) (lit : Lit) (s : State) :
    Host.Outcome State Fault Refusal :=
  compareWord s h 0x49 4 lit .f32 comb pc d a b (fpTest false true fun x y => !fvLt y x)

def execFcmpGt (h : Head) (comb : Comb) (pc : BitVec 3) (d : Dst) (a b : Src) (lit : Lit) (s : State) :
    Host.Outcome State Fault Refusal :=
  compareWord s h 0x4A 4 lit .f32 comb pc d a b (fpTest false true fun x y => fvLt y x)

def execFcmpGe (h : Head) (comb : Comb) (pc : BitVec 3) (d : Dst) (a b : Src) (lit : Lit) (s : State) :
    Host.Outcome State Fault Refusal :=
  compareWord s h 0x4B 4 lit .f32 comb pc d a b (fpTest false true fun x y => !fvLt x y)

def execFcmpUn (h : Head) (comb : Comb) (pc : BitVec 3) (d : Dst) (a b : Src) (lit : Lit) (s : State) :
    Host.Outcome State Fault Refusal :=
  compareWord s h 0x4C 4 lit .f32 comb pc d a b (fpTest true false fun _ _ => false)

/-- R167. -/
def execSel (h : Head) (pn : Bool) (p : BitVec 3) (d : Dst) (a b : Src) (lit : Lit) (s : State) : Host.Outcome State Fault Refusal :=
  laneWord s h 0x4D lit
    { srcs := [(.i32, a), (.i32, b)], lat := 4
      illegal := fun x => d.sca || !dstOk x 1 d
      reads := fun x => if p = 7 then [] else x.ex.map fun l => .pred l.2 p.toNat
      writes := fun x => dstLocs x 1 d
      f := fun s x l =>
        ([(.vec l.2 d.f.toNat, lo32 (if predVal x l.2 p != pn then srcVal s x .i32 l.2 a else srcVal s x .i32 l.2 b))], Fl.none) }

def execPset (h : Head) (d : Dst) (a : Src) (lit : Lit) (s : State) : Host.Outcome State Fault Refusal :=
  laneWord s h 0x4E lit
    { srcs := [(.i32, a)], lat := 4
      illegal := fun _ => !predOk d
      reads := fun _ => []
      writes := fun x => predWrites x d
      f := fun s x l => (predWrite l.2 d (srcVal s x .i32 l.2 a != 0), Fl.none) }

/-- The seven predicates of a lane as a number. -/
def predBits (x : Ctx) (slot : Nat) : Nat :=
  (List.range 7).foldl (fun m i => m + (if x.read (.pred slot i) != 0 then 2 ^ i else 0)) 0

def execPmovGet (h : Head) (d : Dst) (s : State) : Host.Outcome State Fault Refusal :=
  laneWord s h 0x4F none
    { srcs := [], lat := 4
      illegal := fun x => d.sca || !dstOk x 1 d
      reads := fun x => x.ex.flatMap fun l => (List.range 7).map fun i => .pred l.2 i
      writes := fun x => dstLocs x 1 d
      f := fun _ x l => ([(.vec l.2 d.f.toNat, BitVec.ofNat 32 (predBits x l.2))], Fl.none) }

/-- The predicates that PMOV.put writes in a lane. -/
def putWrites (slot mask val : Nat) : List (Loc × Word32) :=
  ((List.range 7).filter fun i => mask / 2 ^ i % 2 == 1).map fun i => (.pred slot i, b32 (val / 2 ^ i % 2 == 1))

def execPmovPut (h : Head) (dk : Bool) (a b : Src) (lit : Lit) (s : State) : Host.Outcome State Fault Refusal :=
  laneWord s h 0x4F lit
    { srcs := [(.i32, a), (.i32, b)], lat := 4
      illegal := fun _ => dk
      reads := fun _ => []
      writes := fun x => x.ex.flatMap fun l => (putWrites l.2 (srcVal s x .i32 l.2 b).toNat 0).map (·.1)
      f := fun s x l => (putWrites l.2 (srcVal s x .i32 l.2 b).toNat (srcVal s x .i32 l.2 a).toNat, Fl.none) }

end Sys2Proof.Machine
end

