-- ==== Sys2Proof/Machine/CrossLane.lean ====
section
/-! DEFINITION. Cross-lane words (R171 to R175): opcodes 0x53 to 0x5C. -/

namespace Sys2Proof.Machine

open Sys2Proof

/-! ## SHFL (R172) -/

/-- The lane that supplies a value: `j` where it is a lane of the group, else the lane itself. -/
def shflSource (x : Ctx) (l : Nat × Nat) (j : Int) : Nat :=
  if 0 ≤ j ∧ j < Int.ofNat x.lanes.length then (x.lanes.getD j.toNat l).2 else l.2

def shflWord (s : State) (h : Head) (op : Nat) (lit : Lit) (d : Dst) (a b : Src) (j : Nat → Nat → Int) :
    Host.Outcome State Fault Refusal :=
  laneWord s h op lit
    { srcs := [(.i32, b)], lat := 8
      illegal := fun x => d.sca || !dstOk x 1 d || !srcIsVec a || !srcOk x .i32 a
      reads := fun x => match a with
        | .vec r => x.ex.map fun l => .vec (shflSource x l (j l.1 (srcVal s x .i32 l.2 b).toNat)) r.toNat
        | _ => []
      writes := fun x => dstLocs x 1 d
      f := fun s x l =>
        ([(.vec l.2 d.f.toNat, lo32 (srcVal s x .i32 (shflSource x l (j l.1 (srcVal s x .i32 l.2 b).toNat)) a))], Fl.none) }

def execShflIdx (h : Head) (d : Dst) (a b : Src) (lit : Lit) (s : State) : Host.Outcome State Fault Refusal :=
  shflWord s h 0x53 lit d a b fun _ v => Int.ofNat v

def execShflUp (h : Head) (d : Dst) (a b : Src) (lit : Lit) (s : State) : Host.Outcome State Fault Refusal :=
  shflWord s h 0x54 lit d a b fun l v => Int.ofNat l - Int.ofNat v

def execShflDown (h : Head) (d : Dst) (a b : Src) (lit : Lit) (s : State) : Host.Outcome State Fault Refusal :=
  shflWord s h 0x55 lit d a b fun l v => Int.ofNat (l + v)

def execShflXor (h : Head) (d : Dst) (a b : Src) (lit : Lit) (s : State) : Host.Outcome State Fault Refusal :=
  shflWord s h 0x56 lit d a b fun l v => Int.ofNat (Nat.xor l v)

/-! ## VOTE (R173) -/

/-- p' of a lane. -/
def votePred (x : Ctx) (pn : Bool) (p : BitVec 3) (slot : Nat) : Bool := predVal x slot p != pn
def predReads (x : Ctx) (p : BitVec 3) : List Loc := if p = 7 then [] else x.ex.map fun l => .pred l.2 p.toNat

def execVoteAny (h : Head) (pn : Bool) (p : BitVec 3) (d : Dst) (s : State) : Host.Outcome State Fault Refusal :=
  laneWord s h 0x57 none
    { srcs := [], lat := 8
      illegal := fun _ => !predOk d
      reads := fun x => predReads x p
      writes := fun x => predWrites x d
      f := fun _ x l => (predWrite l.2 d (x.ex.any fun m => votePred x pn p m.2), Fl.none) }

def execVoteAll (h : Head) (pn : Bool) (p : BitVec 3) (d : Dst) (s : State) : Host.Outcome State Fault Refusal :=
  laneWord s h 0x58 none
    { srcs := [], lat := 8
      illegal := fun _ => !predOk d
      reads := fun x => predReads x p
      writes := fun x => predWrites x d
      f := fun _ x l => (predWrite l.2 d (x.ex.all fun m => votePred x pn p m.2), Fl.none) }

/-- The mask of the executing lanes whose p' is true. -/
def ballotMask (x : Ctx) (pn : Bool) (p : BitVec 3) : Nat := laneMask (x.ex.filter fun l => votePred x pn p l.2)

def ballotAlu (pn : Bool) (p : BitVec 3) (x : Ctx) : Alu :=
  { n := 2, tys := [], lat := 8, f := fun _ => noFl (BitVec.ofNat 64 (ballotMask x pn p)) }

def execVoteBallot (h : Head) (pn : Bool) (p : BitVec 3) (d : Dst) (s : State) : Host.Outcome State Fault Refusal :=
  aluGen s h 0x59 none (ballotAlu pn p) (fun x => !dstOk x 2 d) (fun x => predReads x p) d []

/-! ## REDG and SCAN (R174, R175) -/

def rtyTy : RTy → OTy
  | .f32 => .f32
  | _ => .i32

/-- One step of a combination in ascending lane order. -/
def combineStep (ty : RTy) (op : ROp) (acc : Word64 × Fl) (v : Word64) : Word64 × Fl :=
  let one (r : Word64 × Fl) : Word64 × Fl := (r.1, acc.2.or r.2)
  match ty, op with
  | .f32, .add => one (asWide (F32.add .rne (F32.decode acc.1.toNat) (F32.decode v.toNat)))
  | .f32, .min => one (asWide (F32.minMax false acc.1.toNat v.toNat))
  | .f32, .max => one (asWide (F32.minMax true acc.1.toNat v.toNat))
  | _, .add => one (noFl (BitVec.ofNat 64 ((acc.1.toNat + v.toNat) % 2 ^ 32)))
  | .s32, .min => one (noFl (minInt false acc.1 v))
  | .b32, .min => one (noFl (minInt true acc.1 v))
  | .s32, .max => one (noFl (maxInt false acc.1 v))
  | .b32, .max => one (noFl (maxInt true acc.1 v))
  | _, .and => one (noFl (acc.1 &&& v))
  | _, .or => one (noFl (acc.1 ||| v))
  | _, .xor => one (noFl (acc.1 ^^^ v))
  | _, .first => acc

/-- The combination of values in ascending lane order: one value is returned unchanged, without a flag. -/
def combineAll (ty : RTy) (op : ROp) : List Word64 → Word64 × Fl
  | [] => noFl 0
  | v :: vs => vs.foldl (combineStep ty op) (noFl v)

/-- R175: the identities. -/
def identity (ty : RTy) (op : ROp) : Word64 :=
  match ty, op with
  | .s32, .min => 0x7FFFFFFF
  | .s32, .max => 0x80000000
  | .b32, .min => 0xFFFFFFFF
  | .f32, .min => 0x7F800000
  | .f32, .max => 0xFF800000
  | _, .and => 0xFFFFFFFF
  | _, _ => 0

/-- The values of the executing lanes that satisfy a test of their lane number, ascending. -/
def laneVals (s : State) (x : Ctx) (ty : RTy) (a : Src) (t : Nat → Bool) : List Word64 :=
  (x.ex.filter fun l => t l.1).map fun l => srcVal s x (rtyTy ty) l.2 a

/-- R174. A uniform source stands for one copy of its value in each lane: R174 counts the copies by the threads of the group and the operands by the executing lanes, and
the model takes a copy for each executing lane (its own choice: log entry 94). -/
def redgAlu (s : State) (ty : RTy) (op : ROp) (a : Src) (x : Ctx) : Alu :=
  { tys := [rtyTy ty], lat := 8, f := fun _ => combineAll ty op (laneVals s x ty a fun _ => true) }

def execRedg (h : Head) (ty : RTy) (op : ROp) (d : Dst) (a : Src) (lit : Lit) (s : State) : Host.Outcome State Fault Refusal :=
  aluGen s h 0x5A lit (redgAlu s ty op a)
    (fun x => !dstOk x 1 d || !srcOk x (rtyTy ty) a || twice (portsOf (some d) [a])) (fun _ => []) d [a]

/-- R175: a lane's result of a scan. -/
def scanVal (s : State) (x : Ctx) (ty : RTy) (op : ROp) (a : Src) (inc : Bool) (lane : Nat) : Word64 × Fl :=
  match laneVals s x ty a fun m => if inc then decide (m ≤ lane) else decide (m < lane) with
  | [] => noFl (identity ty op)
  | vs => combineAll ty op vs

def scanWord (s : State) (h : Head) (opc : Nat) (inc : Bool) (ty : RTy) (op : ROp) (d : Dst) (a : Src) (lit : Lit) :
    Host.Outcome State Fault Refusal :=
  laneWord s h opc lit
    { srcs := [(rtyTy ty, a)], lat := 8
      illegal := fun x => d.sca || !dstOk x 1 d
      reads := fun _ => []
      writes := fun x => dstLocs x 1 d
      f := fun s x l =>
        let r := scanVal s x ty op a inc l.1
        ([(.vec l.2 d.f.toNat, lo32 r.1)], r.2) }

def execScanInc (h : Head) (ty : RTy) (op : ROp) (d : Dst) (a : Src) (lit : Lit) (s : State) : Host.Outcome State Fault Refusal :=
  scanWord s h 0x5B true ty op d a lit

def execScanExc (h : Head) (ty : RTy) (op : ROp) (d : Dst) (a : Src) (lit : Lit) (s : State) : Host.Outcome State Fault Refusal :=
  scanWord s h 0x5C false ty op d a lit

end Sys2Proof.Machine
end

