-- ==== Sys2Proof/Machine/Fetch.lean ====
section
/-! DEFINITION. Fetching clauses (R54, R65, R107 to R111, R184, R209, R211): the steps CLAUSE_FETCH and CLAUSE_FETCH_MISS_FILL; entries of the operand
log with their fault records (R382, R383). -/

namespace Sys2Proof.Machine

open Sys2Proof

/-! ## The operand log (R382, R383) -/

/-- R383: the record of a page that a core's word has met a fault at. -/
def State.reportPage (s : State) (c page kind cause : Nat) : State := s.reportFault (s.tenantOf c) (page * 2 ^ 16) (s.asidOf c) c kind cause

/-- R382: an entry of the operand log, and the fault records of its pages. `none`: the log is full. -/
def State.logFault (s : State) (c : Nat) (e : LogEntry) : Option (State × Nat) :=
  match s.wg? c with
  | none => none
  | some w =>
    match SMap.lowestFree w.log Config.logEntries with
    | none => none
    | some n =>
      let s := s.modWg c fun w => { w with log := SMap.set w.log n e }
      some (e.faults.foldl (fun s p => s.reportPage c p.1 e.kind p.2) s, n)

/-- R382: the word of an entry meets a fault at a page: a further one of the entry's, unless it is there. -/
def State.logPage (s : State) (c n : Nat) (e : LogEntry) (page cause : Nat) : State :=
  if e.faults.any fun p => p.1 == page then s
  else (s.modWg c fun w => { w with log := SMap.set w.log n { e with faults := e.faults ++ [(page, cause)] } }).reportPage c page e.kind cause

/-! ## The instruction caches (R209) -/

/-- A line of a cluster's instruction cache. -/
def State.icLine (s : State) (c asid line : Nat) : Option (List Byte) :=
  ((s.die (dieOf c)).icache.find? fun l => l.1 == clusterOf c && l.2.1 == asid && l.2.2.1 == line).map fun l => l.2.2.2

/-- A line enters a cluster's cache; the cluster's line that entered first leaves a full one (log entry 82). -/
def icPut (cl : Nat) (ls : List (Nat × Nat × Nat × List Byte)) (l : Nat × Nat × Nat × List Byte) : List (Nat × Nat × Nat × List Byte) :=
  let (mine, rest) := ls.partition fun q => q.1 == cl
  (l :: mine).take Config.icacheLines ++ rest

def State.icFill (s : State) (c asid line : Nat) (bs : List Byte) : State :=
  s.modDie (dieOf c) fun d => { d with icache := icPut (clusterOf c) d.icache (clusterOf c, asid, line, bs) }

/-- A 64-bit word of code, if its line is cached; code is 8-byte aligned. -/
def State.icWord (s : State) (c asid va : Nat) : Option Word64 :=
  (s.icLine c asid (lineOf va)).map fun bs => BitVec.ofNat 64 (bytesToNat ((bs.drop (va % 128)).take 8))

/-- R107: the header is well formed. -/
def headerOk (h : Word64) : Bool :=
  let k := bits h.toNat 63 60
  (k ≤ 4 || k == 0xE) && bits h.toNat 31 24 == 0xC1 && bits h.toNat 23 0 == 0

/-- R106: the number of words after the header. -/
def headerWords (h : Word64) : Nat := bits h.toNat 59 56 + 1

/-- R108, R109: the words belong to the class, and no literal lies beyond the last one. -/
def clauseWordsOk (cls : Nat) : List Word64 → Bool
  | [] => true
  | [w] => classAllowed cls w && !ownsLiteral w.toNat
  | w :: l :: ws => classAllowed cls w && (if ownsLiteral w.toNat then clauseWordsOk cls ws else clauseWordsOk cls (l :: ws))
where
  /-- Unassigned opcodes are no clause errors. -/
  classAllowed (cls : Nat) (w : Word64) : Bool :=
    unassigned (opcodeOf w.toNat) || cls == 0xE || classOf (opcodeOf w.toNat) == 3 || classOf (opcodeOf w.toNat) == cls

def clauseOk (h : Word64) (ws : List Word64) : Bool := headerOk h && clauseWordsOk (bits h.toNat 63 60) ws

/-- The words that follow a header, if all are cached. -/
def State.icWords (s : State) (c asid va : Nat) : Nat → Option (List Word64)
  | 0 => some []
  | n + 1 =>
    match s.icWord c asid va, State.icWords s c asid (va + 8) n with
    | some w, some ws => some (w :: ws)
    | _, _ => none

/-- A whole clause from the cluster's cache: the header alone where it is ill formed. -/
def State.icClause (s : State) (c asid : Nat) (hdr : Word64) : Option (Word64 × List Word64) :=
  match s.icWord c asid hdr.toNat with
  | none => none
  | some h =>
    if headerOk h then (s.icWords c asid (hdr.toNat + 8) (headerWords h)).map fun ws => (h, ws) else some (h, [])

/-- R209: a whole clause from the loop buffer, unless it is stale (R211). -/
def State.loopClause (s : State) (c asid : Nat) (hdr : Word64) : Option (Word64 × List Word64) :=
  let x := s.core c
  if x.loopStale then none
  else (x.loop.find? fun l => l.asid == asid && l.addr == hdr.toNat).bind fun l =>
    match l.words with
    | [] => none
    | h :: ws => some (h, ws)

/-- R211, R209: a stale loop buffer is flushed; the clause enters it. -/
def Core.loopFill (x : Core) (asid : Nat) (hdr : Word64) (ws : List Word64) : Core :=
  let old := if x.loopStale then [] else x.loop.filter fun l => !(l.asid == asid && l.addr == hdr.toNat)
  { x with loopStale := false, loop := (⟨hdr.toNat, asid, ws⟩ :: old).take 8 }

/-! ## CLAUSE_FETCH -/

/-- R54, R109: the group has its clause and goes on at the word where it stands, or the clause is ill formed. The masks of a clause entered at its header
are still to be tested. -/
def State.takeClause (s : State) (c g : Nat) (cl : Word64 × List Word64) : State :=
  match s.group? c g with
  | none => s
  | some x =>
    if clauseOk cl.1 cl.2 && decide (x.wix ≤ cl.2.length) then
      let s := s.modCore c fun k => k.loopFill (s.asidOf c) x.hdr (cl.1 :: cl.2)
      s.modGroup c g fun x =>
        { x with fetched := true, header := cl.1, words := cl.2, wix := max 1 x.wix, wait := none }
    else s.raise c ⟨cIllegalClause, 0, g, laneMask (lanesOf x) % 2 ^ 32, x.hdr⟩ (laneMask (lanesOf x))

/-- R65: threads at the label of their record are held. -/
def State.holdThreads (s : State) (c g : Nat) : State :=
  match s.wg? c, s.group? c g with
  | some w, some x =>
    let held := if x.wix = 0 then w.meetHeld x else []
    if held.isEmpty then s
    else
      let ck := (s.core c).ck
      let s := s.modWg c fun w => (w.spawnAll x.hdr 0 true ck held).countHeld held
      (s.leave c g held).settle c
  | _, _ => s

/-- R386, R217: code lies in translated memory. -/
def codeAddr (va : Word64) : Bool := vaOk va && !isWindow va.toNat

/-- A group can fetch now: its workgroup issues, it lacks its clause, and no earlier fetch is under way. -/
def State.canFetch (s : State) (c g : Nat) : Bool :=
  match s.wg? c, s.group? c g with
  | some w, some x => w.halt.isNone && !w.saving && !x.fetched && x.wait != some .clauseMiss && x.wait != some .clauseFault
  | _, _ => false

/-- R109, R65, R184: CLAUSE_FETCH. -/
def execClauseFetch (core grp : Nat) (s : State) : Host.Outcome State Fault Refusal :=
  if !s.canFetch core grp then .next s
  else
    let s := s.holdThreads core grp
    match s.group? core grp with
    | none => .next s
    | some x =>
      if !codeAddr x.hdr || x.hdr.toNat % 8 != 0 then
        .next (s.raise core ⟨cAddrFault, 0, grp, laneMask (lanesOf x) % 2 ^ 32, x.hdr⟩ (laneMask (lanesOf x)))
      else
        let asid := s.asidOf core
        match (s.loopClause core asid x.hdr).orElse fun _ => s.icClause core asid x.hdr with
        | some cl => .next (s.takeClause core grp cl)
        | none => .next (s.setWait core grp (some .clauseMiss))

/-! ## CLAUSE_FETCH_MISS_FILL -/

/-- R386: a fault on a clause fetch blocks the group at the header; while the log is full it waits. -/
def State.fetchFault (s : State) (c g va cause : Nat) : State :=
  match s.group? c g with
  | none => s
  | some x =>
    let e : LogEntry := { word := 0, pc := x.hdr, mask := BitVec.ofNat 64 (laneMask (lanesOf x)), parkedWrite := false, gslot := g, op := x.uid,
                          faults := [(pageOf va, cause)], kind := 3, addrs := [BitVec.ofNat 64 va], datas := [] }
    match s.logFault c e with
    | none => s
    | some (s, _) => s.setWait c g (some .clauseFault)

/-- Lines of code enter the cluster's cache, up to the first that faults: its address and cause, 5 for a line that is moving, 6 for one that is
poisoned. -/
def State.fillLines (s : State) (c asid line : Nat) : Nat → State × Option (Nat × Nat)
  | 0 => (s, none)
  | n + 1 =>
    match s.icLine c asid line with
    | some _ => State.fillLines s c asid (line + 1) n
    | none =>
      match s.place asid (128 * line) needFetch with
      | (s, .fault k) => (s, some (128 * line, k))
      | (s, .held) => (s, some (128 * line, 5))
      | (s, .at k) =>
        if s.isPoisoned k 128 then (s, some (128 * line, 6))
        else State.fillLines ((s.hearHome c (128 * line)).icFill c asid line (Mem.readBytes s.mem k 128)) c asid (line + 1) n

/-- R184: CLAUSE_FETCH_MISS_FILL: first the header's line, then those of the words. -/
def execClauseFetchMissFill (core grp : Nat) (s : State) : Host.Outcome State Fault Refusal :=
  match s.wg? core, s.group? core grp with
  | some w, some x =>
    if x.wait != some .clauseMiss || w.saving then .next s
    else
      let asid := s.asidOf core
      let r := s.fillLines core asid (lineOf x.hdr.toNat) 1
      let r := match r with
        | (s, none) =>
          match s.icWord core asid x.hdr.toNat with
          | some h =>
            if headerOk h then
              s.fillLines core asid (lineOf x.hdr.toNat) (lineOf (x.hdr.toNat + 8 * headerWords h) + 1 - lineOf x.hdr.toNat)
            else (s, none)
          | none => (s, none)
        | r => r
      match r with
      | (s, none) => .next (s.setWait core grp none)
      | (s, some (va, k)) =>
        if k = 5 then .next s
        else if k = 6 then .next (s.machineCheck core cMemUncorrectable)
        else .next (s.fetchFault core grp va k)
  | _, _ => .next s

/-! ## Bad targets (R185) -/

/-- The header at an address, as a fetch by the core would find it; `none`: a byte of it is unmapped or not executable. -/
def State.peekHeader (s : State) (c : Nat) (va : Word64) : Option Word64 :=
  if !codeAddr va then none
  else
    let asid := s.asidOf c
    match s.placeOf asid va.toNat needFetch with
    | .error _ => none
    | .ok k =>
      match s.loopClause c asid va with
      | some cl => some cl.1
      | none =>
        match s.icWord c asid va.toNat with
        | some h => some h
        | none => some (BitVec.ofNat 64 (s.memNat k 8))

/-- R111: the landing bit. -/
def headerL (h : Word64) : Bool := bits h.toNat 55 55 == 1

/-- R185: an offset from the entry clause that is no target. -/
def State.badTarget (s : State) (x : Ctx) (needL : Bool) (off : Nat) : Bool :=
  off % 8 != 0 ||
    match s.peekHeader x.c (x.r.entry + BitVec.ofNat 64 off) with
    | none => true
    | some h => needL && !headerL h

end Sys2Proof.Machine
end

