-- ==== Sys2Proof/Machine/Control.lean ====
section
/-! DEFINITION. Branches, calls, meetings and the other control words but barriers (R180 to R193, R199 to R205): opcodes 0x60 to 0x71, 0x78 to 0x7C;
the delivery of coordinates (R70 to R73). A control word that writes no register completes, for its counter, when its issue ends (log entry 23). -/

namespace Sys2Proof.Machine

open Sys2Proof

/-! ## The frame of the control row -/

/-- R180: an xreg that may be named. -/
def xregOk (x : Ctx) (r : XReg) : Bool := if r.sca then decide (r.r.toNat < 64) else decide (r.r.toNat < x.r.v)

/-- R185, R192: the value of an xreg in a lane. -/
def xregVal (x : Ctx) (r : XReg) (slot : Nat) : Word32 := if r.sca then x.read (.sca x.grp.uid r.r.toNat) else x.read (.vec slot r.r.toNat)

def xregLocs (x : Ctx) (r : XReg) : List Loc :=
  if r.sca then (if x.ex.isEmpty then [] else [.sca x.grp.uid r.r.toNat]) else x.ex.map fun l => .vec l.2 r.r.toNat

/-- A word of the control row. -/
def control (s : State) (h : Head) (op : Nat) (illegal : Ctx → Bool) (reads writes : Ctx → List Loc) (eff : Ctx → State → Res) :
    Host.Outcome State Fault Refusal :=
  word s h op none illegal (fun x => headLocs x ++ reads x) writes eff

/-- R116: a direct target. -/
def directTarget (x : Ctx) (t : BitVec 24) : Word64 := x.grp.hdr + t.signExtend 64 * 8

/-- The thread slots that execute, and those that do not. -/
def exSlots (x : Ctx) : List Nat := x.ex.map (·.2)
def idleSlots (x : Ctx) : List Nat := x.grp.slots.filter fun t => !(exSlots x).contains t

/-! ## Direct branches (R182, R183) -/

/-- R182, R56: the taken lanes go to the target; the larger side stays as the group. The group already stands at its next word. -/
def State.splitTo (s : State) (x : Ctx) (tgt : Word64) : State :=
  let taken := exSlots x
  let other := idleSlots x
  if taken.isEmpty then s
  else if other.isEmpty then s.modGroup x.c x.g (·.goto tgt)
  else if other.length ≤ taken.length then
    let n := x.grp.next false
    let s := s.modWg x.c fun w => w.spawnAll n.pc n.wix false x.now other
    (s.leave x.c x.g other).modGroup x.c x.g (·.goto tgt)
  else
    let s := s.modWg x.c fun w => w.spawnAll tgt 0 false x.now taken
    s.leave x.c x.g taken

def execNop (h : Head) (dk : Bool) (s : State) : Host.Outcome State Fault Refusal :=
  control s h 0x60 (fun _ => dk) (fun _ => []) (fun _ => []) fun x s => .done (s.advance x)

def execBra (h : Head) (dk : Bool) (target : BitVec 24) (s : State) : Host.Outcome State Fault Refusal :=
  control s h 0x61 (fun _ => dk) (fun _ => []) (fun _ => []) fun x s => .done ((s.advance x).splitTo x (directTarget x target))

def execBraU (h : Head) (dk : Bool) (target : BitVec 24) (s : State) : Host.Outcome State Fault Refusal :=
  control s h 0x62 (fun _ => dk) (fun _ => []) (fun _ => []) fun x s =>
    if !x.ex.isEmpty && !(idleSlots x).isEmpty then .exc cIllegalConvergence 0
    else .done ((s.advance x).splitTo x (directTarget x target))

/-! ## Indirect targets (R185 to R187) -/

/-- Where a lane goes: an address and a position in its clause. -/
abbrev Place := Word64 × Nat

/-- R187: a thread with a bad target leaves its group and stops at the word. -/
def State.stopThread (s : State) (x : Ctx) (slot : Nat) : State :=
  s.modWg x.c fun w => w.modThread slot fun t => { t with stat := .stopped, stopPc := x.pc }

/-- The least thread id first. -/
def lowestTid (x : Ctx) (slots : List Nat) : Option Nat :=
  minBy (fun a b => decide (((SMap.get? x.wg.threads a).map (·.tid.toNat)).getD 0 < ((SMap.get? x.wg.threads b).map (·.tid.toNat)).getD 0)) slots

/-- R424: each bad thread raises BAD_TARGET, in ascending lane order. -/
def State.raiseBad (s : State) (x : Ctx) (bad : List Nat) : State :=
  bad.foldl (fun s t => s.raise x.c ⟨cBadTarget, 1, t, laneMask (x.lanes.filter fun l => l.2 == t) % 2 ^ 32, x.pc⟩ (laneMask (x.lanes.filter fun l => l.2 == t))) s

/-- R186: the lanes of the group go to their places; those that are bad stop. `place` gives each lane's place; the group stands at its next word. -/
def State.resolve (s : State) (x : Ctx) (bad : List Nat) (place : Nat → Place) : State :=
  let good := x.grp.slots.filter fun t => !bad.contains t
  let s := bad.foldl (fun s t => s.stopThread x t) s
  let s := match lowestTid x good with
    | none => s
    | some t0 =>
      let move := good.filter fun t => place t != place t0
      let s := s.modWg x.c fun w => move.foldl (fun w t => w.spawnThread (place t).1 (place t).2 false x.now t) w
      let s := (s.modGroup x.c x.g (·.without move))
      let p := place t0
      if p.2 = 0 then s.modGroup x.c x.g (·.goto p.1) else s
  (s.leave x.c x.g bad).raiseBad x bad

/-- The place of a lane under an indirect word: its target where it executes, else the next word. -/
def indirectPlace (x : Ctx) (r : XReg) (slot : Nat) : Place :=
  if (exSlots x).contains slot then (x.r.entry + BitVec.ofNat 64 (xregVal x r slot).toNat, 0)
  else ((x.grp.next false).pc, (x.grp.next false).wix)

/-- The executing threads whose target is bad. -/
def badThreads (s : State) (x : Ctx) (needL : Bool) (r : XReg) : List Nat :=
  (exSlots x).filter fun t => s.badTarget x needL (xregVal x r t).toNat

def execBrx (h : Head) (dk : Bool) (r : XReg) (s : State) : Host.Outcome State Fault Refusal :=
  control s h 0x63 (fun x => dk || !xregOk x r) (fun x => xregLocs x r) (fun _ => []) fun x s =>
    .done ((s.advance x).resolve x (badThreads s x true r) (indirectPlace x r))

/-! ## Calls and returns (R188 to R190) -/

/-- R188: the offset from the entry of the clause that follows, where it is a u32. -/
def returnOffset (x : Ctx) : Option Word32 :=
  let nxt := x.grp.hdr.toNat + 8 * (x.grp.words.length + 1)
  if x.r.entry.toNat ≤ nxt ∧ nxt - x.r.entry.toNat < 2 ^ 32 then some (BitVec.ofNat 32 (nxt - x.r.entry.toNat)) else none

def linkWrites (ld : BitVec 8) (off : Word32) (slots : List Nat) : List (Loc × Word32) := slots.map fun t => (.vec t ld.toNat, off)

def execCall (h : Head) (dk : Bool) (ld : BitVec 8) (target : BitVec 24) (s : State) : Host.Outcome State Fault Refusal :=
  control s h 0x64 (fun x => dk || decide (x.r.v ≤ ld.toNat)) (fun _ => []) (fun x => x.ex.map fun l => .vec l.2 ld.toNat) fun x s =>
    match returnOffset x with
    | some off => .done (((s.advance x).commit x 4 false (linkWrites ld off (exSlots x))).splitTo x (directTarget x target))
    | none => .done ((s.advance x).resolve x (exSlots x) fun _ => ((x.grp.next false).pc, (x.grp.next false).wix))

def execCallx (h : Head) (dk : Bool) (ld : BitVec 8) (r : XReg) (s : State) : Host.Outcome State Fault Refusal :=
  control s h 0x65 (fun x => dk || !xregOk x r || decide (x.r.v ≤ ld.toNat)) (fun x => xregLocs x r)
    (fun x => x.ex.map fun l => .vec l.2 ld.toNat) fun x s =>
    match returnOffset x with
    | some off =>
      let bad := badThreads s x true r
      let good := (exSlots x).filter fun t => !bad.contains t
      .done (((s.advance x).commit x 4 false (linkWrites ld off good)).resolve x bad (indirectPlace x r))
    | none => .done ((s.advance x).resolve x (exSlots x) fun _ => ((x.grp.next false).pc, (x.grp.next false).wix))

def execRet (h : Head) (dk : Bool) (r : XReg) (s : State) : Host.Outcome State Fault Refusal :=
  control s h 0x66 (fun x => dk || !xregOk x r) (fun x => xregLocs x r) (fun _ => []) fun x s =>
    .done ((s.advance x).resolve x (badThreads s x false r) (indirectPlace x r))

/-! ## Meetings (R191, R192) -/

def slotMr (x : Ctx) (slot : Nat) : Word32 := ((SMap.get? x.wg.threads slot).map (·.mr)).getD 0

/-- R64, R191. Of several free records the manual names none: the model takes the lowest (log entry 79). The previous mr is there within 6 ck. -/
def execMeet (h : Head) (dk : Bool) (ld : BitVec 8) (target : BitVec 24) (s : State) : Host.Outcome State Fault Refusal :=
  control s h 0x70 (fun x => dk || decide (x.r.v ≤ ld.toNat)) (fun _ => []) (fun x => x.grp.slots.map fun t => .vec t ld.toNat) fun x s =>
    let mr := slotMr x (x.grp.slots.headD 0)
    if x.grp.slots.any fun t => slotMr x t != mr then .exc cIllegalConvergence 0
    else
      match SMap.lowestFree x.wg.meet Config.meetRecords with
      | none => .exc cMeetTableFull 0
      | some n =>
        let s := (s.advance x).commit x 6 true (x.grp.slots.map fun t => (.vec t ld.toNat, mr)) true
        .done (s.modWg x.c fun w =>
          x.grp.slots.foldl (fun w t => w.modThread t fun th => { th with mr := BitVec.ofNat 32 (32 + n) })
            { w with meet := SMap.set w.meet n ⟨directTarget x target, x.grp.slots.length, 0, mr⟩ })

/-- R192. -/
def execMrset (h : Head) (dk : Bool) (r : XReg) (s : State) : Host.Outcome State Fault Refusal :=
  control s h 0x71 (fun x => dk || !xregOk x r) (fun x => xregLocs x r) (fun _ => []) fun x s =>
    if (exSlots x).any fun t => (xregVal x r t).toNat / 64 != 0 then .exc cIllegalOperand 0
    else if (exSlots x).any fun t => match mrRec (xregVal x r t) with
        | some n => (SMap.get? x.wg.meet n).isNone
        | none => false then .exc cIllegalConvergence 0
    else .done ((s.advance x).modWg x.c fun w =>
      (exSlots x).foldl (fun w t => w.modThread t fun th => { th with mr := xregVal x r t }) w)

/-! ## Work from the dispenser (R70 to R73, R199 to R201) -/

/-- R70: interleaving of the low bits of coordinates to a Morton key, from bit `i` on. -/
def mortonKey (d : Nat) (p : Nat × Nat × Nat) : Nat :=
  (List.range 32).foldl (fun k i =>
    k + p.1 / 2 ^ i % 2 * 2 ^ (d * i) + (if 2 ≤ d then p.2.1 / 2 ^ i % 2 * 2 ^ (d * i + 1) else 0) +
      (if d = 3 then p.2.2 / 2 ^ i % 2 * 2 ^ (d * i + 2) else 0)) 0

/-- The coordinates that a Morton key stands for. -/
def mortonCoords (d key : Nat) : Nat × Nat × Nat :=
  let part (o : Nat) : Nat := (List.range 32).foldl (fun v i => v + key / 2 ^ (d * i + o) % 2 * 2 ^ i) 0
  (part 0, if 2 ≤ d then part 1 else 0, if d = 3 then part 2 else 0)

/-- The first Morton key at or after one whose coordinates lie inside the extents; `fuel` bounds the search. -/
def mortonNext (d x y z : Nat) : Nat → Nat → Nat
  | 0, key => key
  | fuel + 1, key =>
    let p := mortonCoords d key
    if p.1 < x ∧ p.2.1 < y ∧ p.2.2 < z then key else mortonNext d x y z fuel (key + 1)

/-- The number of Morton keys that cover the extents. -/
def mortonSpan (d x y z : Nat) : Nat := mortonKey d (x - 1, y - 1, z - 1) + 1 + 2 ^ (d * (Nat.log2 (max x (max y z)) + 1))

/-- R70, R74: the next coordinate, returned ones first in ascending order. -/
def Dispenser.take (p : Dispenser) (r : LaunchRec) : Option (Word32 × Dispenser) :=
  match p.returned with
  | v :: vs => some (BitVec.ofNat 32 v, { p with returned := vs })
  | [] =>
    if p.given < p.extent then
      if r.morton then
        let (x, y, z) := (max r.x 1, max r.y 1, max r.z 1)
        let k := mortonNext (r.dims) x y z (mortonSpan r.dims x y z) p.pos
        let c := mortonCoords r.dims k
        some (BitVec.ofNat 32 (c.1 + x * (c.2.1 + y * c.2.2)), { p with pos := k + 1, given := p.given + 1 })
      else some (BitVec.ofNat 32 p.pos, { p with pos := p.pos + 1, given := p.given + 1 })
    else none

/-- Coordinates that can be delivered now. -/
def Dispenser.left (p : Dispenser) : Nat := p.returned.length + (p.extent - p.given)

/-- R200, R201: a request of so many coordinates waits in a stream that may still grow. -/
def Dispenser.mustWait (p : Dispenser) (r : LaunchRec) (n : Nat) : Bool := r.stream && !p.ended && decide (p.left < n)

/-- `n` coordinates in order, 0xFFFF_FFFF and a false predicate for those that do not remain. -/
def Dispenser.takeN (p : Dispenser) (r : LaunchRec) : Nat → List (Word32 × Bool) × Dispenser
  | 0 => ([], p)
  | n + 1 =>
    match p.take r with
    | some (v, p) => let (vs, p) := Dispenser.takeN p r n; ((v, true) :: vs, p)
    | none => let (vs, p) := Dispenser.takeN p r n; ((0xFFFFFFFF, false) :: vs, p)

/-- The places that a fetch writes: the destination and the predicate of each executing lane. -/
def fetchLocs (vec : Bool) (uid dst pred : Nat) (slots : List Nat) : List Loc :=
  (if vec then slots.map fun t => Loc.vec t dst else [.sca uid dst]) ++ (if pred = 7 then [] else slots.map fun t => .pred t pred)

/-- R199 to R201, R73: the request goes to the hub; the old lease ends. In a stream with too little left the group blocks at the word: the request waits in its
place at the hub, and nothing of the word has taken effect. -/
def fetchEff (vec : Bool) (dst pred : Nat) (x : Ctx) (s : State) : Res :=
  if x.ex.isEmpty then .done (s.advance x)
  else if x.l.disp.reqs.any fun q => q.uid == x.grp.uid && q.blocked then .wait .streamFetch
  else
    let slots := exSlots x
    let n := if vec then slots.length else 1
    let ahead := x.l.disp.reqs.foldl (fun m q => m + if q.vec then q.lanes.length else 1) 0
    let block := x.l.disp.mustWait x.r (ahead + n)
    let req : FetchReq := ⟨x.c, x.grp.uid, vec, dst, pred, x.h.ct.toNat, slots, block, s.nextId⟩
    let s1 := (if block then s else (s.advance x).incCt x).modLaunch x.l.uid fun l => { l with disp := { l.disp with reqs := l.disp.reqs ++ [req] } }
    if block then .hold s1.fresh .streamFetch
    else
      let s1 := s1.modWg x.c fun w =>
        { w with pend := w.pend ++ (fetchLocs vec x.grp.uid dst pred slots).map fun p => (s.nextId, p) }
      let s1 := if vec then s1.modWg x.c fun w => slots.foldl (fun w t => w.modThread t fun th => { th with lease := none }) w
        else s1.modGroup x.c x.g fun g => { g with lease := none }
      .done s1.fresh

def execFetch (h : Head) (dk : Bool) (ld : BitVec 8) (p : BitVec 3) (s : State) : Host.Outcome State Fault Refusal :=
  control s h 0x78 (fun _ => !dk || !scaOk ld 1) (fun _ => [])
    (fun x => if x.ex.isEmpty then [] else fetchLocs false x.grp.uid ld.toNat p.toNat (exSlots x)) (fetchEff false ld.toNat p.toNat)

def execFetchV (h : Head) (dk : Bool) (ld : BitVec 8) (p : BitVec 3) (s : State) : Host.Outcome State Fault Refusal :=
  control s h 0x79 (fun x => dk || decide (x.r.v ≤ ld.toNat)) (fun _ => [])
    (fun x => fetchLocs true x.grp.uid ld.toNat p.toNat (exSlots x)) (fetchEff true ld.toNat p.toNat)

/-- Results of a variable-latency word that complete in a ck: written where they are still awaited, which they then are no longer (R129). -/
def Wg.deliver (w : Wg) (ck id : Nat) (ws : List (Loc × Word32)) : Wg :=
  let w := ws.foldl (fun w p => if w.pend.contains (id, p.1) then w.land ck p else w) w
  { w with pend := w.pend.filter fun p => p.1 != id }

/-- R126: the place and the stall field of a group whose blocked word takes effect in a ck: the word's issue ends then. -/
def Group.unblock (g : Group) (ck : Nat) : Group :=
  let h := headOf (g.words.getD (g.wix - 1) 0).toNat
  { g.skip with
    wait := none, lastIssue := ck
    notBefore := ck + (if h.stall = 15 then 1 else max h.stall.toNat 1)
    settle := h.stall = 15 }

/-- The registers and the predicates of a fetch that its coordinates fill. -/
def FetchReq.results (q : FetchReq) (vs : List (Word32 × Bool)) : List (Loc × Word32) :=
  let v0 := vs.headD (0xFFFFFFFF, false)
  let regs : List (Loc × Word32) := if q.vec then (q.lanes.zip vs).map fun p => (.vec p.1 q.dst, p.2.1) else [(.sca q.uid q.dst, v0.1)]
  let prs : List (Loc × Word32) := if q.pred = 7 then []
    else (if q.vec then (q.lanes.zip vs).map fun p => (.pred p.1 q.pred, b32 p.2.2) else q.lanes.map fun t => (.pred t q.pred, b32 v0.2))
  regs ++ prs

/-- R71, R199, R200: the coordinates of a request are written, with the predicates and leases, in the threads that still await them (R73, R77). A blocked word takes
effect with them (R201, R126). -/
def State.deliverFetch (s : State) (q : FetchReq) (vs : List (Word32 × Bool)) : State :=
  let v0 := vs.headD (0xFFFFFFFF, false)
  let ck := (s.core q.core).ck
  let waits : List Loc := match s.wg? q.core with
    | some w => if q.blocked then (if (w.groupByUid q.uid).isSome then fetchLocs q.vec q.uid q.dst 7 q.lanes else []) else (w.pend.filter (·.1 == q.id)).map (·.2)
    | none => []
  let s := s.modWg q.core fun w =>
    if q.blocked then (if waits.isEmpty then w else (q.results vs).foldl (fun w p => w.land ck p) w) else w.deliver ck q.id (q.results vs)
  let s := if q.vec then s.modWg q.core fun w => ((q.lanes.zip vs).filter fun p => waits.contains (.vec p.1 q.dst)).foldl (fun w p =>
        w.modThread p.1 fun th => { th with lease := if p.2.2 then some p.2.1 else none }) w
    else s.modWg q.core fun w => w.modUid q.uid fun g => { g with lease := if v0.2 then some v0.1 else none }
  if q.blocked then s.modWg q.core fun w => w.modUid q.uid fun g => g.unblock ck
  else s.decCt q.core q.uid q.ct

/-- R131: with the checking scoreboard on, a blocked fetch that comes to take effect meets a write still to come to one of its destinations, or to the guard that its
lanes were taken by. -/
def State.fetchStalls (s : State) (l : Launch) (q : FetchReq) : Option Nat :=
  match s.wg? q.core with
  | some w =>
    match w.groupByUid q.uid with
    | some (g, x) =>
      let guard := (headOf (x.words.getD (x.wix - 1) 0).toNat).pred
      let reads : List Loc := if guard = 7 then [] else q.lanes.map fun t => .pred t guard.toNat
      if q.blocked && l.rcd.chk && (reads ++ fetchLocs q.vec q.uid q.dst q.pred q.lanes).any (w.busyAt (s.core q.core).ck) then some g else none
    | none => none
  | none => none

/-- R71: COORDINATE_DELIVERY: the dispenser serves the request at its head; the reply carries the hub's generation (R396). -/
def execCoordinateDelivery (launch : Nat) (s : State) : Host.Outcome State Fault Refusal :=
  match s.launch? launch with
  | none => .next s
  | some l =>
    match l.disp.reqs with
    | [] => .next s
    | q :: qs =>
      let n := if q.vec then q.lanes.length else 1
      if l.disp.mustWait l.rcd n then .next s
      else
        match s.fetchStalls l q with
        | some g =>
          let s := s.modLaunch launch fun l => { l with disp := { l.disp with reqs := qs } }
          .next (match s.group? q.core g with
            | some x => s.raise q.core ⟨cStallCheck, 0, g, laneMask ((lanesOf x).filter fun p => q.lanes.contains p.2) % 2 ^ 32, x.pc⟩ (laneMask ((lanesOf x).filter fun p => q.lanes.contains p.2))
            | none => s)
        | none =>
          let (vs, p) := ({ l.disp with reqs := qs } : Dispenser).takeN l.rcd n
          let s := (s.modLaunch launch fun l => { l with disp := p }).hear q.core (s.tenant l.tenant).hubGen
          .next (s.deliverFetch q vs)

/-! ## Ending threads and the rest (R202 to R204) -/

def execExit (h : Head) (dk : Bool) (s : State) : Host.Outcome State Fault Refusal :=
  control s h 0x7A (fun _ => dk) (fun _ => []) (fun _ => []) fun x s =>
    if x.ex.isEmpty then .done (s.advance x) else .done ((s.advance x).endThreads x.c x.g (exSlots x))

/-- R78, R203: the threads of the group stop to count, and the group waits until every thread of the workgroup has arrived. -/
def execTail (h : Head) (dk : Bool) (s : State) : Host.Outcome State Fault Refusal :=
  control s h 0x7B (fun _ => dk) (fun _ => []) (fun _ => []) fun x s =>
    if x.grp.slots.any fun t => (mrRec (slotMr x t)).isSome then .exc cIllegalConvergence 0
    else if x.grp.slots.all fun t => ((SMap.get? x.wg.threads t).map (·.stat)) == some .atTail then .wait .tail
    else
      let s := s.advanceTo x.c x.now
      let s := s.modWg x.c fun w => { (x.grp.slots.foldl (fun w t => w.modThread t fun th => { th with stat := .atTail, arr := [] }) w) with
        lastIssue := x.now }
      .hold (((s.emptied x.c x.wg).settle x.c).checkRetire x.c) .tail

def execYield (h : Head) (dk : Bool) (s : State) : Host.Outcome State Fault Refusal :=
  control s h 0x7C (fun _ => dk) (fun _ => []) (fun _ => []) fun x s =>
    if x.ex.isEmpty then .done (s.advance x)
    else .done ((s.advance x).modGroup x.c x.g fun g =>
      { g.goto (x.grp.hdr + BitVec.ofNat 64 (8 * (x.grp.words.length + 1))) with lastIssue := x.fin })

/-! ## The step of R128 -/

/-- R128: FIXED_LATENCY_RESULT. -/
def execFixedLatencyResult (core op : Nat) (s : State) : Host.Outcome State Fault Refusal := .next (s.completeFlight core op)

end Sys2Proof.Machine
end

