-- ==== Sys2Proof/Machine/Barrier.lean ====
section
/-! DEFINITION. Barriers (R194 to R198): opcodes 0x72 to 0x77, the completion that comes from the Plaza, and the timeout at TAIL (R203). -/

namespace Sys2Proof.Machine

open Sys2Proof

/-- The barrier of a word: 0 the workgroup's, 1 to 4 a stage's. -/
def barOf (x : Ctx) (stageForm : Bool) : Nat := if stageForm then x.grp.stage + 1 else 0
/-- The barrier of a BARG word. -/
def bargOf (launchForm : Bool) : Nat := if launchForm then 6 else 5

def slotArr (w : Wg) (b slot : Nat) : Option Nat := (SMap.get? w.threads slot).bind fun t => SMap.get? t.arr b

/-- R195: the phase of the thread's arrival has not completed. -/
def Wg.arrivalOpen (w : Wg) (b slot : Nat) : Bool := match slotArr w b slot with | some p => decide (w.phase b ≤ p) | none => false

/-- R195: the threads of the group that arrive now: those not counted yet under this word whose earlier arrival, if any, has completed. -/
def arriveNow (x : Ctx) (b : Nat) : List Nat := x.grp.slots.filter fun t => !x.grp.arrived.contains t && !x.wg.arrivalOpen b t

/-- R195, R196, R396: the arrivals are counted, and a phase that is full completes. The Plaza hears the generation of an arriving core. -/
def State.arrive (s : State) (x : Ctx) (b : Nat) (ts : List Nat) : State :=
  let s := s.modWg x.c fun w => ts.foldl (fun w t => w.modThread t fun th => { th with arr := SMap.set th.arr b (w.phase b) }) w
  let s := s.modGroup x.c x.g fun g => { g with arrived := g.arrived ++ ts }
  let s := if b < 5 then s else s.hubHear x.l.tenant (s.core x.c).ms
  (s.modWg x.c Wg.settleBars).settlePlaza x.wg.launch

/-- R270: what the acquire of a completed barrier drops from the L1. -/
def barScope (b : Nat) : Scope := if b = 5 then .gang else if b = 6 then .dev else .wg

/-- R195: every thread of the group has passed the phase of its arrival: the bits are cleared and the group goes on. -/
def waitEff (b : Nat) (x : Ctx) (s : State) : Res :=
  match s.wg? x.c with
  | none => .wait .barrier
  | some w =>
    if x.grp.slots.any fun t => w.arrivalOpen b t then .hold s .barrier
    else
      let s := (s.advance x).modWg x.c fun w =>
        x.grp.slots.foldl (fun w t => w.modThread t fun th => { th with arr := SMap.del th.arr b }) w
      .done ((s.modGroup x.c x.g fun g => { g with arrived := [] }).acquireAt x.c (barScope b))

/-- R195: the arrival of a plain or `.arv` form, then its end. An arrival is a release (R197, R269). -/
def arriveEff (b : Nat) (plain : Bool) (x : Ctx) (s : State) : Res :=
  let go (s : State) : Res :=
    let ts := arriveNow x b
    let s := s.arrive x b ts
    if (x.grp.arrived ++ ts).length < x.grp.slots.length then .hold s .barrier
    else if plain then waitEff b x s
    else .done ((s.advance x).modGroup x.c x.g fun g => { g with arrived := [] })
  if (arriveNow x b).isEmpty then go s else releaseGate x s go

/-- R198: an arrival at a gang or launch barrier waits while a phase of the other kind is in progress. -/
def otherPhaseOn (x : Ctx) (s : State) (b : Nat) : Bool :=
  if b = 6 then s.gangPhaseOn x.wg.launch else if b = 5 then s.launchPhaseOn x.wg.launch else false

def arriveWord (s : State) (h : Head) (op : Nat) (dk plain : Bool) (b : Ctx → Nat) : Host.Outcome State Fault Refusal :=
  control s h op (fun _ => dk) (fun _ => []) (fun _ => []) fun x s =>
    if !(arriveNow x (b x)).isEmpty && otherPhaseOn x s (b x) then .wait .barrier else arriveEff (b x) plain x s

def waitWord (s : State) (h : Head) (op : Nat) (dk : Bool) (b : Ctx → Nat) : Host.Outcome State Fault Refusal :=
  control s h op (fun _ => dk) (fun _ => []) (fun _ => []) fun x s =>
    if x.grp.slots.any fun t => (slotArr x.wg (b x) t).isNone then .exc cIllegalConvergence 0 else waitEff (b x) x s

def execBar (h : Head) (dk stageForm : Bool) (s : State) : Host.Outcome State Fault Refusal :=
  arriveWord s h 0x72 dk true fun x => barOf x stageForm

def execBarArv (h : Head) (dk stageForm : Bool) (s : State) : Host.Outcome State Fault Refusal :=
  arriveWord s h 0x73 dk false fun x => barOf x stageForm

def execBarWait (h : Head) (dk stageForm : Bool) (s : State) : Host.Outcome State Fault Refusal :=
  waitWord s h 0x74 dk fun x => barOf x stageForm

def execBarg (h : Head) (dk launchForm : Bool) (s : State) : Host.Outcome State Fault Refusal :=
  arriveWord s h 0x75 dk true fun _ => bargOf launchForm

def execBargArv (h : Head) (dk launchForm : Bool) (s : State) : Host.Outcome State Fault Refusal :=
  arriveWord s h 0x76 dk false fun _ => bargOf launchForm

def execBargWait (h : Head) (dk launchForm : Bool) (s : State) : Host.Outcome State Fault Refusal :=
  waitWord s h 0x77 dk fun _ => bargOf launchForm

/-- R198: PLAZA_BARRIER_COMPLETE: the phase that the Plaza has reached becomes known to a member core. -/
def execPlazaBarrierComplete (core : Nat) (launchForm : Bool) (s : State) : Host.Outcome State Fault Refusal :=
  match s.wg? core, s.launchOf core with
  | some w, some l =>
    let s := s.hear core (s.tenant l.tenant).hubGen
    .next (s.modWg core fun v => { v with phases := SMap.set v.phases (bargOf launchForm) (l.plazaPhase (if launchForm then 64 else w.gang)) })
  | _, _ => .next s

/-- R203: TAIL_DEADLOCK_TIMEOUT: every thread waits at TAIL or is held at a meeting, some are held, and nothing has issued for 4096 ck. -/
def execTailDeadlockTimeout (core : Nat) (s : State) : Host.Outcome State Fault Refusal :=
  match s.wg? core with
  | none => .next s
  | some w =>
    if w.halt.isNone && !w.retired && w.threads.all (fun t => t.2.stat == .atTail || t.2.stat == .held) &&
        w.threads.any (fun t => t.2.stat == .held) && w.threads.any (fun t => t.2.stat == .atTail) then
      let s := s.advanceTo core (w.lastIssue + 4096)
      .next (s.raise core ⟨cIllegalConvergence, 2, 0, 0, 0⟩)
    else .next s

end Sys2Proof.Machine
end

