-- ==== Sys2Proof/Machine/Roundabout.lean ====
section
/-! DEFINITION. The Roundabout (R58 to R62): forming groups, parking them and bringing them back. -/

namespace Sys2Proof.Machine

open Sys2Proof

/-! ## Candidate sets (R58, R59, R130) -/

/-- A candidate set: the ready entries with one place, one stage and one release, by ascending thread id; the ck of the oldest; its q5. -/
structure Cand where
  slots : List Nat
  pc : Word64
  wix : Nat
  stage : Nat
  first : Option Nat
  /-- The ck from which the age of the oldest entry counts, moved back by what it had aged before a save. -/
  oldest : Int
  q5 : List Word32
deriving DecidableEq, Repr

/-- R57: the ck from which the age of an entry counts. -/
def Spawn.since (e : Spawn) : Int := Int.ofNat e.written - Int.ofNat e.aged

/-- The thread id of a slot. -/
def Wg.tid (w : Wg) (slot : Nat) : Nat := ((SMap.get? w.threads slot).map (·.tid.toNat)).getD 0

/-- R59, R130: the entries that may be formed in a ck, by ascending thread id. -/
def Wg.readyEntries (w : Wg) (ck : Nat) : List (Nat × Spawn) :=
  sortBy (fun a b => decide (w.tid a.1 < w.tid b.1))
    (w.spawn.filter fun p => !p.2.held && decide (p.2.written < ck) && !w.slotBusy ck p.1)

/-- R58: one PC, one stage and one release. The manual does not say whether entries of one PC whose positions in their clauses differ are one set: the
model makes them two, since no group stands at two positions (log entry 17). -/
def sameSet (a b : Spawn) : Bool := a.pc == b.pc && a.wix == b.wix && a.stage == b.stage && a.first == b.first

/-- The candidate sets in the order of their lowest thread id; `fuel` bounds the number of sets. -/
def candSets : Nat → List (Nat × Spawn) → List Cand
  | _, [] => []
  | 0, _ => []
  | fuel + 1, e :: es =>
    let mine := e :: es.filter fun p => sameSet e.2 p.2
    let c : Cand := { slots := mine.map (·.1), pc := e.2.pc, wix := e.2.wix, stage := e.2.stage, first := e.2.first,
                      oldest := mine.foldl (fun m p => min m p.2.since) e.2.since, q5 := e.2.q5 }
    c :: candSets fuel (es.filter fun p => !sameSet e.2 p.2)

def Wg.cands (w : Wg) (ck : Nat) : List Cand := candSets w.spawn.length (w.readyEntries ck)

/-- R58: the set may form a group. -/
def Wg.formable (w : Wg) (r : LaunchRec) (ck : Nat) (c : Cand) : Bool :=
  c.first.isSome || decide (r.w ≤ c.slots.length) || decide (c.oldest + 64 ≤ Int.ofNat ck) || w.groups.isEmpty

/-- R59: releases from a meeting first, in the order of the releases, then the set that holds the lowest thread id. -/
def candBefore (a b : Cand) : Bool :=
  match a.first, b.first with
  | some m, some n => decide (m < n)
  | some _, none => true
  | none, _ => false

def Wg.nextCand (w : Wg) (r : LaunchRec) (ck : Nat) : Option Cand := minBy candBefore ((w.cands ck).filter (w.formable r ck))

/-! ## Formation (R58 to R60) -/

/-- R60: a new group at a place. Inside a clause, the wait masks of the header have had their test (R54). -/
def newGroup (uid stage : Nat) (slots : List Nat) (pc : Word64) (wix ck : Nat) (q5 : List Word32) : Group :=
  { uid := uid, stage := stage, slots := slots, sregs := [], handles := [], ports := if q5.isEmpty then [] else [(5, q5)], cts := [], flags := 0,
    hdr := pc - BitVec.ofNat 64 (8 * wix), wix := wix, fetched := false, header := 0, words := [], tested := wix != 0, notBefore := ck + 1,
    settle := false, lease := none, wait := none, monitor := none, since := ck, lastIssue := ck, q2Started := 0, arrived := [], part := none,
    awaits := none, holdOp := none, mspmaId := none, resN := none }

/-- A group forms from a candidate set in a free slot. -/
def State.form (s : State) (c slot : Nat) (k : Cand) (width : Nat) : State :=
  let ts := k.slots.take width
  let ck := (s.core c).ck
  let uid := s.nextId
  (s.modWg c fun w =>
    { (ts.foldl (fun w t => w.modThread t fun th => { th with stat := .running }) w) with
      spawn := w.spawn.filter fun p => !ts.contains p.1
      groups := SMap.set w.groups slot { newGroup uid k.stage ts k.pc k.wix ck k.q5 with seen := w.issues }
      formedAt := some ck, fullAt := ck }).fresh

/-- R61, R353: the parked groups that may return: a RESAMPLE arrival stays parked until its step has ended. -/
def Wg.returning (w : Wg) : List Parked := w.parked.filter fun p => p.group.resN.isNone

/-- The Roundabout of the workgroup can act now: no halt (R426), no save, and no formation yet in this ck. -/
def Wg.roundaboutOn (w : Wg) (ck : Nat) : Bool := w.halt.isNone && !w.saving && !w.retired && w.formedAt != some ck

/-- R58, R59: GROUP_FORMATION. Parked groups come before candidate sets that no meeting released. -/
def execGroupFormation (core : Nat) (s : State) : Host.Outcome State Fault Refusal :=
  match s.wg? core, s.launchOf core with
  | some w, some l =>
    let ck := (s.core core).ck
    match SMap.lowestFree w.groups Config.groupSlots, w.nextCand l.rcd ck with
    | some slot, some k =>
      if w.roundaboutOn ck && (k.first.isSome || w.returning.isEmpty) then .next (s.form core slot k l.rcd.w) else .next s
    | _, _ => .next s
  | _, _ => .next s

/-! ## Parking (R61, R62) -/

/-- R61: waits that are parking points. -/
def Wait.parks : Wait → Bool
  | .portFull _ => true | .portEmpty _ => true | .masks => true | .handle _ => true | .hwait => true | .mwait => true | .cbP => true | .cbC => true
  | .streamFetch => true | .barrier => true | .tail => true | .resample => true | .mtxFull => true | .q0Drain => true
  | .clauseMiss => false | .clauseFault => false | .counter31 => false | .planned => false | .fetchReply => false | .validate => false
  | .fence => false | .logFull => false | .channel => false | .reply => false | .replica => false

/-- R61: the group stands at a parking point. At a clause boundary the masks of its clause are still to be tested; a fetch that missed or met a fault (R386) leaves it
there. -/
def Group.atParkingPoint (g : Group) : Bool :=
  match g.wait with
  | some w => w.parks || ((w == .clauseMiss || w == .clauseFault) && !g.tested)
  | none => !g.tested

/-- R61: parking waits until the counters are zero. -/
def Group.canPark (g : Group) : Bool := g.atParkingPoint && g.cts.all fun p => p.2 == 0

/-- R61: the group that a park takes: of those at a parking point the one that has held its slot longest; of several that took their slots in one ck, such as
the initial groups, the manual names none and the model takes the lowest slot (log entry 17). While its counters are not zero, none parks. -/
def Wg.toPark (w : Wg) : Option (Nat × Group) :=
  (minBy (fun a b => decide (a.2.since < b.2.since)) (w.groups.filter fun p => p.2.atParkingPoint)).filter fun p => p.2.canPark

/-- R62: the contents of a park record, as numbers: the scalar registers, the handles with their operations, the queue ports, the place and the
slots in lane order. -/
def Group.parkContents (g : Group) : List Nat :=
  (List.range 64).map (fun r => (g.sreg r).toNat) ++ g.handles.flatMap (fun p => [p.1, p.2.op.ctorIdx, if p.2.done then 1 else 0, p.2.status.toNat, p.2.id]) ++
    g.ports.flatMap (fun p => p.1 :: p.2.map (·.toNat)) ++ [g.hdr.toNat, g.wix] ++ g.slots

/-- R62: the 512 bytes of a park record; the manual gives them no layout (log entry 27). -/
def Group.parkRecord (g : Group) : List Byte := (List.range 512).map fun i => Config.parkByte g.parkContents i

/-- A group leaves its slot for its park record in the park area, which is indexed by its lowest thread slot (R62): what it had requested without effect is withdrawn (R61), a fetch of its clause among it, its flags go to the workgroup (R90). -/
def State.park (s : State) (c slot : Nat) : State :=
  match s.wg? c, s.group? c slot with
  | some w, some g =>
    let s := s.orWgFlags c g.flags
    let drop : List Nat := match s.launchOf c with
      | some l => (l.disp.reqs.filter fun (q : FetchReq) => q.uid == g.uid && q.blocked).map fun (q : FetchReq) => q.id
      | none => []
    let s := s.modLaunch w.launch fun l => { l with disp := { l.disp with reqs := l.disp.reqs.filter fun q => !drop.contains q.id } }
    let ck := (s.core c).ck
    let g' := { g with flags := 0, fetched := false, wait := none, monitor := none, wix := if g.tested then g.wix else 0 }
    s.modWg c fun w =>
      { (g.slots.foldl (fun w t => w.modThread t fun th => { th with stat := if th.stat == .atTail then .atTail else .parked }) w) with
        groups := SMap.del w.groups slot
        parked := w.parked ++ [⟨g', ck, slot⟩]
        parkArea := SMap.set w.parkArea (g.slots.foldl min 2048) g'.parkRecord
        pend := w.pend.filter fun p => !drop.contains p.1
        log := w.log.filter fun p => !(p.2.kind == 3 && p.2.op == g.uid)
        cbs := w.cbs.map fun p => (p.1, { p.2 with waiters := p.2.waiters.filter fun q => q.1 != g.uid }) }
  | _, _ => s

/-- R62: a parked group takes a free slot, whole; it issues no earlier than the ck after. -/
def State.unpark (s : State) (c slot : Nat) (p : Parked) : State :=
  let ck := (s.core c).ck
  s.modWg c fun w =>
    { (p.group.slots.foldl (fun w t => w.modThread t fun th => { th with stat := if th.stat == .atTail then .atTail else .running }) w) with
      groups := SMap.set w.groups slot { p.group with since := ck, notBefore := max p.group.notBefore (ck + 1), seen := w.issues }
      parked := w.parked.filter fun q => q.group.uid != p.group.uid
      formedAt := some ck, fullAt := ck }

/-- R59, R61: what has been eligible for 64 ck in which no slot was free: a candidate set, or the group that was parked first. -/
def Wg.starved (w : Wg) (r : LaunchRec) (ck : Nat) : Option (Cand ⊕ Parked) :=
  if ck < w.fullAt + 64 then none
  else
  let old := (w.cands ck).filter fun k => decide (k.oldest + 65 ≤ Int.ofNat ck)
  match minBy candBefore old with
  | some k =>
    if k.first.isSome then some (.inl k)
    else match w.returning.find? fun p => decide (p.parkedAt + 64 ≤ ck) with
      | some p => some (.inr p)
      | none => if w.formable r ck k then some (.inl k) else none
  | none => (w.returning.find? fun p => decide (p.parkedAt + 64 ≤ ck)).map .inr

/-- R61: GROUP_PARK: the group at a parking point that has held its slot longest is parked, and the formation that caused it takes the slot. -/
def execGroupPark (core : Nat) (s : State) : Host.Outcome State Fault Refusal :=
  match s.wg? core, s.launchOf core with
  | some w, some l =>
    let ck := (s.core core).ck
    if !w.roundaboutOn ck || (SMap.lowestFree w.groups Config.groupSlots).isSome then .next s
    else
      let still (s : State) : State := s.modWg core fun v => { v with fullAt := w.fullAt }
      match w.starved l.rcd ck, w.toPark with
      | some (.inl k), some (slot, _) => .next (still ((s.park core slot).form core slot k l.rcd.w))
      | some (.inr p), some (slot, _) => .next (still ((s.park core slot).unpark core slot p))
      | _, _ => .next s
  | _, _ => .next s

/-- R62, R59: PARKED_GROUP_RETURN, oldest park first, behind the releases from meetings. -/
def execParkedGroupReturn (core : Nat) (s : State) : Host.Outcome State Fault Refusal :=
  match s.wg? core with
  | some w =>
    let ck := (s.core core).ck
    match SMap.lowestFree w.groups Config.groupSlots, w.returning with
    | some slot, p :: _ =>
      if w.roundaboutOn ck && !(w.cands ck).any (·.first.isSome) then .next (s.unpark core slot p) else .next s
    | _, _ => .next s
  | none => .next s

end Sys2Proof.Machine
end

