-- ==== Sys2Proof/Machine/MemAccess.lean ====
section
/-! DEFINITION. What the memory words share: addresses and windows (R216 to R221), operands (R222 to R224), accesses in flight, what an access does at
its home (R230 to R233), and the faults it can meet there (R244, R246, R382). -/

namespace Sys2Proof.Machine

open Sys2Proof

/-! ## Addresses (R216 to R221) -/

def sizeBytes : Size → Nat
  | .b8 => 1 | .b16 => 2 | .b32 => 4 | .b64 => 8 | .b128 => 16

/-- R223: registers of a datum. -/
def sizeRegs : Size → Nat
  | .b8 => 1 | .b16 => 1 | .b32 => 1 | .b64 => 2 | .b128 => 4

/-- Where a rank of a gang is (R25, R418): at a core, saved, or with no workgroup. -/
inductive RankAt where
  | core (c : Nat) | away | gone
deriving DecidableEq, Repr

def State.rankAt (s : State) (u gang rank : Nat) : RankAt :=
  match s.rankCore u gang rank with
  | some c => .core c
  | none =>
    match s.launch? u with
    | some l => if l.saved.any (fun v => v.wg.gang == gang && v.wg.rank == rank) then .away else .gone
    | none => .gone

/-- R243, R244: the bytes lie in a replica of the allocation. -/
def Wg.inReplica (w : Wg) (off n : Nat) : Bool := w.subs.any fun p => decide (p.2.off < off + n) && decide (off < p.2.off + p.2.len)

/-- R218, R217: an access to a rank's allocation. -/
def scratchPlace (s : State) (x : Ctx) (rank off b : Nat) (write : Bool) : Except Nat (Space × Nat) :=
  if x.r.scratch < off + b ∨ x.r.gangSize ≤ rank then .error cAddrFault
  else if s.rankAt x.wg.launch x.wg.gang rank = .gone then .error cAddrFault
  else if write && rank == x.wg.rank && x.wg.inReplica off b then .error cPermFault
  else .ok (.scratch rank, off)

/-- R216, R217: where a generic address leads. An access that begins within the limit of a window and ends beyond it raises ADDR_FAULT (a choice of the model's: log entry 110). -/
def classify (s : State) (x : Ctx) (slot b : Nat) (write rmw : Bool) (ea : Word64) : Except Nat (Space × Nat) :=
  let va := ea.toNat
  if !vaOk ea then .error cAddrFault
  else if !isWindow va then .ok (.trans, va)
  else
    match bits va 47 44 with
    | 0 => if bits va 43 32 != 0 || decide (x.r.priv < bits va 31 0 + b) then .error cAddrFault else .ok (.priv slot, bits va 31 0)
    | 1 => if bits va 43 20 != 0 then .error cAddrFault else scratchPlace s x x.wg.rank (bits va 19 0) b write
    | 2 => if bits va 37 20 != 0 then .error cAddrFault else scratchPlace s x (bits va 43 38) (bits va 19 0) b write
    | 3 =>
      let k := bits va 43 42
      if bits va 41 32 != 0 || decide (x.r.cbl.getD k 0 < bits va 31 0 + b) then .error cAddrFault
      else if rmw then .error cPermFault
      else .ok (.bank k, (x.r.cbp.getD k 0).toNat + bits va 31 0)
    | _ => .error cAddrFault

/-- How a memory word names its location. -/
inductive AddrForm where
  | generic | own | peer (rankReg : BitVec 5)
deriving DecidableEq, Repr

def AddrForm.regs : AddrForm → Nat
  | .generic => 2
  | _ => 1

/-- R219: the effective address of a lane. -/
def memEa (x : Ctx) (f : AddrForm) (m : MOpnd) (b slot : Nat) : Word64 :=
  let rd (i : Nat) : Word32 :=
    if m.bk = 0 then x.read (.vec slot (m.base.toNat + i)) else x.read (.sca x.grp.uid (m.base.toNat + i))
  match f with
  | .generic => pairOf (rd 0) (rd 1) + m.off.signExtend 64 * BitVec.ofNat 64 b
  | _ => BitVec.ofNat 64 (rd 0 + m.off.signExtend 32 * BitVec.ofNat 32 b).toNat

/-- The rank that a rank register names (R222). -/
def memRank (x : Ctx) (f : AddrForm) : Nat :=
  match f with
  | .peer r => (x.read (.sca x.grp.uid r.toNat)).toNat
  | _ => x.wg.rank

/-- R221: the checks of one lane at issue. -/
def memPlace (s : State) (x : Ctx) (f : AddrForm) (m : MOpnd) (b : Nat) (write rmw : Bool) (slot : Nat) : Except Nat (Space × Nat) :=
  let ea := memEa x f m b slot
  if ea.toNat % b != 0 then .error cAlignFault
  else
    match f with
    | .generic => classify s x slot b write rmw ea
    | _ => scratchPlace s x (memRank x f) ea.toNat b write

/-- R260: the first of the errors of all lanes. -/
def firstError (es : List Nat) : Option Nat := [cAlignFault, cAddrFault, cPermFault, cChannelSevered].find? fun c => es.contains c

def errorsOf {α : Type} (rs : List (Except Nat α)) : List Nat := rs.filterMap fun r => match r with | .error c => some c | .ok _ => none

/-! ## Operands (R220, R222 to R224) -/

def baseOk (x : Ctx) (f : AddrForm) (m : MOpnd) : Bool :=
  if m.bk = 0 then vecOk x.r.v m.base f.regs else m.bk == 1 && scaOk m.base f.regs

def dataOk (x : Ctx) (m : MOpnd) (n : Nat) : Bool := if m.dk then scaOk m.data n else vecOk x.r.v m.data n

/-- R224: the lanes that access: all that execute, or one for the group. -/
def memLanes (x : Ctx) (m : MOpnd) : List (Nat × Nat) := if m.dk && m.bk == 1 then x.ex.take 1 else x.ex

/-- The data registers of a lane as a number, lowest register first. -/
def memData (x : Ctx) (m : MOpnd) (first n slot : Nat) : Nat :=
  (List.range n).foldl (fun v i =>
    v + (if m.dk then x.read (.sca x.grp.uid (m.data.toNat + first + i)) else x.read (.vec slot (m.data.toNat + first + i))).toNat * 2 ^ (32 * i)) 0

/-- The places of the data registers. -/
def dataLocs (x : Ctx) (m : MOpnd) (n : Nat) : List Loc :=
  if x.ex.isEmpty then []
  else if m.dk then (List.range n).map fun i => .sca x.grp.uid (m.data.toNat + i)
  else x.ex.flatMap fun l => (List.range n).map fun i => .vec l.2 (m.data.toNat + i)

def baseLocs (x : Ctx) (f : AddrForm) (m : MOpnd) : List Loc :=
  if x.ex.isEmpty then []
  else
    (if m.bk = 0 then x.ex.flatMap fun l => (List.range f.regs).map fun i => Loc.vec l.2 (m.base.toNat + i)
     else (List.range f.regs).map fun i => .sca x.grp.uid (m.base.toNat + i)) ++
    (match f with | .peer r => [.sca x.grp.uid r.toNat] | _ => [])

/-- A word of the memory row: while the operand log is full it waits (R382). -/
def memory (s : State) (h : Head) (op : Nat) (lit : Lit) (illegal : Ctx → Bool) (reads writes : Ctx → List Loc) (eff : Ctx → State → Res) :
    Host.Outcome State Fault Refusal :=
  word s h op lit illegal (fun x => headLocs x ++ reads x) writes fun x s =>
    if Config.logEntries ≤ x.wg.log.length then .wait .logFull else eff x s

/-! ## Accesses in flight -/

/-- An access issues: it is in flight, its destinations are pending, its counter goes up until the reply. -/
def State.pushOp (s : State) (x : Ctx) (o : MemOp) (dst : List Loc) : State :=
  let s := s.advance x
  let s := if o.replied then s else s.incCt x
  (s.modWg x.c fun w => { w with ops := w.ops ++ [o], pend := w.pend ++ dst.map fun p => (o.id, p) }).fresh

/-- An access of the issuing word. -/
def newOp (s : State) (x : Ctx) (aop : AOp) (b : Nat) (m : MOpnd) (scope : Scope) (acq : Bool) (lanes : List LaneAcc) : MemOp :=
  { id := s.nextId, uid := x.grp.uid, gslot := x.g, pc := x.pc, word := x.grp.words.getD (x.grp.wix - 1) 0, aop := aop, lk := .plain, bytes := b, sx := false,
    mask := laneMask x.ex, lanes := lanes, data := m.data.toNat, sca := m.dk, ct := x.h.ct.toNat, scope := scope, acq := acq, chan := none, gen := x.cr.ms, acked := false,
    replied := false }

/-- One lane of an access. -/
def newLane (l : Nat × Nat) (ea : Word64) (p : Space × Nat) (data cmp : Nat) : LaneAcc :=
  { lane := l.1, slot := l.2, ea := ea, space := p.1, off := p.2, data := data, cmp := cmp, stat := .waiting, old := 0, flags := 0 }

def Wg.op? (w : Wg) (id : Nat) : Option MemOp := w.ops.find? (·.id == id)
def State.memOp? (s : State) (c id : Nat) : Option MemOp := (s.wg? c).bind (·.op? id)
def State.modOp (s : State) (c id : Nat) (f : MemOp → MemOp) : State :=
  s.modWg c fun w => { w with ops := w.ops.map fun o => if o.id == id then f o else o }
def MemOp.lane? (o : MemOp) (n : Nat) : Option LaneAcc := o.lanes.find? (·.lane == n)
def MemOp.modLane (o : MemOp) (n : Nat) (f : LaneAcc → LaneAcc) : MemOp :=
  { o with lanes := o.lanes.map fun l => if l.lane == n then f l else l }
def State.modLane (s : State) (c id lane : Nat) (f : LaneAcc → LaneAcc) : State := s.modOp c id (·.modLane lane f)

/-- An access that is acknowledged and has replied is done. -/
def State.sweepOps (s : State) (c : Nat) : State :=
  s.modWg c fun w => { w with ops := w.ops.filter fun o => !(o.acked && o.replied) }

/-- The spaces of one kind of location: a constant bank's words are bytes of translated memory (R170). -/
def Space.inMemory : Space → Bool | .trans => true | .bank _ => true | _ => false
def Space.same (p q : Space) : Bool := p == q || (p.inMemory && q.inMemory)

/-- The bytes that a lane of an access concerns: of WOWN the whole window of its offset (R247). -/
def LaneAcc.extent (l : LaneAcc) (o : MemOp) : Nat × Nat := if o.aop == .wown then (l.off / 128 * 128, 128) else (l.off, o.bytes)

/-- Two lanes concern a byte in common. -/
def overlaps (p : LaneAcc) (a : MemOp) (q : LaneAcc) (b : MemOp) : Bool :=
  p.space.same q.space && decide ((p.extent a).1 < (q.extent b).1 + (q.extent b).2) && decide ((q.extent b).1 < (p.extent a).1 + (p.extent a).2)

/-- R264, R289: accesses of one thread; an access made once for a group belongs to all its threads. -/
def sameThread (o : MemOp) (l : LaneAcc) (o' : MemOp) (l' : LaneAcc) : Bool := o.sca || o'.sca || l.slot == l'.slot

/-- A write of the access is parked at a page (R283). -/
def MemOp.parkedAt (q : MemOp) (va : Nat) : Bool :=
  q.aop != .load && q.lanes.any fun k => (match k.stat with | .logged _ => true | .retry => true | _ => false) && k.space == .trans && pageOf k.off == pageOf va

/-- R264, R289: operations of channels that the thread of a lane has from the parent it was cloned from, and that concern a byte of the lane. -/
def Wg.inheritedAt (w : Wg) (o : MemOp) (l : LaneAcc) : List Nat :=
  if !l.space.inMemory then []
  else (w.inherited.filter fun p => (o.sca || p.2.1 == l.slot) && decide (p.2.2.1 < l.off + o.bytes) && decide (l.off < p.2.2.1 + p.2.2.2)).map (·.1)

/-- R283, R385: accesses saved with the workgroup walk, and its parked writes replay, before any other access of it. -/
def Wg.mustReplay (w : Wg) : Bool := w.ops.any fun q => w.rewalk.contains q.id && q.lanes.any fun k => k.stat == .retry

/-- A lane may not be performed yet: an older access of its thread to a byte of it is open (R289), or one of the thread's parent is (R264), a lower lane of its word
is (R13; the lanes of a load are in no order), a parked write to its page is older (R283), or it replays behind another (R383). -/
def laneBlocked (w : Wg) (o : MemOp) (l : LaneAcc) : Bool :=
  let older := w.ops.takeWhile fun q => q.id != o.id
  (o.aop != .load && o.lanes.any fun k => decide (k.lane < l.lane) && k.isOpen && overlaps k o l o) ||
    (older.any fun q => q.lanes.any fun k => k.isOpen && sameThread o l q k && overlaps k q l o) ||
    !(w.inheritedAt o l).isEmpty ||
    (l.space == .trans && older.any (·.parkedAt l.off)) || (o.aop != .load && l.stat == .retry && w.replay.head? != some o.id) ||
    (!w.rewalk.contains o.id && w.mustReplay)

/-! ## What an access does at its home (R230 to R233, R105) -/

/-- R230: the new value of an atomic: the number is the low nibble of the opcode. -/
def atomNew (op : Nat) (u : Bool) (n old x cmp : Nat) : Nat × Fl :=
  let less (a b : Nat) : Bool := if u then decide (a < b) else decide (signed n a < signed n b)
  match op with
  | 0x3 => ((old + x) % 2 ^ n, Fl.none)
  | 0x4 => (if less x old then x else old, Fl.none)
  | 0x5 => (if less old x then x else old, Fl.none)
  | 0x6 => (Nat.land old x, Fl.none)
  | 0x7 => (Nat.lor old x, Fl.none)
  | 0x8 => (Nat.xor old x, Fl.none)
  | 0x9 => (x, Fl.none)
  | 0xA => (if old = cmp then x else old, Fl.none)
  | _ => F32.add .rne (F32.decode old) (F32.decode x)

def faddFmt : FaddTy → FFmt
  | .f32 => F32 | .f16 => F16 | .bf16 => BF16

/-- The value left at the home and the flags. -/
def homeValue (a : AOp) (b old x cmp : Nat) : Nat × Fl :=
  match a with
  | .store => (x % 2 ^ (8 * b), Fl.none)
  | .atom op u => atomNew op u (8 * b) old (x % 2 ^ (8 * b)) cmp
  | .red op u => atomNew op u (8 * b) old (x % 2 ^ (8 * b)) cmp
  | .fadd ty => (faddFmt ty).add .rne ((faddFmt ty).decode old) ((faddFmt ty).decode (x % 2 ^ (8 * b)))
  | _ => (old, Fl.none)

def AOp.isRmw : AOp → Bool
  | .atom _ _ => true | .red _ _ => true | .fadd _ => true | .contrib _ _ => true
  | _ => false

def AOp.need (a : AOp) : Need :=
  match a with
  | .load => needRead
  | a => if a.isRmw then needRmw else needWrite

/-- R383: the kind of a fault record. -/
def AOp.kind (a : AOp) : Nat :=
  match a with
  | .load => 0
  | a => if a.isRmw then 2 else 1

/-! ## Scratchpad -/

/-- The key under which a byte of a core's scratchpad can be poisoned (R425). -/
def scratchKey (c off : Nat) : Nat := 2 ^ 60 + c * 2 ^ 24 + off

/-- The key under which a byte of a thread slot's private memory can be poisoned (R425). -/
def privUnitKey (c slot off : Nat) : Nat := 2 ^ 61 + c * 2 ^ 44 + privKey slot off

/-- Bytes written in the allocation of the workgroup on a core. -/
def State.scratchPut (s : State) (c off : Nat) (bs : List Byte) : State :=
  let s := s.modWg c fun w => w.scratchWrite off bs
  { s with
    poisoned := s.poisoned.filter fun u => !(coveredUnits (scratchKey c off) bs.length).contains u }

/-- R243: a byte of a replica that is not filled reads as it was, or as a value that the global byte has held since the SUBSCRIBE. -/
def State.scratchByte (s : State) (c off : Nat) : Byte :=
  match s.wg? c with
  | none => 0
  | some w =>
    let b := Mem.read w.scratch off
    match w.subs.find? fun p => !p.2.filled && decide (p.2.off ≤ off) && decide (off < p.2.off + p.2.len) with
    | none => b
    | some (_, u) =>
      match s.placeOf (s.asidOf c) (u.va + (off - u.off)) needRead, s.launchOf c with
      | .ok k, some l =>
        let past := (pastValues k [Mem.read s.mem k] (l.undo.take (l.undo.length - u.since))).map fun v => BitVec.ofNat 32 (v.headD 0).toNat
        BitVec.ofNat 8 (pickFrom s.free (2 ^ 62 + off) (BitVec.ofNat 32 b.toNat) past).toNat
      | _, _ => b

def State.scratchBytes (s : State) (c off n : Nat) : List Byte := (List.range n).map fun i => s.scratchByte c (off + i)

/-- R246: the rank that may write a window. -/
def Wg.writerOf (w : Wg) (off : Nat) : Nat := SMap.getD w.writers (off / 128) w.rank

/-- R221, R246, R383: an exception of an access that comes late, at the group and PC of its word. -/
def State.raiseLate (s : State) (c : Nat) (o : MemOp) (code : Nat) : State :=
  s.raise c ⟨code, 0, o.gslot, o.mask % 2 ^ 32, o.pc⟩ o.mask

/-- A lane has been performed. -/
def State.laneDone (s : State) (c id lane old : Nat) (f : Fl) : State :=
  s.modLane c id lane fun l => { l with stat := .performed, old := old, flags := f.word }

/-- The replay queue loses an access none of whose lanes is parked any more. -/
def State.sweepReplay (s : State) (c : Nat) : State :=
  let parked (w : Wg) (id : Nat) : Bool := match w.op? id with
    | some o => o.lanes.any fun l => match l.stat with | .logged _ => true | .retry => true | _ => false
    | none => false
  s.modWg c fun w => { w with replay := w.replay.filter (parked w) }

/-- R396: a request of a core and the answer of another carry their generations. -/
def State.meetGen (s : State) (c c' : Nat) : State := if c = c' then s else (fun s => State.hear s c (s.core c').ms) (s.hear c' (s.core c).ms)

/-- R228, R230, R246, R244, R247: a lane is performed at a scratchpad: at the core that holds the rank, or it is refused there. -/
def State.performScratch (s : State) (c : Nat) (o : MemOp) (l : LaneAcc) (rank : Nat) : State :=
  match s.wg? c with
  | none => s
  | some w =>
    match s.rankAt w.launch w.gang rank with
    | .core c' =>
      match s.wg? c' with
      | none => s
      | some w' =>
        let s := s.meetGen c c'
        if w'.writerOf l.off != w.rank then
          (s.modLane c o.id l.lane fun l => { l with stat := .refused }).raiseLate c o cWindowFault
        else if o.aop == .wown then
          (s.modWg c' fun w' => { w' with writers := SMap.set w'.writers (l.off / 128) l.data }).laneDone c o.id l.lane 0 Fl.none
        else if rank != w.rank && w'.inReplica l.off o.bytes then
          (s.modLane c o.id l.lane fun l => { l with stat := .refused }).raiseLate c o cPermFault
        else if o.aop.isRmw && s.isPoisoned (scratchKey c' l.off) o.bytes then s.machineCheck c cMemUncorrectable o.pc o.mask
        else
          let old := bytesToNat (s.scratchBytes c' l.off o.bytes)
          let (v, f) := homeValue o.aop o.bytes old l.data l.cmp
          (s.scratchPut c' l.off (natToBytes o.bytes v)).laneDone c o.id l.lane old f
    | _ => s

/-- R217: private memory of a thread. -/
def State.performPrivate (s : State) (c : Nat) (o : MemOp) (l : LaneAcc) (slot : Nat) : State :=
  match s.wg? c with
  | none => s
  | some w =>
    let old := Mem.readNat w.priv (privKey slot l.off) o.bytes
    let (v, f) := homeValue o.aop o.bytes old l.data l.cmp
    if o.aop.isRmw && s.isPoisoned (privUnitKey c slot l.off) o.bytes then s.machineCheck c cMemUncorrectable o.pc o.mask
    else (s.modWg c fun w => { w with priv := Mem.writeBytes w.priv (privKey slot l.off) (natToBytes o.bytes v) }).laneDone c o.id l.lane old f

/-! ## Translated memory -/

/-- R266, log entry 12: the device of a region that is not this one. -/
def State.peerOf (s : State) (asid va : Nat) : Option Nat :=
  match Config.homeDevice asid (va / 2 ^ 21) with
  | some d => if d = s.devNum then none else some d.toNat
  | none => none

/-- R41: no link is up over which a peer could be reached: an access to one waits. -/
def State.cutOffPeers (s : State) : Bool := s.linksUp.isEmpty

/-- A hit in the L2 of a home, or in the TLB of its controller (R375, R380). -/
def State.reachAt (s : State) (asid va : Nat) (need : Need) (home tier : Nat) : Bool :=
  (tier != 2 && (((s.die home).l2Find asid (lineOf va)).any fun (l : L2Line) => need.met l.rd l.wr true)) ||
    (s.tlbHit asid va (ctlOf asid va home tier) need).isSome

/-- An access reaches its line without a walk: an L2 hit, a TLB hit, or a line that has moved (R375, R380, R390). -/
def State.reach (s : State) (asid va : Nat) (need : Need) : Bool :=
  let e := s.homeEntry asid va
  hmOk e && match s.steer e va with
    | .held => false
    | .new m => s.reachAt asid va need m.newHome m.newTier
    | .old => s.reachAt asid va need (hmHome e) (tierOf e)

/-- R382: the operand-log entry of an access, for the fault of a page. -/
def MemOp.logEntry (o : MemOp) (page cause : Nat) : LogEntry :=
  let write := o.aop != .load
  { word := o.word, pc := o.pc, mask := BitVec.ofNat 64 o.mask, parkedWrite := write, gslot := o.gslot, op := o.id, faults := [(page, cause)], kind := o.aop.kind,
    addrs := o.lanes.map (·.ea), datas := if write then o.lanes.map (·.data) else [] }

/-- R382, R283: a lane meets a translation fault: its word goes into the operand log, a write into the replay queue. While the log is full nothing happens. -/
def State.logLane (s : State) (c : Nat) (o : MemOp) (l : LaneAcc) (cause : Nat) : State :=
  let entry := (s.wg? c).bind fun w => w.log.find? fun p => p.2.op == o.id && p.2.kind != 3
  let got := match entry with
    | some (n, e) => some (s.logPage c n e (pageOf l.off) cause, n)
    | none => s.logFault c (o.logEntry (pageOf l.off) cause)
  match got with
  | none => s
  | some (s, n) =>
    let s := s.modLane c o.id l.lane fun l => { l with stat := .logged n }
    if o.aop != .load then
      s.modWg c fun w =>
        { w with replay := (w.ops.filter fun q => q.id == o.id || w.replay.contains q.id).map (·.id) }
    else s

/-- R170, R217: where a byte of a constant bank of a launch stands for an access through its window, which is never translated and meets no fault: at the page's place
now, else at its place at launch start. -/
def State.bankKey (s : State) (l : Option Launch) (asid va : Nat) : Option Nat :=
  match s.placeOf asid va needPlace with
  | .ok k => some k
  | .error _ => l.bind (·.bankStart va)

def State.bankPlace (s : State) (c va : Nat) : Option Nat := s.bankKey (s.launchOf c) (s.asidOf c) va

/-- R170, R217, R398, R383: a lane of a store through a bank's window is performed. A bank page that has no place holds nothing to write. While the milestone pool is empty
the write is held in the operand log, with cause 4. -/
def State.performBank (s : State) (c : Nat) (o : MemOp) (l : LaneAcc) : State :=
  let asid := s.asidOf c
  let bs := natToBytes o.bytes (l.data % 2 ^ (8 * o.bytes))
  match s.bankPlace c l.off with
  | none => s.laneDone c o.id l.lane 0 Fl.none
  | some key =>
    match s.homeWrite asid l.off key bs o.gen false with
    | none => s.logLane c o l 4
    | some s => ((s.modCore c fun k => k.l1Write asid l.off bs).laneDone c o.id l.lane 0 Fl.none).sweepReplay c

/-- R228, R230, R105, R398, R425: a lane is performed at the home of its line; `none` of `homeWrite` is a fault of cause 4 (R398). -/
def State.performHome (s : State) (c : Nat) (o : MemOp) (l : LaneAcc) : State :=
  let asid := s.asidOf c
  match s.peerOf asid l.off with
  | some d =>
    if s.cutOffPeers then s else
    let old := bytesToNat ((List.range o.bytes).map fun i => Config.peerByte s.free (l.off + i))
    let (v, f) := homeValue o.aop o.bytes old l.data l.cmp
    ((s.emit (.peerWrite d l.off (natToBytes o.bytes v))).laneDone c o.id l.lane old f).draw
  | none =>
    match s.place asid l.off o.aop.need with
    | (s, .fault k) => s.logLane c o l k
    | (s, .held) => s
    | (s, .at key) =>
      if o.aop.isRmw && s.isPoisoned key o.bytes then s.machineCheck c cMemUncorrectable o.pc o.mask
      else
        let old := s.rmwRead asid l.off key o.bytes o.gen
        let (v, f) := homeValue o.aop o.bytes old l.data l.cmp
        match s.homeWrite asid l.off key (natToBytes o.bytes v) o.gen false with
        | none => s.logLane c o l 4
        | some s =>
          let s := s.modCore c fun k => if o.aop.isRmw then k.l1Drop asid (lineOf l.off) else k.l1Write asid l.off (natToBytes o.bytes v)
          (s.laneDone c o.id l.lane old f).sweepReplay c

/-! ## Reads -/

/-- R227: a byte of LD.nc: any value it has held since launch start. -/
def ncByte (s : State) (u key : Nat) : Byte :=
  match s.launch? u with
  | none => Mem.read s.mem key
  | some l =>
    let past := (pastValues key [Mem.read s.mem key] l.undo).map fun v => BitVec.ofNat 32 (v.headD 0).toNat
    BitVec.ofNat 8 (pickFrom s.free key (BitVec.ofNat 32 (Mem.read s.mem key).toNat) past).toNat

/-- What a read lane gets: bytes; a fault; it must wait; an uncorrectable error. -/
inductive ReadRes where
  | bytes (bs : List Byte) | fault (cause : Nat) | wait | poison
deriving DecidableEq, Repr

/-- R292, R263: the bytes of a read that were read ahead of the others stand for what the line held then, unless a write since then has written such a byte together
with another of its aligned eight: a single-copy-atomic read takes no byte from before that write. `log` is the record of writes, newest first, and `key` the
place of byte 0. -/
def LaneAcc.mixed (l : LaneAcc) (key : Nat) (log : List (Nat × List Byte)) (bs : List Byte) : List Byte :=
  let unit (i : Nat) : Nat := (l.off + i) / 8
  let torn (i n : Nat) : Bool := (log.take (log.length - n)).any fun r => (List.range bs.length).any fun j =>
    j != i && unit j == unit i && decide (r.1 ≤ key + j) && decide (key + j < r.1 + r.2.length) && decide (r.1 ≤ key + i) && decide (key + i < r.1 + r.2.length)
  (List.range bs.length).map fun i => match l.early.find? (·.1 == i) with
    | some (_, b, n) => if torn i n then bs.getD i 0 else b
    | none => bs.getD i 0

/-- The record of the writes to memory of a core's launch. -/
def State.writesSeen (s : State) (c : Nat) : List (Nat × List Byte) := ((s.launchOf c).map (·.undo)).getD []

/-- R226, R227: a read of translated memory, from the core's L1 or from the home; `walk` says that a walk may be made. -/
def State.readTrans (s : State) (c : Nat) (o : MemOp) (l : LaneAcc) (walk : Bool) : State × ReadRes :=
  let asid := s.asidOf c
  match s.peerOf asid l.off with
  | some _ => if s.cutOffPeers then (s, .wait) else (s.draw, .bytes ((List.range o.bytes).map fun i => Config.peerByte s.free (l.off + i)))
  | none =>
    match (if o.lk == .nc then none else (s.core c).l1Find asid l.off) with
    | some ln => if ln.meetsBad l.off o.bytes then (s, .poison) else (s, .bytes ((ln.data.drop (l.off % 128)).take o.bytes))
    | none =>
      if !walk && !s.reach asid l.off needRead then (s, .wait)
      else
        match s.place asid l.off needRead with
        | (s, .fault k) => (s, .fault k)
        | (s, .held) => (s, .wait)
        | (s, .at key) =>
          if s.isPoisoned key o.bytes then (s, .poison)
          else
            let now := l.mixed key (s.writesSeen c) (Mem.readBytes s.mem key o.bytes)
            match o.lk with
            | .nc => (s.draw, .bytes ((List.range o.bytes).map fun i => ncByte s ((s.wg? c).map (·.launch) |>.getD 0) (key + i)))
            | .str => (s, .bytes now)
            | .plain => (s.l1Fill c asid l.off key, .bytes now)

/-- R217, R169, R170: a read through a bank's window: the bytes of the bank's words. -/
def State.readBank (s : State) (c k : Nat) (off n : Nat) : List Byte :=
  match s.launchOf c with
  | none => []
  | some l => bankRun s l (s.asidOf c) s.free k off n

/-- A read of one lane in its space. -/
def State.readLane (s : State) (c : Nat) (o : MemOp) (l : LaneAcc) (walk : Bool) : State × ReadRes :=
  match l.space, s.wg? c with
  | .trans, _ => s.readTrans c o l walk
  | .bank k, some _ =>
    if (s.bankPlace c l.off).any fun key => s.isPoisoned key o.bytes then (s, .poison) else (s.draw, .bytes (s.readBank c k l.off o.bytes))
  | .priv slot, some w => if s.isPoisoned (privUnitKey c slot l.off) o.bytes then (s, .poison) else (s, .bytes (Mem.readBytes w.priv (privKey slot l.off) o.bytes))
  | .scratch rank, some w =>
    match s.rankAt w.launch w.gang rank with
    | .core c' =>
      let s := s.meetGen c c'
      if s.isPoisoned (scratchKey c' l.off) o.bytes then (s, .poison) else (s.draw, .bytes (s.scratchBytes c' l.off o.bytes))
    | _ => (s, .wait)
  | _, none => (s, .wait)

end Sys2Proof.Machine
end

