-- ==== Sys2Proof/Machine/Engine.lean ====
section
/-! DEFINITION. What the engines share: workgroups by launch and number, resident or saved (R416); addresses as an engine takes them (R217, R218);
reading and writing; completing a handle or a q2 copy (R76, R80, R254); the elements of a copy (R251). -/

namespace Sys2Proof.Machine

open Sys2Proof

/-! ## The workgroup of an operation, resident or saved -/

/-- The core that holds a workgroup. -/
def State.ownerCore (s : State) (u n : Nat) : Option Nat :=
  (s.coresOf u).find? fun c => match s.wg? c with | some w => w.wgno == n | none => false

/-- R434: a workgroup of a killed gang, as its engine operations find it. -/
def Launch.killedWg? (l : Launch) (f : Wg → Bool) : Option Wg := ((l.killed.flatMap fun k => k.members).find? fun p => f p.2).map (·.2)

def Launch.modKilled (l : Launch) (n : Nat) (f : Wg → Wg) : Launch :=
  { l with killed := l.killed.map fun k => { k with members := k.members.map fun p => if p.2.wgno == n then (p.1, f p.2) else p } }

def State.owner? (s : State) (u n : Nat) : Option Wg :=
  match s.ownerCore u n with
  | some c => s.wg? c
  | none => match s.launch? u with
    | some l => ((l.saved.find? fun v => v.wg.wgno == n).map (·.wg)).orElse fun _ => l.killedWg? fun w => w.wgno == n
    | none => none

def State.modSaved (s : State) (u n : Nat) (f : Saved → Saved) : State :=
  s.modLaunch u fun l => { l with saved := l.saved.map fun v => if v.wg.wgno == n then f v else v }

def State.modOwner (s : State) (u n : Nat) (f : Wg → Wg) : State :=
  match s.ownerCore u n with
  | some c => s.modWg c f
  | none => s.modSaved u n fun v => { v with wg := f v.wg }

/-- R428: an exception of a workgroup that is saved waits with its image. -/
def State.raiseOwner (s : State) (u n : Nat) (e : Exc) : State :=
  match s.ownerCore u n with
  | some c => s.raise c e
  | none => s.modSaved u n fun v => { v with pending := v.pending ++ [e] }

/-- The number of the workgroup that has a rank of a gang. -/
def State.rankNo (s : State) (u gang rank : Nat) : Option Nat :=
  match s.rankCore u gang rank with
  | some c => (s.wg? c).map (·.wgno)
  | none => (s.launch? u).bind fun l => ((l.saved.find? fun v => v.wg.gang == gang && v.wg.rank == rank).map (·.wg.wgno)).orElse fun _ =>
      (l.killedWg? fun w => w.gang == gang && w.rank == rank).map (·.wgno)

/-! ## Engine operations by id -/

def State.eng? (s : State) (id : Nat) : Option (Nat × EngOp) :=
  (s.cores.flatMap fun p => p.2.eng.map fun e => (p.1, e)).find? fun p => p.2.id == id

def State.modEng (s : State) (id : Nat) (f : EngOp → EngOp) : State :=
  { s with cores := s.cores.map fun p => (p.1, { p.2 with eng := p.2.eng.map fun e => if e.id == id then f e else e }) }

def State.dropEng (s : State) (id : Nat) : State :=
  { s with cores := s.cores.map fun p => (p.1, { p.2 with eng := p.2.eng.filter fun e => e.id != id }) }

/-- The first error of an operation stays, and the operation stops. -/
def State.engError (s : State) (id code : Nat) : State := s.modEng id fun e => { e with refused := e.refused.orElse fun _ => some code, stopped := true }

/-- R76, R80, R254, R434: an operation completes with a status: its handle becomes done, or its q2 status goes to q3; of a freed slot a nonzero
status is an exception at the workgroup. -/
def State.engComplete (s : State) (e : EngOp) (status : Nat) : State :=
  let s := s.dropEng e.id
  if e.killed then s
  else if e.freed then
    (if status = 0 ∨ e.handle.isNone then s else s.raiseOwner e.launch e.wgno ⟨status, 2, 0, 0, 0⟩)
  else
    s.modOwner e.launch e.wgno fun w => w.modUid e.uid fun g =>
      match e.handle with
      | none => { g with ports := SMap.set g.ports 3 (g.port 3 ++ [BitVec.ofNat 32 status]) }
      | some _ =>
        { g with handles := g.handles.map fun p =>
            if p.2.id == e.id && !p.2.done then (p.1, { p.2 with done := true, status := BitVec.ofNat 32 status }) else p }

/-- R274: a write of the threads to bytes of their scratchpad, where an engine would read a descriptor, is still to be performed. -/
def Wg.writesOpen (w : Wg) (slots : List Nat) (off n : Nat) : Bool :=
  w.ops.any fun o => o.aop != .load && o.lanes.any fun l =>
    l.isOpen && (o.sca || slots.contains l.slot) && l.space == .scratch w.rank && decide (l.off < off + n) && decide (off < l.off + o.bytes)

/-- An access of a workgroup is still open: an unacknowledged write or a read not performed. -/
def MemOp.pending (o : MemOp) : Bool := o.lanes.any (·.isOpen) || (!o.acked && o.aop != .load)

/-- The accesses and channel operations with these ids that are still outstanding: an id of the workgroup's accesses or of a channel engine. -/
def State.alive (s : State) (u n : Nat) (ids : List Nat) : Bool :=
  (match s.owner? u n with | some w => w.ops.any fun o => ids.contains o.id && o.pending | none => false) ||
    s.cores.any fun p => p.2.chanOps.any fun o => ids.contains o.id

/-! ## Addresses (R217, R218, R252) -/

def State.recOfLaunch (s : State) (u : Nat) : LaunchRec := ((s.launch? u).map (·.rcd)).getD LaunchRec.none
def State.asidOfLaunch (s : State) (u : Nat) : Nat := (s.tenant (((s.launch? u).map (·.tenant)).getD 0)).cfg.asid
def State.tenantOfLaunch (s : State) (u : Nat) : Nat := ((s.launch? u).map (·.tenant)).getD 0

/-- A place in the scratchpad of a rank, for an engine of a rank: R244 and R246 are judged there. The subscriptions of a workgroup that is saved have ended (R244). -/
def State.engScratch (s : State) (e : EngOp) (rank off b : Nat) (write : Bool) : Except Nat (Space × Nat) :=
  let r := s.recOfLaunch e.launch
  if r.scratch < off + b ∨ r.gangSize ≤ rank then .error cAddrFault
  else
    match (s.rankNo e.launch e.gang rank).bind fun n => s.owner? e.launch n with
    | none => .error cAddrFault
    | some w =>
      if write && (s.rankCore e.launch e.gang rank).isSome && w.inReplica off b then .error cPermFault
      else if write && w.writerOf off != e.rank then .error cWindowFault
      else .ok (.scratch rank, off)

/-- R217: a generic address as an engine takes it. -/
def State.engPlace (s : State) (e : EngOp) (ea : Word64) (b : Nat) (write : Bool) : Except Nat (Space × Nat) :=
  let va := ea.toNat
  let r := s.recOfLaunch e.launch
  if !vaOk ea then .error cAddrFault
  else if !isWindow va then .ok (.trans, va)
  else
    match bits va 47 44 with
    | 1 => if bits va 43 20 != 0 then .error cAddrFault else s.engScratch e e.rank (bits va 19 0) b write
    | 2 => if bits va 37 20 != 0 then .error cAddrFault else s.engScratch e (bits va 43 38) (bits va 19 0) b write
    | 3 =>
      let k := bits va 43 42
      if write || bits va 41 32 != 0 || decide (r.cbl.getD k 0 < bits va 31 0 + b) then .error cAddrFault
      else .ok (.bank k, (r.cbp.getD k 0).toNat + bits va 31 0)
    | _ => .error cAddrFault

/-! ## Reading and writing -/

/-- What an engine's access meets: a status that ends the operation; a translation fault (address, cause); a line that is moving. -/
inductive EngStop where
  | status (code : Nat) | fault (va cause : Nat) | wait
deriving DecidableEq, Repr

/-- Bytes of translated memory, one after another. -/
def State.readRun (s : State) (asid va : Nat) : Nat → State × (Except EngStop (List Byte))
  | 0 => (s, .ok [])
  | n + 1 =>
    let one : State × Except EngStop Byte :=
      match s.peerOf asid va with
      | some _ => if s.cutOffPeers then (s, .error .wait) else (s.draw, .ok (Config.peerByte s.free va))
      | none =>
        match s.place asid va needRead with
        | (s, .fault c) => (s, .error (.fault va c))
        | (s, .held) => (s, .error .wait)
        | (s, .at k) => if s.isPoisoned k 1 then (s, .error (.status cMemUncorrectable)) else (s, .ok (Mem.read s.mem k))
    match one with
    | (s, .error e) => (s, .error e)
    | (s, .ok b) =>
      match State.readRun s asid (va + 1) n with
      | (s, .error e) => (s, .error e)
      | (s, .ok bs) => (s, .ok (b :: bs))

/-- Writes pieces of a run of translated memory in a generation, one after another, up to the first that is stopped. -/
def State.writePieces (s : State) (asid gen : Nat) : List (Nat × List Byte) → State × Option EngStop
  | [] => (s, none)
  | (va, p) :: ps =>
    match s.peerOf asid va with
    | some d => if s.cutOffPeers then (s, some .wait) else State.writePieces (s.emit (.peerWrite d va p)) asid gen ps
    | none =>
      match s.place asid va needWrite with
      | (s, .fault c) => (s, some (.fault va c))
      | (s, .held) => (s, some .wait)
      | (s, .at k) =>
        match s.homeWrite asid va k p gen false with
        | none => (s, some (.fault va 4))
        | some s => State.writePieces s asid gen ps

/-- Writes bytes of translated memory in a generation, a write for each 32-byte unit (R425). -/
def State.writeRun (s : State) (asid va gen : Nat) (bs : List Byte) : State × Option EngStop := s.writePieces asid gen (unitPieces va bs)

/-- Bytes of a rank's scratchpad, resident or saved; a replica that is not filled reads under R243. -/
def State.rankBytes (s : State) (u gang rank off n : Nat) : Except EngStop (List Byte) :=
  match s.rankCore u gang rank with
  | some c => if s.isPoisoned (scratchKey c off) n then .error (.status cMemUncorrectable) else .ok (s.scratchBytes c off n)
  | none =>
    match (s.rankNo u gang rank).bind fun k => s.owner? u k with
    | some w => .ok (Mem.readBytes w.scratch off n)
    | none => .error (.status cAddrFault)

def State.rankWrite (s : State) (u gang rank off : Nat) (bs : List Byte) : State :=
  match s.rankCore u gang rank with
  | some c => s.scratchPut c off bs
  | none =>
    match s.rankNo u gang rank with
    | some k => (s.modSaved u k fun v => { v with wg := v.wg.scratchWrite off bs }).modLaunch u (·.modKilled k fun w => w.scratchWrite off bs)
    | none => s

/-- The core in whose engine an operation stands. -/
def State.engCore (s : State) (e : EngOp) : Option Nat := (s.eng? e.id).map (·.1)

/-- R396: the core of an engine hears the generation of the home that answers it. -/
def State.engHear (s : State) (e : EngOp) (va : Nat) : State :=
  match s.engCore e with
  | some c => if s.tenantOf c == s.tenantOfLaunch e.launch && (s.wg? c).isSome then s.hearHome c va else s
  | none => s

/-- R396: an engine's access to the scratchpad of a rank and the answer carry the generations of the two cores. -/
def State.engMeet (s : State) (e : EngOp) (rank : Nat) : State :=
  match s.engCore e, s.rankCore e.launch e.gang rank with
  | some c, some c' => if s.tenantOf c == s.tenantOfLaunch e.launch && (s.wg? c).isSome then s.meetGen c c' else s
  | _, _ => s

/-- R217, R170: bytes of a constant bank as an engine reads them: never translated, and no fault. -/
def State.bankBytes (s : State) (u k off n : Nat) : List Byte :=
  match s.launch? u with
  | none => []
  | some l => bankRun s l (s.asidOfLaunch u) s.free k off n

/-- R289, R274: an operation of a channel that the workgroup issued before the operation's word, or that a clone has from its parent (R264), is not acknowledged and
concerns bytes that the operation accesses. -/
def State.chanOpen (s : State) (e : EngOp) (va n : Nat) : Bool :=
  let meets (lo k : Nat) : Bool := decide (lo < va + n) && decide (va < lo + k)
  (s.cores.any fun p => p.2.chanOps.any fun o => o.launch == e.launch && o.wgno == e.wgno && decide (o.kind ≤ 3) && decide (o.op < e.id) && meets o.va o.bytes) ||
    match s.owner? e.launch e.wgno with | some w => w.inherited.any fun i => meets i.2.2.1 i.2.2.2 | none => false

/-- An engine reads bytes at a generic address. -/
def State.engRead (s : State) (e : EngOp) (ea : Word64) (n : Nat) : State × Except EngStop (List Byte) :=
  match s.engPlace e ea n false with
  | .error c => (s, .error (.status c))
  | .ok (.trans, va) => if s.chanOpen e va n then (s, .error .wait) else (s.engHear e va).readRun (s.asidOfLaunch e.launch) va n
  | .ok (.scratch r, off) => let s := s.engMeet e r; (s.draw, s.rankBytes e.launch e.gang r off n)
  | .ok (.bank k, off) =>
    if (s.bankKey (s.launch? e.launch) (s.asidOfLaunch e.launch) off).any fun key => s.isPoisoned key n then (s, .error (.status cMemUncorrectable))
    else (s.draw, .ok (s.bankBytes e.launch k off n))
  | .ok (.priv _, _) => (s, .error (.status cAddrFault))

/-- An engine writes bytes at a generic address. -/
def State.engWrite (s : State) (e : EngOp) (ea : Word64) (bs : List Byte) : State × Option EngStop :=
  match s.engPlace e ea bs.length true with
  | .error c => (s, some (.status c))
  | .ok (.trans, va) => if s.chanOpen e va bs.length then (s, some .wait) else (s.engHear e va).writeRun (s.asidOfLaunch e.launch) va e.gen bs
  | .ok (.scratch r, off) => ((s.engMeet e r).rankWrite e.launch e.gang r off bs, none)
  | .ok (.bank _, _) => (s, some (.status cAddrFault))
  | .ok (.priv _, _) => (s, some (.status cAddrFault))

/-- R382, R383: an engine's translation fault: a record, and the operation waits for its answer. -/
def State.engFault (s : State) (c : Nat) (e : EngOp) (va cause : Nat) (write : Bool) : State :=
  (s.modEng e.id fun e => { e with fault := some (pageOf va) }).reportFault (s.tenantOfLaunch e.launch) va (s.asidOfLaunch e.launch) c (if write then 5 else 4) cause

/-- How a run of accesses of an engine ends: the state after it; whether the access that stopped it was a write. -/
abbrev EngRun := State × Option (EngStop × Bool)

/-- R252: the end of a run: to its status; at a translation fault, which is reported, or a moving line the operation keeps what it has done and goes on later. -/
def State.engFinish (c : Nat) (e : EngOp) (r : EngRun) (good : State → State) : State :=
  match r with
  | (s, none) => good s
  | (s, some (.status k, _)) => s.engComplete e k
  | (s, some (.fault va k, write)) => s.engFault c e va k write
  | (s, some (.wait, _)) => s

/-- R276: elements of an operation have been performed. -/
def State.engDone (s : State) (id : Nat) (is : List Nat) : State :=
  s.modEng id fun e => { e with done := e.done ++ is, taken := e.taken.filter fun p => !is.contains p.1 }

/-- The operation has made its first access. -/
def EngOp.begun (e : EngOp) : Bool := !e.done.isEmpty || !e.taken.isEmpty

/-- R274: the operation may go on: no fault of it is open; before its first access the workgroup's replay queue is empty and the accesses before it are complete. -/
def State.engReady (s : State) (e : EngOp) : Bool :=
  e.fault.isNone && (e.begun || (!s.alive e.launch e.wgno e.before &&
    match s.owner? e.launch e.wgno with | some w => w.replay.isEmpty | none => true))

/-! ## Copies (R250 to R253) -/

def s32At (bs : List Byte) (o : Nat) : Int := signed 32 (bytesToNat ((bs.drop o).take 4))
def u32At (bs : List Byte) (o : Nat) : Nat := bytesToNat ((bs.drop o).take 4)
def u64At (bs : List Byte) (o : Nat) : Word64 := BitVec.ofNat 64 (bytesToNat ((bs.drop o).take 8))

/-- R250: a descriptor's 96 bytes. -/
def copyDescOf (bs : List Byte) (esz : Nat) (chan : Option Nat) (scope : Scope) : CopyDesc :=
  { src := u64At bs 0, dst := u64At bs 8, ext := (List.range 4).map fun i => u32At bs (0x10 + 4 * i),
    ss := (List.range 4).map fun i => s32At bs (0x20 + 4 * i), ds := (List.range 4).map fun i => s32At bs (0x30 + 4 * i),
    stamp := u64At bs 0x40, sval := u64At bs 0x48, cbc := BitVec.ofNat 32 (u32At bs 0x50), resv := u32At bs 0x54 == 0 && u64At bs 0x58 == 0,
    esz := esz, chan := chan, scope := scope }

def CopyDesc.commits (d : CopyDesc) : Bool := bits d.cbc.toNat 3 3 == 1
def CopyDesc.buffer (d : CopyDesc) : Nat := bits d.cbc.toNat 2 0

/-- R252, R253: the checks that lead to ILLEGAL_OPERAND before anything is read or written. -/
def CopyDesc.ok (d : CopyDesc) (t : Bool) (cbs : SMap CBuf) : Bool :=
  d.resv && bits d.cbc.toNat 31 4 == 0 && (!d.commits || (SMap.get? cbs d.buffer).isSome) &&
    d.stamp.toNat % 8 == 0 && (d.stamp == 0 || d.chan.isSome || d.scope != .none) &&
    (!t || (d.src.toNat % d.esz == 0 && d.dst.toNat % d.esz == 0 && (d.ss ++ d.ds).all fun v => v % Int.ofNat d.esz == 0))

/-- R251: the elements in order: source and destination addresses. -/
def CopyDesc.elems (d : CopyDesc) (t : Bool) : List (Word64 × Word64) :=
  if t then
    (List.range (d.ext.getD 3 0)).flatMap fun i3 => (List.range (d.ext.getD 2 0)).flatMap fun i2 =>
      (List.range (d.ext.getD 1 0)).flatMap fun i1 => (List.range (d.ext.getD 0 0)).map fun i0 =>
        let at? (b : Word64) (st : List Int) : Word64 :=
          b + BitVec.ofInt 64 (Int.ofNat i0 * st.getD 0 0 + Int.ofNat i1 * st.getD 1 0 + Int.ofNat i2 * st.getD 2 0 + Int.ofNat i3 * st.getD 3 0)
        (at? d.src d.ss, at? d.dst d.ds)
  else (List.range (d.ext.getD 0 0)).map fun i => (d.src + BitVec.ofNat 64 i, d.dst + BitVec.ofNat 64 i)

/-- Runs of consecutive elements with contiguous ascending destination bytes in one aligned block: the destination and what the elements are read from. The bursts
of R251 are the runs in blocks of 256 bytes. -/
def bursts {α : Type} (block esz : Nat) : List (α × Word64) → List (Word64 × List α)
  | [] => []
  | p :: ps =>
    match bursts block esz ps with
    | [] => [(p.2, [p.1])]
    | (d, srcs) :: bs =>
      if d = p.2 + BitVec.ofNat 64 esz ∧ d.toNat / block = p.2.toNat / block then (p.2, p.1 :: srcs) :: bs else (p.2, [p.1]) :: (d, srcs) :: bs

/-- The bytes of a source element: those that a turn of its own has read, else read now. -/
def State.readElem (s : State) (e : EngOp) (esz : Nat) (p : Nat × Word64) : State × Except EngStop (List Byte) :=
  match SMap.get? e.taken p.1 with
  | some bs => (s, .ok bs)
  | none => s.engRead e p.2 esz

/-- Elements read one after another, up to the first that is stopped. -/
def State.readElems (s : State) (e : EngOp) (esz : Nat) : List (Nat × Word64) → State × List Byte × Option EngStop
  | [] => (s, [], none)
  | p :: ps =>
    match s.readElem e esz p with
    | (s, .error k) => (s, [], some k)
    | (s, .ok bs) =>
      let r := State.readElems s e esz ps
      (r.1, bs ++ r.2.1, r.2.2)

/-- The place of bytes at a generic address, where it has one. -/
def State.engSpan (s : State) (e : EngOp) (ea : Word64) (n : Nat) : Option (Space × Nat) := match s.engPlace e ea n false with | .ok p => some p | .error _ => none

/-- Two spans of bytes share one. -/
def spansMeet (n : Nat) (p : Option (Space × Nat)) (m : Nat) (q : Option (Space × Nat)) : Bool :=
  match p, q with
  | some p, some q => p.1.same q.1 && decide (p.2 < q.2 + m) && decide (q.2 < p.2 + n)
  | _, _ => false

/-- R276: a run ends before an element whose source bytes are destination bytes of the run so far, which it reads as they were written. -/
def State.cutRun (s : State) (e : EngOp) (esz : Nat) (d : Word64) (head : List (Nat × Word64)) : List (Nat × Word64) → List (Word64 × List (Nat × Word64))
  | [] => [(d, head)]
  | p :: ps =>
    let n := esz * head.length
    if spansMeet esz (s.engSpan e p.2 esz) n (s.engSpan e d n) then (d, head) :: State.cutRun s e esz (d + BitVec.ofNat 64 n) [p] ps
    else State.cutRun s e esz d (head ++ [p]) ps

/-- Runs one after another: each is read, then written (R251); a run in a 32-byte unit is a single write (R425). -/
def State.runBursts (s : State) (e : EngOp) (esz : Nat) : List (Word64 × List (Nat × Word64)) → EngRun
  | [] => (s, none)
  | (d, srcs) :: rest =>
    let (s, bs, stop) := s.readElems e esz srcs
    let (s, w) := if bs.isEmpty then (s, none) else s.engWrite e d bs
    match w, stop with
    | some k, _ => (s, some (k, true))
    | none, some k => (s.engDone e.id ((srcs.take (bs.length / max esz 1)).map (·.1)), some (k, false))
    | none, none => State.runBursts (s.engDone e.id (srcs.map (·.1))) e esz rest

/-- The elements of an operation that are not performed, with their numbers. -/
def EngOp.left {α : Type} (e : EngOp) (xs : List α) : List (Nat × α) := ((List.range xs.length).zip xs).filter fun p => !e.done.contains p.1

/-- R258: an element of a burst (R251) of which another element has been read or written: the burst is issued. -/
def EngOp.inBurst (e : EngOp) (esz : Nat) (ps : List (Word64 × Word64)) (i : Nat) : Bool :=
  (bursts 256 esz (((List.range ps.length).zip ps).map fun p => (p.1, p.2.2))).any fun b =>
    b.2.contains i && b.2.any fun j => e.done.contains j || (SMap.get? e.taken j).isSome

/-- R258, R252: the operation may still perform this element: it has met no error, and if it is cancelled the element's burst is issued. -/
def EngOp.performs (e : EngOp) (esz : Nat) (ps : List (Word64 × Word64)) (i : Nat) : Bool :=
  !e.stopped && (if e.cancelled then e.inBurst esz ps i else e.refused.isNone)

/-- R251, R258: the elements of a copy that are left, of a cancelled one those of the bursts that are issued. -/
def State.runElems (s : State) (e : EngOp) (esz : Nat) (ps : List (Word64 × Word64)) : EngRun :=
  s.runBursts e esz ((bursts 32 esz (((e.left ps).filter fun p => e.performs esz ps p.1).map fun p => ((p.1, p.2.1), p.2.2))).flatMap fun b => s.cutRun e esz b.1 [] b.2)

/-! ## Elements in turns of their own (R276) -/

/-- R276: element order holds only where one element's destination bytes are another's source bytes: element `i` is read after the earlier writes of its source, and
written after the earlier elements' reads of its destination. -/
def State.elemReady (s : State) (e : EngOp) (esz : Nat) (ps : List (Word64 × Word64)) (i : Nat) (put : Bool) : Bool :=
  match ps[i]? with
  | none => false
  | some p =>
    ((List.range i).zip ps).all fun q => e.done.contains q.1 ||
      (if put then (SMap.get? e.taken q.1).isSome || !spansMeet esz (s.engSpan e p.2 esz) esz (s.engSpan e q.2.1 esz)
       else !spansMeet esz (s.engSpan e p.1 esz) esz (s.engSpan e q.2.2 esz))

/-- R253, R249: the commit of a copy: CBREL.p of one entry; `none` breaks R249. -/
def CBuf.commit (b : CBuf) : Option CBuf :=
  if (b.putRes - b.putDone).toNat < 1 then none
  else some { b with putDone := b.putDone + 1, pPutDone := (b.pPutDone + 1) % max b.count 1 }

/-- The commit of a copy at its workgroup; false when it breaks R249. It is judged before the stamp is written (log entry 86). -/
def State.commitCopy (s : State) (e : EngOp) (d : CopyDesc) : State × Bool :=
  if !d.commits || e.killed then (s, true)
  else
    match (s.owner? e.launch e.wgno).bind fun w => (SMap.get? w.cbs d.buffer).bind CBuf.commit with
    | none => (s, false)
    | some b => (s.modOwner e.launch e.wgno fun w => { w with cbs := SMap.set w.cbs d.buffer b }, true)

/-- R253, R254: another copy of the workgroup that commits to the same buffer, or of the same q2, is before this one. -/
def State.copyWaits (s : State) (e : EngOp) (d : CopyDesc) : Bool :=
  s.cores.any fun p => p.2.eng.any fun q =>
    q.launch == e.launch && q.wgno == e.wgno && decide (q.id < e.id) && !q.killed &&
      match q.kind with
      | .copy d' _ => (d.commits && d'.commits && d.buffer == d'.buffer) || (q.handle.isNone && e.handle.isNone && q.uid == e.uid)
      | _ => false

end Sys2Proof.Machine
end

