-- ==== Sys2Proof/Machine/Channel.lean ====
section
/-! DEFINITION. Channels (R236 to R242, R293 to R313): sessions and how operations join them, packets, the resequencer and what it applies (R100 to
R104, R300, R311), acknowledgements, the handshake, severing, and the steps CHANNEL_PACKET_SEND to RESYNC_ATTEMPT_TIMEOUT. -/

namespace Sys2Proof.Machine

open Sys2Proof

/-! ## Sessions (R293 to R295) -/

/-- Sequence numbers are compared modulo 2^16 (R293). -/
def seqSub (a b : Nat) : Nat := (a + 2 ^ 16 - b % 2 ^ 16) % 2 ^ 16
def seqAdd (a b : Nat) : Nat := (a + b) % 2 ^ 16

/-- R294. -/
def streamId (dev core chan epoch : Nat) : Nat := dev * 2 ^ 16 + core * 2 ^ 7 + chan * 2 ^ 3 + epoch
def streamCore (st : Nat) : Nat := st / 2 ^ 7 % 512
def streamDev (st : Nat) : Nat := st / 2 ^ 16

def Wg.chan (w : Wg) (k : Nat) : List Session := SMap.getD w.chans k (List.replicate 4 Session.closed)
def Wg.session (w : Wg) (k n : Nat) : Session := (w.chan k).getD n Session.closed
def Wg.setSession (w : Wg) (k n : Nat) (x : Session) : Wg := { w with chans := SMap.set w.chans k ((w.chan k).set n x) }

/-- The sessions of a workgroup that are not closed: channel, number in the register, session. Those of a channel restored with orphans are not its own. -/
def Wg.sessions (w : Wg) : List (Nat × Nat × Session) :=
  ((List.range 16).flatMap fun k => (List.range 4).map fun n => (k, n, w.session k n)).filter fun p =>
    p.2.2.state != .closed && !w.orphaned.contains p.1

/-- The sessions in the engine of a core: those of its workgroup, then the orphans (R307), which the last component tells apart. -/
def State.sessionsAt (s : State) (c : Nat) : List (Nat × Nat × Session × Bool) :=
  (match s.wg? c with | some w => w.sessions.map fun p => (p.1, p.2.1, p.2.2, false) | none => []) ++
    (s.core c).orphans.map fun (o : Orphan) => (o.chan, o.sess, o.word, true)

/-- A session in the engine of a core, by its own number. -/
def State.sess? (s : State) (c sess : Nat) : Option (Nat × Nat × Session × Bool) := (s.sessionsAt c).find? fun p => p.2.2.1.openedAt == sess

/-- The session that a reply from a die of a device concerns: of the stream that it names, to that destination, and one that can take it. -/
def State.sessFrom (s : State) (dev die stream : Nat) (ok : Session → Bool) : Option (Nat × Nat × Session × Bool) :=
  (s.sessionsAt (streamCore stream)).find? fun p =>
    streamId s.devNum.toNat (streamCore stream) p.1 p.2.2.1.epoch == stream && p.2.2.1.dev == dev && p.2.2.1.die == die && ok p.2.2.1

/-- Changes a session that `sess?` finds. -/
def State.modSess (s : State) (c sess : Nat) (f : Session → Session) : State :=
  match s.sess? c sess with
  | none => s
  | some (k, n, x, false) => s.modWg c fun w => w.setSession k n (f x)
  | some (_, _, _, true) => s.modCore c fun p => { p with orphans := p.orphans.map fun o => if o.word.openedAt == sess then { o with word := f o.word } else o }

/-- A message leaves for a device; with no link up it is lost (R41). -/
def State.sendMsg (s : State) (dev : Nat) (m : ChanMsg) : State :=
  if dev = s.devNum.toNat then { s with msgs := s.msgs ++ [m] } else if s.cutOffPeers then s else s.emit (.peerMsg dev m)

/-- The operations of a session that are not acknowledged. -/
def State.opsOf (s : State) (c sess : Nat) : List ChanOp := (s.core c).chanOps.filter (·.sess == some sess)

/-- R294: the stream of a session of a core. -/
def State.streamOf (s : State) (c k : Nat) (x : Session) : Nat := streamId s.devNum.toNat c k x.epoch

/-- R295, R303: a session with nothing outstanding or held closes, with SCL. -/
def State.closeSess (s : State) (c sess : Nat) : State :=
  match s.sess? c sess with
  | some (k, _, x, _) =>
    (s.modSess c sess fun y => { Session.closed with epoch := y.epoch }).sendMsg x.dev (.scl x.die (s.streamOf c k x))
  | none => s

/-! ## Joining (R236, R295, R296, R308, R312) -/

/-- R376, R311: the home map entry that a core's cache names for an address: the entry it holds, which may be stale, else the table's. -/
def State.homeSeen (s : State) (c asid va : Nat) : Word32 :=
  match (s.core c).home.find? fun p => p.1 == asid && p.2.1 == va / 2 ^ 21 with
  | some p => p.2.2
  | none => s.homeEntry asid va

/-- The cache of a core takes the entry of a region; it holds 512. -/
def State.homeFill (s : State) (c asid va : Nat) : State :=
  if (s.core c).home.any fun p => p.1 == asid && p.2.1 == va / 2 ^ 21 then s
  else s.modCore c fun k => { k with home := ((asid, va / 2 ^ 21, s.homeEntry asid va) :: k.home).take 512 }

/-- R237: the device and die that an operation goes to: by the home map entry at issue (R311). -/
def State.chanDest (s : State) (c asid va : Nat) : Nat × Nat := ((s.peerOf asid va).getD s.devNum.toNat, hmHome (s.homeSeen c asid va))

/-- R237: a destination whose session of the channel is severed. -/
def Wg.severedTo (w : Wg) (k : Nat) (d : Nat × Nat) : Bool := (w.chan k).any fun x => x.state == .severed && x.dev == d.1 && x.die == d.2

/-- R308: the orphans of the workgroup that the Depot has not been told the end of, with their channels. -/
def State.orphansLeft (s : State) (w : Wg) : List (Nat × Nat × Nat) := (((s.launch? w.launch).map (·.orphans)).getD []).filter (·.1 == w.wgno)

/-- R308: of those, the orphans of the channel and of those that its saved chain mask names. -/
def State.orphansOf (s : State) (w : Wg) (k : Nat) : List Nat :=
  ((s.orphansLeft w).filter fun o => o.2.1 == k || w.savedMasks.any fun h => h.1 == k && h.2.getLsbD o.2.1).map (·.2.2)

/-- R308: the restored sessions of a channel close but for those that severed. -/
def Wg.closeRestored (w : Wg) (k : Nat) : Wg :=
  if w.orphaned.contains k then
    { w with
      orphaned := w.orphaned.filter (· != k)
      savedMasks := w.savedMasks.filter (·.1 != k)
      chans := SMap.set w.chans k ((w.chan k).map fun x => if x.state == .severed then x else { Session.closed with epoch := x.epoch }) }
  else w

/-- R308: the restored channels whose orphans are all done close their sessions. -/
def State.closeDone (s : State) (w : Wg) : Wg :=
  (w.orphaned.filter fun k => !(s.orphansLeft w).any fun o => o.2.1 == k).foldl Wg.closeRestored w

/-- The session that an operation to a destination joins: one that is there, or one that opens. -/
inductive Slot where
  | there (n : Nat) | opens (n : Nat) (full : Option Nat) | none
deriving DecidableEq, Repr

/-- R295: the lowest closed session; else the oldest open one once nothing of it is outstanding, whose number is `full`. -/
def State.slotFor (s : State) (c : Nat) (w : Wg) (k : Nat) (d : Nat × Nat) : Slot :=
  let xs := (List.range 4).map fun n => (n, w.session k n)
  match xs.find? fun p => p.2.state != .closed && p.2.dev == d.1 && p.2.die == d.2 with
  | some p => .there p.1
  | none =>
    match xs.find? fun p => p.2.state == .closed with
    | some p => .opens p.1 Option.none
    | none =>
      match minBy (fun a b => decide (a.2.openedAt < b.2.openedAt)) (xs.filter fun p => p.2.state == .opened) with
      | some p => if (s.opsOf c p.2.openedAt).isEmpty then .opens p.1 (some p.2.openedAt) else .none
      | none => .none

/-- R296: the operations that a core's engine retains. -/
def Core.retained (x : Core) : Nat := x.chanOps.length

/-- R238: what a CHAIN in force makes a later operation of the channel wait for. -/
def State.chainIds (s : State) (w : Wg) (k : Nat) : List Nat :=
  (w.chains.filter (·.later == k)).flatMap fun h => (h.ops ++ h.mems).filter fun i => s.alive w.launch w.wgno [i]

/-- R312: the channel's last operation to the same region when it went to another die. -/
def State.moved (s : State) (c : Nat) (o : ChanOp) : List Nat :=
  match ((s.core c).chanOps.filter fun q => q.launch == o.launch && q.wgno == o.wgno && q.chan == o.chan && q.va / 2 ^ 21 == o.va / 2 ^ 21).getLast? with
  | some q => if q.die = o.die ∧ q.dev = o.dev then [] else [q.id]
  | none => []

/-- R278: what an operation of a copy waits for: the last earlier operation of the copy in each other session, since element order holds across sessions. -/
def State.copyBefore (s : State) (c : Nat) (o : ChanOp) : List Nat :=
  if o.kind ≤ 3 then []
  else
    let mine := (s.core c).chanOps.filter fun q => q.op == o.op && decide (4 ≤ q.kind) && q.sess != o.sess
    (dedup (mine.filterMap (·.sess))).filterMap fun n => ((mine.filter (·.sess == some n)).getLast?).map (·.id)

/-! ## The end of operations at their owners (R237, R239, R240, R301, R305) -/

def regsOf (bytes : Nat) : Nat := max 1 (bytes / 4)

/-- R230 to R232: an atomic all of whose lanes are closed replies at a ck: the old values of the lanes performed are written, its flags are raised, its
counter goes down. The flags of a group that is parked, or gone, go to the workgroup flag word (R90). The exception is FP_TRAP (R91): deferred, with the word's PC
and lanes, or at the workgroup, which names no PC, if the group slot has freed (R423, R431). -/
def Wg.replyAtom (w : Wg) (tmask : Word32) (ck : Nat) (o : MemOp) : Wg × List Exc :=
  let done := o.lanes.filter fun l => l.stat == .performed
  let ws := done.flatMap fun l => (o.locs l.slot (regsOf o.bytes)).zip ((List.range (regsOf o.bytes)).map fun i => BitVec.ofNat 32 (l.old / 2 ^ (32 * i)))
  let f := done.foldl (fun f l => f ||| l.flags) 0
  let w := w.deliver ck o.id ws
  let resident := (w.groupByUid o.uid).isSome
  let there := resident || w.parked.any fun p => p.group.uid == o.uid
  let w := { w with ops := w.ops.map fun (q : MemOp) => if q.id == o.id then { q with replied := true } else q }
  let w := if there then w.modUid o.uid fun g => { g with
      flags := if resident then g.flags ||| f else g.flags
      cts := if o.ct = 0 then g.cts else SMap.set g.cts o.ct (g.ct o.ct - 1)
      holdOp := if g.holdOp == some o.id then none else g.holdOp }
    else w
  let w := if resident then w else { w with flags := w.flags ||| f }
  (w, if !trapped f tmask then [] else if there then [⟨cFpTrap, 0, o.gslot, o.mask % 2 ^ 32, o.pc⟩] else [⟨cFpTrap, 2, 0, 0, 0⟩])

/-- A lane of a channelled access is closed: performed with what the home returned, or discarded. With the last one the access is acknowledged, and an
atomic replies; a RED's flags go to the workgroup flag word (R102, R233). -/
def Wg.chanLane (w : Wg) (tmask : Word32) (ck id lane : Nat) (got : Option Applied) : Wg × List Exc :=
  match w.op? id with
  | none => (w, [])
  | some o =>
    let close (l : LaneAcc) : LaneAcc := match got with
      | some a => { l with stat := .performed, old := a.old, flags := a.flags }
      | none => { l with stat := .discarded }
    let o := o.modLane lane close
    let shut := !o.lanes.any (·.isOpen)
    let o := { o with acked := shut }
    let w := { w with ops := w.ops.map fun (q : MemOp) => if q.id == id then o else q }
    let atom := match o.aop with | .atom _ _ => true | _ => false
    let w := match got, atom with
      | some a, false => { w with flags := w.flags ||| a.flags }
      | _, _ => w
    let (w, es) := if shut && atom then w.replyAtom tmask ck o else (w, [])
    let es : List Exc := if got.isNone && atom then es ++ [⟨cChannelSevered, 2, 0, 0, 0⟩] else es
    ({ w with ops := w.ops.filter fun (q : MemOp) => !(q.acked && q.replied) }, es)

/-- The core count of a workgroup, where it is resident. -/
def State.ownerCk (s : State) (u n : Nat) : Nat := ((s.ownerCore u n).map fun c => (s.core c).ck).getD 0

/-- R293: a chain names only the channels, and the anonymous stream, that have something unacknowledged from before it; with nothing left it is gone. -/
def State.pruneChains (s : State) (w : Wg) : List Chain :=
  let left (h : Chain) : Chain :=
    let live := s.cores.flatMap fun p => p.2.chanOps.filter fun o => h.ops.contains o.id
    let mems := h.mems.filter fun i => s.alive w.launch w.wgno [i]
    let mask : Nat := (if mems.isEmpty then 0 else 2 ^ 16) + (dedup (live.map (·.chan))).foldl (fun m k => m + 2 ^ k) 0
    { h with mask := h.mask &&& BitVec.ofNat 17 mask, ops := live.map (·.id), mems := mems }
  (w.chains.map left).filter fun h => h.mask != 0

/-- R293: the chain masks of a resident workgroup follow what is acknowledged. -/
def State.narrowChains (s : State) (u n : Nat) : State :=
  match s.ownerCore u n with
  | some c => s.modWg c fun w => { w with chains := s.pruneChains w }
  | none => s

/-- An operation leaves the engine: acknowledged, or without effect, which its channel keeps in mind (R239). Its lines leave the L1s, so that a later read
of its thread respects R289. -/
def State.closeOp (s : State) (o : ChanOp) (got : Option Applied) : State :=
  let tell (e : EngOp) : EngOp := match e.kind with
    | .drainChan _ ids => if got.isNone && ids.contains o.id then { e with refused := some cChannelSevered } else e
    | _ => e
  let stays (l : L1Line) : Bool := !(l.asid == o.asid && decide (lineOf o.va ≤ l.line) && decide (l.line ≤ lineOf (o.va + max o.bytes 1 - 1)))
  let free (w : Wg) : Wg := { w with inherited := w.inherited.filter (·.1 != o.id) }
  let s : State := { s with
    cores := s.cores.map fun p =>
      (p.1, { p.2 with chanOps := p.2.chanOps.filter (·.id != o.id), eng := p.2.eng.map tell, l1 := p.2.l1.filter stays, wg := p.2.wg.map free })
    launches := s.launches.map fun l => { l with saved := l.saved.map fun v => { v with wg := free v.wg } } }
  let s := (if got.isSome then s else s.modOwner o.launch o.wgno fun w => { w with lost := dedup (o.chan :: w.lost) }).narrowChains o.launch o.wgno
  if 4 ≤ o.kind then (if got.isSome then s else s.engError o.op cChannelSevered)
  else
    match s.owner? o.launch o.wgno with
    | none => s
    | some w =>
      let (w', es) := w.chanLane (s.recOfLaunch o.launch).tmask (s.ownerCk o.launch o.wgno) o.op o.lane got
      es.foldl (fun s e => s.raiseOwner o.launch o.wgno e) (s.modOwner o.launch o.wgno fun _ => w')

/-- R240: the operations held behind discarded ones through CHAIN, one round after another; `fuel` bounds the rounds. -/
def State.discardBehind (s : State) (gone : List Nat) : Nat → State
  | 0 => s
  | fuel + 1 =>
    let next := s.cores.flatMap fun p => p.2.chanOps.filter fun o => o.after.any gone.contains
    if next.isEmpty then s else State.discardBehind (next.foldl (fun s o => s.closeOp o none) s) (gone ++ next.map (·.id)) fuel

/-- R237, R305: operations take no effect, nor do those that a CHAIN holds behind them (R240). -/
def State.discard (s : State) (ops : List ChanOp) : State :=
  (ops.foldl (fun s o => s.closeOp o none) s).discardBehind (ops.map (·.id)) (s.cores.foldl (fun m p => m + p.2.chanOps.length) 1)

/-! ## How operations enter the engine and find their sessions -/

/-- A session opens for an operation (R294, R295). -/
def Wg.openSession (w : Wg) (k n : Nat) (d : Nat × Nat) (id : Nat) : Wg :=
  w.setSession k n { Session.closed with state := .opened, dev := d.1, die := d.2, epoch := ((w.session k n).epoch + 1) % 8, openedAt := id }

/-- An operation has its session. -/
def ChanOp.inSession (o : ChanOp) (stream : Nat) (x : Session) : ChanOp := { o with sess := some x.openedAt, stream := stream }

/-- The session of a workgroup that an operation takes: `none`: it has to wait (R295); else the state, and the operation with its session, if its session
has not severed. -/
def State.takeSession (s : State) (c : Nat) (o : ChanOp) : Option (State × Option ChanOp) :=
  let s := s.modWg c fun w => (s.closeDone w).closeRestored o.chan
  match s.wg? c with
  | none => none
  | some w =>
    let d := (o.dev, o.die)
    let use (s : State) (n : Nat) : State × Option ChanOp :=
      let x := (((s.wg? c).map fun w => w.session o.chan n)).getD Session.closed
      (s, if x.state == .severed then none else some (o.inSession (s.streamOf c o.chan x) x))
    match s.slotFor c w o.chan d with
    | .there n => some (use s n)
    | .opens n full =>
      let s := match full with | some st => s.closeSess c st | none => s
      some (use ((s.modWg c fun w => w.openSession o.chan n d s.nextId).fresh) n)
    | .none => none

/-- R308: operations of the workgroup's channel wait at the source for a session. -/
def State.heldOps (s : State) (c : Nat) (w : Wg) (k : Nat) : List ChanOp :=
  (s.core c).chanOps.filter fun o => o.sess.isNone && o.launch == w.launch && o.wgno == w.wgno && o.chan == k

/-- One operation enters the engine with its session, or, behind orphans, without one (R308); `none`: it waits at issue. -/
def State.join (s : State) (c : Nat) (o : ChanOp) : Option State :=
  match s.wg? c with
  | none => none
  | some w =>
    if Config.channelLimit ≤ (s.core c).retained then none
    else
      let d := s.chanDest c o.asid o.va
      let s := s.homeFill c o.asid o.va
      let o := { o with dev := d.1, die := d.2, after := s.chainIds w o.chan }
      let put (s : State) (o : ChanOp) : State :=
        let o := { o with id := s.nextId, after := o.after ++ s.copyBefore c o, soft := o.soft ++ s.moved c o }
        (s.modCore c fun x => { x with chanOps := x.chanOps ++ [o] }).fresh
      let orphans := s.orphansOf w o.chan
      if !orphans.isEmpty || !(s.heldOps c w o.chan).isEmpty then
        let wait := s.cores.flatMap fun p => (p.2.chanOps.filter fun q => match q.sess with | some n => orphans.contains n | none => false).map (·.id)
        some (put s { o with soft := o.soft ++ wait })
      else
        match s.takeSession c o with
        | none => none
        | some (s, some o) => some (put s o)
        | some (s, none) => let o := { o with id := s.nextId }; some ((s.fresh).discard [o])

/-- Operations join one after another; the state, and how many joined. -/
def State.joinAll (s : State) (c : Nat) : List ChanOp → State × Nat
  | [] => (s, 0)
  | o :: os =>
    match s.join c o with
    | none => (s, 0)
    | some s => let (s, n) := State.joinAll s c os; (s, n + 1)

/-- R308: an operation that waits at the source takes its session once the orphans before it are gone. One to a destination that has severed meanwhile takes
no effect. -/
def State.placeHeldOne (s : State) (c : Nat) (o : ChanOp) : State :=
  match s.wg? c with
  | none => s
  | some w =>
    if !(s.orphansOf w o.chan).isEmpty || (s.heldOps c w o.chan).head? != some o then s
    else
      match s.takeSession c o with
      | none => s
      | some (s, some o') => s.modCore c fun x => { x with chanOps := x.chanOps.map fun q => if q.id == o.id then o' else q }
      | some (s, none) => s.discard [o]

def State.placeHeld (s : State) (c : Nat) : State :=
  ((s.core c).chanOps.filter fun o => o.sess.isNone).foldl (fun s o => s.placeHeldOne c o) s

/-! ## Orphans, and sessions of a retired workgroup (R307, R310) -/

/-- The Depot hears that an orphan is done (R307). -/
def State.forgetOrphan (s : State) (o : Orphan) : State :=
  s.modLaunch o.launch fun l => { l with orphans := l.orphans.filter fun q => q.2.2 != o.word.openedAt }

/-- R307: an open orphan with nothing outstanding sends SCL, tells the Depot, and is gone. R310: so does, without the notice, each session of a workgroup
that has retired. One in RESYNC, whose table row (R303) has no such event, waits for its RSA or its severance (a choice of the model's: log entry 107). -/
def State.sweepSessions (s : State) (c : Nat) : State :=
  let s := (s.core c).orphans.foldl (fun s o =>
    if o.word.state == .opened && (s.opsOf c o.word.openedAt).isEmpty then
      ((s.modCore c fun x => { x with orphans := x.orphans.filter fun q => q.word.openedAt != o.word.openedAt }).sendMsg o.word.dev
        (.scl o.word.die o.stream)).forgetOrphan o
    else s) s
  match s.wg? c with
  | some w =>
    if w.retired then w.sessions.foldl (fun s p =>
      if p.2.2.state == .opened && (s.opsOf c p.2.2.openedAt).isEmpty then s.closeSess c p.2.2.openedAt else s) s
    else s
  | none => s

/-- What the end of operations allows, at every core: orphans go, sessions of retired workgroups close, operations held at the source take their sessions. -/
def State.sweepAll (s : State) : State :=
  let cs := SMap.keys s.cores
  cs.foldl (fun s c => s.placeHeld c) (cs.foldl (fun s c => s.sweepSessions c) s)

/-- R305: a session severs: its packets and operations go, and what CHAIN holds behind them (R240); an orphan's workgroup finds the session severed (R308),
and operations that wait at the source for the same destination take no effect. -/
def State.sever (s : State) (c sess : Nat) : State :=
  match s.sess? c sess with
  | none => s
  | some (k, n, x, orphan) =>
    let ops := s.opsOf c sess
    let sent := ((s.core c).packets.filter (·.sess == sess)).map (·.seq)
    let st := s.streamOf c k x
    let s := s.modCore c fun p => { p with packets := p.packets.filter (·.sess != sess) }
    let s := { s with msgs := s.msgs.filter fun m => match m with
      | .packet die t q _ _ => !(t == st && die == x.die && x.dev == s.devNum.toNat && sent.contains q)
      | _ => true }
    if orphan then
      match (s.core c).orphans.find? fun o => o.word.openedAt == sess with
      | some o =>
        let s := (s.modCore c fun p => { p with orphans := p.orphans.filter (·.word.openedAt != sess) }).forgetOrphan o
        let late := s.cores.flatMap fun p => p.2.chanOps.filter fun q =>
          q.launch == o.launch && q.wgno == o.wgno && q.chan == k && q.dev == x.dev && q.die == x.die && q.sess != some sess && q.seq.isNone
        if o.killed then s.discard ops
        else (s.modOwner o.launch o.wgno fun w => w.setSession k n { x with state := .severed }).discard (ops ++ late)
      | none => s
    else (s.modSess c sess fun x => { x with state := .severed }).discard ops

/-! ## Performing operations at their homes (R100 to R104, R300, R311) -/

/-- R100: the contribution of a value with scale S: the integer, its marks (NaN, +inf, -inf in bits 0 to 2), the flags. -/
def contribution (x : FV) (scale : Int) : Int × Nat × Fl :=
  match x with
  | .nan sig => (0, 1, { Fl.none with nv := sig })
  | .inf neg => (0, if neg then 4 else 2, Fl.none)
  | .fin neg m e =>
    let k := e + 96 - scale
    let (q, nx) := if 0 ≤ k then (m * 2 ^ k.toNat, false) else roundShift .rne neg m false (-k).toNat
    let v : Int := if neg then -Int.ofNat q else Int.ofNat q
    let hi : Int := 2 ^ 127 - 1
    if hi < v then (hi, 0, { Fl.none with of := true, nx := nx })
    else if v < -(2 ^ 127) then (-(2 ^ 127), 0, { Fl.none with of := true, nx := nx })
    else (v, 0, { Fl.none with nx := nx })

/-- R102: the value that a shadow stands for. -/
def Shadow.value (h : Shadow) : Nat × Fl :=
  let f := faddFmt h.ty
  if h.nan || (h.pinf && h.ninf) then (f.canon, { Fl.none with nv := h.pinf && h.ninf && !h.nan })
  else if h.pinf || h.ninf then (f.infBits h.ninf, Fl.none)
  else
    let hi : Int := 2 ^ 127 - 1
    let (v, of) := if hi < h.sum then (hi, true) else if h.sum < -(2 ^ 127) then (-(2 ^ 127 : Int), true) else (h.sum, false)
    let (w, fl) := f.convert .rne false (.fin (decide (v < 0)) v.natAbs (h.scale - 96))
    (w, { fl with of := fl.of || of })

/-- R101: the shadow of an element: the one that is there, or one made from the memory value, with the flags of its making. -/
def Die.shadowFor (d : Die) (key : Nat) (ty : FaddTy) (scale : Int) (v : Nat) : Shadow × Fl :=
  match d.shadows.find? fun h => h.key == key && h.ty == ty && h.scale == scale with
  | some h => (h, Fl.none)
  | none =>
    let (c, marks, fl) := contribution ((faddFmt ty).decode v) scale
    (⟨key, ty, scale, c, 0, marks == 1, marks == 2, marks == 4, 0, 0⟩, fl)

/-- R101 to R103: a contribution reaches the root home of an element: the new value and the flags, and the shadows of the die. -/
def Die.contribute (d : Die) (key : Nat) (o : ChanOp) (ty : FaddTy) (v : Nat) : Die × Nat × Fl :=
  let n := (faddFmt ty).bits / 8
  let size (h : Shadow) : Nat := (faddFmt h.ty).bits / 8
  let (h, f0) := d.shadowFor key ty o.scale v
  let h := { h with sum := h.sum + signed 128 o.data, count := h.count + 1, nan := h.nan || o.marks % 2 == 1, pinf := h.pinf || o.marks / 2 % 2 == 1,
                    ninf := h.ninf || o.marks / 4 % 2 == 1, asid := o.asid, va := o.va }
  let (w, f1) := h.value
  let rest := d.shadows.filter fun q => !(decide (q.key < key + n) && decide (key < q.key + size q))
  ({ d with shadows := if h.count < 2 ^ 32 - 1 then h :: rest else rest }, w, f0.or f1)

/-- The core that sent an operation of this device. -/
def State.fromHere (s : State) (o : ChanOp) : Bool := streamDev o.stream == s.devNum.toNat

/-- The operation still stands at its source, which knows whether it is refused; those of other devices always do (R305). -/
def State.atSource (s : State) (o : ChanOp) : Option ChanOp :=
  if s.fromHere o then (s.core (streamCore o.stream)).chanOps.find? (·.id == o.id) else some o

/-- R283: an older operation of the same channel has met a fault that is not answered. -/
def State.behindFault (s : State) (o : ChanOp) : Bool :=
  s.fromHere o && (s.core (streamCore o.stream)).chanOps.any fun q =>
    q.fault && decide (q.id < o.id) && q.launch == o.launch && q.wgno == o.wgno && q.chan == o.chan

def chanNeed (o : ChanOp) : Need := if 4 ≤ o.kind then needWrite else o.aop.need

/-- R311, R382, R398: an operation of a packet can be performed now: every line of it has its place, and its milestone copy room. A fault is kept at the
source. -/
def State.placeableOne (s : State) (o : ChanOp) : State × Bool :=
  match s.atSource o with
  | none => (s, true)
  | some q =>
    if q.dead then (s, true)
    else if q.fault || s.behindFault o then (s, false)
    else
      let need := chanNeed o
      let lines := (List.range (lineOf (o.va + max o.bytes 1 - 1) - lineOf o.va + 1)).map fun i => max o.va (128 * (lineOf o.va + i))
      let fault (s : State) (va k : Nat) : State × Bool :=
        if !s.fromHere o then (s, false)
        else
          let c := streamCore o.stream
          let s := s.modCore c fun x => { x with chanOps := x.chanOps.map fun q => if q.id == o.id then { q with fault := true } else q }
          if 4 ≤ o.kind then
            match s.eng? o.op with
            | some (_, e) => (s.engFault c e va k true, false)
            | none => (s, false)
          else
            match s.ownerCore o.launch o.wgno, s.memOp? c o.op with
            | some c', some m =>
              if c' = c then
                match m.lane? o.lane with
                | some l => (s.logLane c m l k, false)
                | none => (s, false)
              else (s.reportFault ((s.tenantOfAsid o.asid).getD 0) va o.asid c o.aop.kind k, false)
            | _, _ => (s.reportFault ((s.tenantOfAsid o.asid).getD 0) va o.asid c o.aop.kind k, false)
      lines.foldl (fun (p : State × Bool) va =>
        if !p.2 then p
        else
          match p.1.place o.asid va need with
          | (s, .at key) => if need.wr && (s.homeWrite o.asid va key [0] o.gen true).isNone then fault s va 4 else (s, true)
          | (s, .held) => (s, false)
          | (s, .fault k) => fault s va k) (s, true)

/-- R383: a word of several lanes that could be refused takes no effect in any: its other lanes must have their places as well. -/
def State.placeable (s : State) (o : ChanOp) : State × Bool :=
  let applied (s : State) (id : Nat) : Bool := s.dies.any fun p => p.2.reseq.any fun e => (e.applied ++ e.doing).any fun a => a.op == id
  let lanes := if s.fromHere o && decide (o.kind ≤ 3) then
      (s.core (streamCore o.stream)).chanOps.filter fun q => q.op == o.op && decide (q.kind ≤ 3) && q.id != o.id && !applied s q.id
    else []
  (o :: lanes).foldl (fun (p : State × Bool) q => if p.2 then p.1.placeableOne q else p) (s, true)

/-- R279, R230, R101: an operation is performed at its home; `none`: it cannot be now. Each contribution reaches the root home of its element singly: R101 lets
the junctions on the way add contributions together, to the same sum (a choice of the model's: log entry 80). -/
def State.applyOp (s : State) (die : Nat) (o : ChanOp) : State × Option Applied :=
  let nothing : Applied := ⟨o.id, 0, 0⟩
  match s.atSource o with
  | none => (s, some nothing)
  | some q =>
    if q.dead then (s, some nothing)
    else if 4 ≤ o.kind then
      match s.writeRun o.asid o.va o.gen (natToBytes o.bytes o.data) with
      | (s', none) => (s', some nothing)
      | (_, some _) => (s, none)
    else
      match s.place o.asid o.va (chanNeed o) with
      | (s, .at key) =>
        if o.aop.isRmw && s.isPoisoned key o.bytes then
          (match s.ownerCore o.launch o.wgno with | some c => s.machineCheck c cMemUncorrectable | none => s, some nothing)
        else
          let old := s.rmwRead o.asid o.va key o.bytes o.gen
          let write (s : State) (v : Nat) (keep : Bool) (a : Applied) : Option (State × Option Applied) :=
            (s.homeWrite o.asid o.va key (natToBytes o.bytes v) o.gen keep).map fun s => (s, some a)
          match o.aop with
          | .contrib ty _ =>
            let die := if s.isHost o.asid o.va then die else s.homeDie o.asid o.va
            let (d, v, f) := (s.die die).contribute key o ty old
            (write (s.setDie die d) v true ⟨o.id, 0, f.word⟩).getD (s, none)
          | a =>
            let (v, f) := homeValue a o.bytes old o.data o.cmp
            (write s v false ⟨o.id, old, f.word⟩).getD (s, none)
      | (s, _) => (s, none)

/-- Two operations touch a line in common. -/
def ChanOp.meets (o q : ChanOp) : Bool :=
  o.asid == q.asid && decide (lineOf o.va ≤ lineOf (q.va + max q.bytes 1 - 1)) && decide (lineOf q.va ≤ lineOf (o.va + max o.bytes 1 - 1))

/-- R311: a line of the operation is being moved. -/
def State.onMovingLine (s : State) (o : ChanOp) : Bool :=
  (List.range (lineOf (o.va + max o.bytes 1 - 1) - lineOf o.va + 1)).any fun i =>
    let va := 128 * (lineOf o.va + i)
    s.steer (s.homeEntry o.asid va) va == .held

/-- R300, R311: a packet's operations are performed in record order; `doing` are those performed before. One whose line is being moved is held, and later ones to other lines go
on; behind one that a fault or an empty milestone pool stops, none does. -/
def State.applyOps (s : State) (die : Nat) (doing : List Applied) (ops : List ChanOp) : State × List Applied :=
  let r := ops.foldl (fun (p : State × List Applied × List ChanOp × Bool) o =>
    let (s, doing, waits, stop) := p
    if stop || doing.any fun a => a.op == o.id then p
    else if waits.any o.meets then (s, doing, waits ++ [o], false)
    else
      match s.placeable o with
      | (s, false) => (s, doing, waits ++ [o], !s.onMovingLine o)
      | (s, true) =>
        match s.applyOp die o with
        | (s, none) => (s, doing, waits ++ [o], !s.onMovingLine o)
        | (s, some a) => (s, doing ++ [a], waits, false)) (s, doing, [], false)
  (r.1, r.2.1)

def Die.entry? (d : Die) (stream : Nat) : Option ReseqEntry := d.reseq.find? (·.stream == stream)
def Die.setEntry (d : Die) (e : ReseqEntry) : Die := { d with reseq := d.reseq.map fun x => if x.stream == e.stream then e else x }

/-- R300, R311: while the expected packet is held, it is applied, as far as its operations can be performed; `fuel` bounds the run by the reorder window. -/
def State.applyHeld (s : State) (die stream : Nat) : Nat → State
  | 0 => s
  | fuel + 1 =>
    match (s.die die).entry? stream with
    | none => s
    | some e =>
      match e.held.find? fun p => p.1 == e.expected with
      | none => s
      | some (_, ops) =>
        let (s, doing) := s.applyOps die e.doing ops
        if ops.all fun o => doing.any fun a => a.op == o.id then
          let as := ops.filterMap fun o => doing.find? fun a => a.op == o.id
          let e := { e with expected := seqAdd e.expected 1, held := e.held.filter fun p => p.1 != e.expected, doing := [], applied := e.applied ++ as, owesAck := true }
          State.applyHeld (s.modDie die (·.setEntry e)) die stream fuel
        else s.modDie die (·.setEntry { e with doing := doing })

/-- After a fault is answered, or a line has moved, the packets that waited are tried again. -/
def State.applyAll (s : State) : State :=
  (SMap.keys s.dies).foldl (fun s d => (s.die d).reseq.foldl (fun s e => s.applyHeld d e.stream 64) s) s

/-! ## Packets on the fabric (R297, R298) -/

/-- R298: the data of an operation: a contribution carries its 128 bits and S; an ATOM.cas its compare value, then its new value. -/
def ChanOp.payload (o : ChanOp) : List Byte := match o.aop with
  | .contrib _ _ => natToBytes 16 o.data ++ natToBytes 1 (wrapInt 8 o.scale)
  | .atom 0xA _ => natToBytes o.bytes o.cmp ++ natToBytes o.bytes o.data
  | _ => natToBytes o.bytes o.data

/-- R298: data bytes of an operation. -/
def ChanOp.dataBytes (o : ChanOp) : Nat := match o.aop with
  | .contrib _ _ => 17
  | .atom 0xA _ => 2 * o.bytes
  | _ => o.bytes

/-- R298: the size code of an access. -/
def sizeCodeOf (bytes : Nat) : Nat := match bytes with | 1 => 0 | 2 => 1 | 4 => 2 | 8 => 3 | _ => 4

/-- R298: the 128 bits of an operation record. The opcodes of the reductions stand 9 above those of the atomics of the same name, by whose low nibble the model computes both. The
size field of a burst is 0, of COPY.t too (a choice of the model's: log entry 98). -/
def ChanOp.record (o : ChanOp) : BitVec 128 :=
  let op := match o.aop with
    | .atom n u => n + (if u then 16 else 0)
    | .red n u => n + 9 + (if u then 16 else 0)
    | .contrib _ _ => o.marks % 8
    | _ => 0
  BitVec.ofNat 128 (o.kind % 16 * 2 ^ 124 + (if o.kind = 4 then 0 else sizeCodeOf o.bytes) * 2 ^ 121 + op % 32 * 2 ^ 116 +
    (if o.kind = 4 then o.bytes % 512 else 0) * 2 ^ 107 + o.va % 2 ^ 57)

/-- R297: the 128 bits of a packet header. -/
def packetHeader (stream seq gen asid nops bytes : Nat) : BitVec 128 :=
  BitVec.ofNat 128 (stream % 2 ^ 32 * 2 ^ 96 + seq % 2 ^ 16 * 2 ^ 80 + gen % 256 * 2 ^ 72 + asid % 2 ^ 16 * 2 ^ 56 + (nops - 1) % 64 * 2 ^ 50 + bytes % 512 * 2 ^ 41)

/-- R297, R298: the bytes of a packet. -/
def packetImage (stream seq : Nat) (ops : List ChanOp) : List Byte :=
  let o := ops.head?
  natToBytes 16 (packetHeader stream seq ((o.map (·.gen)).getD 0) ((o.map (·.asid)).getD 0) ops.length (ops.foldl (fun m o => m + o.dataBytes) 0)).toNat ++
    ops.flatMap fun o => natToBytes 16 o.record.toNat ++ o.payload

/-! ## CHANNEL_PACKET_SEND (R296, R297, R302) -/

/-- The message at a place in the fabric, taken out. -/
def State.takeMsg (s : State) (n : Nat) : State := { s with msgs := s.msgs.eraseIdx n }

/-- R283: a write of the workgroup to a page of the operation, older than its word, is parked. -/
def Wg.parkedBefore (w : Wg) (o : ChanOp) : Bool :=
  w.ops.any fun q => w.replay.contains q.id && decide (q.id < o.op) && q.lanes.any fun l =>
    l.space == .trans && (match l.stat with | .logged _ => true | .retry => true | _ => false) &&
      decide (pageOf o.va ≤ pageOf l.off) && decide (pageOf l.off ≤ pageOf (o.va + max o.bytes 1 - 1))

/-- R253: the stamp of a copy that commits leaves once the copy's bursts are acknowledged and its commit can be made. -/
def State.stampReady (s : State) (c : Nat) (o : ChanOp) : Bool :=
  o.kind != 5 || match s.eng? o.op with
    | some (_, e) =>
      (match e.kind with
      | .copy d _ => !d.commits || (!(s.core c).chanOps.any (fun q => q.op == o.op && q.kind == 4) && !s.copyWaits e d && (s.commitCopy e d).2)
      | _ => true)
    | none => true

/-- The source elements of a burst of a channelled copy. -/
def CopyDesc.burstSrcs (d : CopyDesc) (t : Bool) (n : Nat) : List Word64 := ((bursts 256 d.esz (d.elems t)).getD n (0, [])).2

/-- R276: an earlier burst of the copy whose destination bytes are source bytes of this one is not acknowledged. -/
def State.behindBurst (s : State) (c : Nat) (o : ChanOp) : Bool :=
  o.kind == 4 && match s.eng? o.op with
    | some (_, e) =>
      (match e.kind with
      | .copy d t => (s.core c).chanOps.any fun q => q.op == o.op && q.kind == 4 && decide (q.lane < o.lane) &&
          (d.burstSrcs t o.lane).any fun a => spansMeet d.esz (s.engSpan e a d.esz) q.bytes (some (.trans, q.va))
      | _ => false)
    | none => false

/-- R238, R253, R276, R283, R312: an operation may leave its source. -/
def State.sendable (s : State) (c : Nat) (o : ChanOp) : Bool :=
  !s.alive o.launch o.wgno (o.after ++ o.soft) && s.stampReady c o &&
    !(s.core c).chanOps.any (fun q => q.fault && decide (q.id < o.id) && q.launch == o.launch && q.wgno == o.wgno && q.chan == o.chan) &&
    !s.behindBurst c o && !(match s.owner? o.launch o.wgno with | some w => w.parkedBefore o || w.mustReplay | none => false)

/-- R276: the bytes of a source element of a burst: those that earlier elements of the burst write are as they write them. -/
def State.burstElem (s : State) (e : EngOp) (esz va : Nat) (a : Word64) (sofar : List Byte) : State × Except EngStop (List Byte) :=
  match s.engRead e a esz with
  | (s, .error k) => (s, .error k)
  | (s, .ok b) => (s, .ok (match s.engSpan e a esz with
    | some (.trans, lo) => (List.range b.length).map fun i => if va ≤ lo + i ∧ lo + i < va + sofar.length then sofar.getD (lo + i - va) 0 else b.getD i 0
    | _ => b))

/-- The data of a copy burst is read as it leaves (R250, R274); an error ends the copy there. `none`: it cannot leave now. -/
def State.burstData (s : State) (c : Nat) (o : ChanOp) : State × Option Nat :=
  if o.kind != 4 then (s, some o.data)
  else
    match s.eng? o.op with
    | none => (s, none)
    | some (_, e) =>
      match e.kind with
      | .copy d t =>
        if !s.engReady e then (s, none)
        else
        let r := (d.burstSrcs t o.lane).foldl (fun (p : State × Except EngStop (List Byte)) a =>
          match p.2 with
          | .error k => (p.1, .error k)
          | .ok bs => match p.1.burstElem e d.esz o.va a bs with
            | (s, .ok b) => (s, .ok (bs ++ b))
            | (s, .error k) => (s, .error k)) (s, .ok [])
        match r with
        | (s, .ok bs) => (s.engDone e.id [o.lane], some (bytesToNat bs))
        | (s, .error (.status k)) =>
          let s := s.engError e.id k
          (s.modCore c fun x => { x with chanOps := x.chanOps.filter fun q => !(q.op == o.op && decide (4 ≤ q.kind) && q.seq.isNone) }, none)
        | (_, .error (.fault va k)) => (s.engFault c e va k false, none)
        | (_, .error .wait) => (s, none)
      | _ => (s, none)

/-- Operations as they leave, with their data. -/
def State.gatherOps (s : State) (c : Nat) : List ChanOp → State × Option (List ChanOp)
  | [] => (s, some [])
  | o :: os =>
    match s.burstData c o with
    | (s, none) => (s, none)
    | (s, some d) =>
      match State.gatherOps s c os with
      | (s, none) => (s, none)
      | (s, some rest) => (s, some ({ o with data := d } :: rest))

def sameGen : List ChanOp → Bool
  | [] => true
  | o :: os => os.all fun q => q.gen == o.gen

/-- R302: a packet refused by NAK that may be sent again. -/
def State.resendable (s : State) (c sess acked : Nat) : Option Packet :=
  (s.core c).packets.find? fun p => p.sess == sess && p.refused && decide (seqSub p.seq acked ≤ 64)

def State.opsIn (s : State) (c : Nat) (ids : List Nat) : List ChanOp := (s.core c).chanOps.filter fun o => ids.contains o.id

/-- A packet goes again to its destination, bit for bit as it was first sent (R298). -/
def State.transmit (s : State) (c : Nat) (x : Session) (p : Packet) (link : Nat) : State :=
  let s := s.modCore c fun k => { k with packets := k.packets.map fun q =>
    if q.sess == p.sess && q.seq == p.seq then { q with refused := false, link := link, sentAt := k.ck } else q }
  s.sendMsg x.dev (.packet x.die p.stream p.seq p.image (s.opsIn c p.ops))

/-- R41: a link that a packet to another device can take. -/
def State.linkOk (s : State) (dev link : Nat) : Bool := dev == s.devNum.toNat || s.linksUp.contains link

/-- R297: the next operations of a session make a packet of the size that is asked for. -/
def State.packable (s : State) (c : Nat) (ops : List ChanOp) (nops : Nat) : Bool :=
  ops.length == nops && decide (nops ≤ 64) && sameGen ops && ops.all (s.sendable c) && decide (ops.foldl (fun m o => m + o.dataBytes) 0 ≤ 256) &&
    decide ((s.core c).packets.length < Config.channelLimit)

/-- R296, R297, R302: a packet that a NAK refused goes again, also while the packets resent under R304 await acknowledgement; else, in an open session, one of
the next `nops` operations leaves. -/
def execChannelPacketSend (core sess nops link : Nat) (s : State) : Host.Outcome State Fault Refusal :=
  let s := s.placeHeld core
  match s.sess? core sess with
  | none => .next s
  | some (k, _, x, _) =>
    if !(x.state == .opened || (x.state == .resync && x.rsa)) || !s.linkOk x.dev link then .next s
    else
      match s.resendable core sess x.acked with
      | some p => .next (s.transmit core x p link)
      | none =>
        let ops := ((s.opsOf core sess).filter (·.seq.isNone)).take nops
        if x.state != .opened || !s.packable core ops nops then .next s
        else
          match s.gatherOps core ops with
          | (s, none) => .next s
          | (s, some []) => .next s
          | (s, some (o0 :: os)) =>
            let ops := o0 :: os
            let st := s.streamOf core k x
            let pk : Packet := ⟨sess, st, x.next, o0.gen, ops.map (·.id), packetImage st x.next ops, link, (s.core core).ck, false⟩
            let sent (o : ChanOp) : ChanOp := match ops.find? (·.id == o.id) with
              | some q => { q with seq := some x.next }
              | none => o
            let s := s.modCore core fun k => { k with packets := k.packets ++ [pk], chanOps := k.chanOps.map sent }
            .next ((s.modSess core sess fun y => { y with next := seqAdd y.next 1 }).sendMsg x.dev (.packet x.die st x.next pk.image ops))

/-! ## The destination (R299 to R301) -/

/-- R299: the entry of a stream, made or taken over where there is none; `none`: no entry is free. -/
def Die.takeEntry (d : Die) (stream : Nat) : Option (Die × ReseqEntry) :=
  match d.entry? stream with
  | some e => some (d, e)
  | none =>
    let rest := d.reseq.filter fun e => e.stream / 8 != stream / 8
    let e : ReseqEntry := ⟨stream, 0, [], [], [], false⟩
    if rest.length < Config.streamEntries then some ({ d with reseq := rest ++ [e] }, e) else none

/-- R395: operations of another device are tagged with the generation of this hub. -/
def State.retag (s : State) (stream : Nat) (o : ChanOp) : ChanOp :=
  if streamDev stream = s.devNum.toNat then o
  else match s.tenantOfAsid o.asid with | some t => { o with gen := (s.tenant t).hubGen } | none => o

def execChannelPacketArrive (n : Nat) (s : State) : Host.Outcome State Fault Refusal :=
  match s.msgs[n]? with
  | some (.packet die stream seq _ ops) =>
    let s := s.takeMsg n
    let me := s.devNum.toNat
    match (s.die die).takeEntry stream with
    | none => .next (s.sendMsg (streamDev stream) (.nak me die stream 0 seq))
    | some (d, e) =>
      let s := s.setDie die d
      let k := seqSub seq e.expected
      if 0x8000 ≤ k then .next (s.sendMsg (streamDev stream) (.ack me die stream (seqSub e.expected 1) e.applied))
      else if 64 ≤ k then .next (s.sendMsg (streamDev stream) (.nak me die stream e.expected seq))
      else if e.held.any fun p => p.1 == seq then .next s
      else .next ((s.modDie die (·.setEntry { e with held := e.held ++ [(seq, ops.map (s.retag stream))] })).applyHeld die stream 64)
  | _ => .next s

def execAckSend (die stream : Nat) (s : State) : Host.Outcome State Fault Refusal :=
  match (s.die die).entry? stream with
  | some e =>
    if e.owesAck then
      .next ((s.modDie die (·.setEntry { e with owesAck := false })).sendMsg (streamDev stream) (.ack s.devNum.toNat die stream (seqSub e.expected 1) e.applied))
    else .next s
  | none => .next s

def execSclReceive (n : Nat) (s : State) : Host.Outcome State Fault Refusal :=
  match s.msgs[n]? with
  | some (.scl die stream) => .next ((s.takeMsg n).modDie die fun d => { d with reseq := d.reseq.filter (·.stream != stream) })
  | _ => .next s

/-- R304. The RSA carries, beside the h of R304, the results applied so far, from which the source takes the old values of the ATOMs that h acknowledges (a choice of the model's: log
entry 45). An RSD that reaches a resequencer is taken there: the manual gives it no effect at the destination (log entry 95). -/
def execRsqReceive (n : Nat) (s : State) : Host.Outcome State Fault Refusal :=
  match s.msgs[n]? with
  | some (.rsq die stream _) =>
    let (h, done) := match (s.die die).entry? stream with
      | some e => (seqSub e.expected 1, e.applied)
      | none => (0xFFFF, [])
    .next ((s.takeMsg n).sendMsg (streamDev stream) (.rsa s.devNum.toNat die stream h done))
  | some (.rsd _ _) => .next (s.takeMsg n)
  | _ => .next s

/-! ## The source hears (R301 to R305) -/

/-- R301: everything up to a number is acknowledged. -/
def State.acceptAck (s : State) (c sess a : Nat) (x : Session) (done : List Applied) : State :=
  let k := seqSub a x.acked
  let upTo (q : Nat) : Bool := decide (seqSub q x.acked ≤ k)
  let s := s.modCore c fun p => { p with packets := p.packets.filter fun q => !(q.sess == sess && upTo q.seq) }
  let s := s.modSess c sess fun y => { y with acked := a }
  let ops := (s.opsOf c sess).filter fun o => match o.seq with | some q => upTo q | none => false
  ops.foldl (fun s o => s.closeOp o (some ((done.find? fun d => d.op == o.id).getD ⟨o.id, 0, 0⟩))) s

/-- R396: an acknowledgement of a home of this device carries its generation. The %ms of the core is that of the tenant of its workgroup, which an orphan's may not
be. -/
def State.hearAck (s : State) (c : Nat) (x : Session) : State :=
  let other := (s.core c).orphans.any fun (o : Orphan) => o.word.openedAt == x.openedAt && s.tenantOfLaunch o.launch != s.tenantOf c
  if x.dev = s.devNum.toNat && !other then s.hear c ((s.tenant (s.tenantOf c)).genAt x.die) else s

/-- R301: a number lies in the outstanding range. -/
def Session.inRange (x : Session) (a : Nat) : Bool := decide (0 < seqSub a x.acked) && decide (seqSub a x.acked ≤ seqSub x.next (seqAdd x.acked 1))

/-- R304: once every resent packet is acknowledged the source sends RSD, and the session is open. -/
def State.endResync (s : State) (c sess : Nat) : State :=
  match s.sess? c sess with
  | some (k, _, x, _) =>
    if x.state == .resync && x.rsa && !(s.core c).packets.any (fun p => p.sess == sess && decide (seqSub p.seq x.resyncEnd = 0 ∨ 0x8000 ≤ seqSub p.seq x.resyncEnd)) then
      (s.modSess c sess fun y => { y with state := .opened, rsa := false, attempt := 0, paths := [] }).sendMsg x.dev (.rsd x.die (s.streamOf c k x))
    else s
  | none => s

def execChannelAckReceive (n : Nat) (s : State) : Host.Outcome State Fault Refusal :=
  match s.msgs[n]? with
  | some (.ack dev die stream a done) =>
    let c := streamCore stream
    let s := s.takeMsg n
    match s.sessFrom dev die stream fun x => (x.state == .opened || x.state == .resync) && x.inRange a with
    | some (_, _, x, _) =>
      let s := s.hearAck c x
      .next (((s.acceptAck c x.openedAt a x done).endResync c x.openedAt).sweepAll)
    | none => .next s
  | _ => .next s

def execNakReceive (n : Nat) (s : State) : Host.Outcome State Fault Refusal :=
  match s.msgs[n]? with
  | some (.nak dev die stream _ seq) =>
    let c := streamCore stream
    let s := s.takeMsg n
    let mine (p : Packet) : Bool := p.stream == stream && p.seq == seq &&
      match s.sess? c p.sess with | some (_, _, x, _) => x.dev == dev && x.die == die | none => false
    .next (s.modCore c fun k => { k with packets := k.packets.map fun q => if mine q then { q with refused := true } else q })
  | _ => .next s

/-- R304: the path of an attempt: the lowest link not used in this exchange, else again from the first. -/
def State.nextPath (s : State) (used : List Nat) : List Nat :=
  match s.linksUp.find? fun l => !used.contains l with
  | some l => used ++ [l]
  | none => s.linksUp.take 1

/-- R303, R304: an attempt of the handshake starts. -/
def State.startAttempt (s : State) (c sess k : Nat) : State :=
  match s.sess? c sess with
  | none => s
  | some (ch, _, x, _) =>
    (s.modSess c sess fun y => { y with state := .resync, attempt := k, rsqAt := (s.core c).ck, rsa := false, paths := s.nextPath (if k = 1 then [] else y.paths) }).sendMsg
      x.dev (.rsq x.die (s.streamOf c ch x) x.acked)

/-- R306: the notices of the hub when a link fails: one for each session with an outstanding packet whose last transmission left over it. -/
def State.linkNotices (s : State) (link : Nat) : List ChanMsg :=
  s.cores.flatMap fun p => (s.sessionsAt p.1).filterMap fun q =>
    if q.2.2.1.dev != s.devNum.toNat && p.2.packets.any fun k => k.sess == q.2.2.1.openedAt && k.link == link then some (.linkDown p.1 q.2.2.1.openedAt) else none

/-- R303, R306: LINK_DOWN_NOTICE: a notice for a session reaches its engine. -/
def execLinkDownNotice (core sess : Nat) (s : State) : Host.Outcome State Fault Refusal :=
  if !s.msgs.contains (.linkDown core sess) then .next s
  else
    let s := { s with msgs := s.msgs.erase (.linkDown core sess) }
    match s.sess? core sess with
    | some (_, _, x, _) =>
      if x.state == .opened && (s.core core).packets.any (·.sess == sess) then .next (s.startAttempt core sess 1) else .next s
    | none => .next s

/-- R303. -/
def execChannelAckTimeout (core sess : Nat) (s : State) : Host.Outcome State Fault Refusal :=
  match s.sess? core sess, (s.core core).packets.find? fun p => p.sess == sess with
  | some (_, _, x, _), some p =>
    if x.state == .opened then
      let first := ((s.core core).packets.filter fun p => p.sess == sess).foldl (fun m q => min m q.sentAt) p.sentAt
      .next ((s.advanceTo core (first + 32768)).startAttempt core sess 1)
    else .next s
  | _, _ => .next s

/-- R304, R41: the link of a resend: the path of the attempt that was answered, or the lowest link that is up if that one has failed since. -/
def State.resendLink (s : State) (x : Session) : Nat :=
  let last := x.paths.getLastD 0
  if s.linkOk x.dev last then last else s.linksUp.headD last

/-- R304: the answer: what has been applied is acknowledged, the rest is sent again. Without a link to the device it waits (R41). -/
def execRsaReceive (n : Nat) (s : State) : Host.Outcome State Fault Refusal :=
  match s.msgs[n]? with
  | some (.rsa dev die stream h done) =>
    if dev != s.devNum.toNat && s.cutOffPeers then .next s else
    let c := streamCore stream
    let s := s.takeMsg n
    match s.sessFrom dev die stream fun x => x.state == .resync && !x.rsa with
    | some (_, _, x, _) =>
      let sess := x.openedAt
      let s := s.hearAck c x
      let s := if x.inRange h then s.acceptAck c sess h x done else s
      let s := s.modSess c sess fun y => { y with rsa := true, resyncEnd := seqSub x.next 1 }
      let s := ((s.core c).packets.filter fun p => p.sess == sess).foldl (fun s p => s.transmit c x p (s.resendLink x)) s
      .next ((s.endResync c sess).sweepAll)
    | none => .next s
  | _ => .next s

/-- R304, R305. -/
def execResyncAttemptTimeout (core sess : Nat) (s : State) : Host.Outcome State Fault Refusal :=
  match s.sess? core sess with
  | some (_, _, x, _) =>
    if x.state != .resync || x.rsa then .next s
    else
      let s := s.advanceTo core (x.rsqAt + 4096 * 2 ^ (x.attempt - 1))
      if 8 ≤ x.attempt then .next ((s.sever core sess).sweepAll) else .next (s.startAttempt core sess (x.attempt + 1))
  | none => .next s

end Sys2Proof.Machine
end

