-- ==== Sys2Proof/Machine/LoadStore.lean ====
section
/-! DEFINITION. Loads, stores, atomics, reductions, WOWN, fences and monitors at issue (R226 to R237, R247): opcodes 0x80 to 0xA2 and 0xAA. -/

namespace Sys2Proof.Machine

open Sys2Proof

/-! ## The accesses of a word -/

/-- R222, R224: what a memory word may not name. `once` is set where a scalar datum needs a scalar base; `n` counts the data registers. -/
def memIllegal (f : AddrForm) (m : MOpnd) (n : Nat) (once : Bool) (x : Ctx) : Bool :=
  !baseOk x f m || !dataOk x m n || (once && m.dk && m.bk == 0)

/-- R221: the place of each lane that accesses. -/
def memPlaces (s : State) (x : Ctx) (f : AddrForm) (m : MOpnd) (b : Nat) (write rmw : Bool) : List ((Nat × Nat) × Except Nat (Space × Nat)) :=
  (memLanes x m).map fun l => (l, memPlace s x f m b write rmw l.2)

/-- R218, R277: a lane names a scratchpad as a peer's: by a peer operand, or through the window of the gang's scratchpads. -/
def AddrForm.namesPeer (f : AddrForm) (ea : Word64) : Bool :=
  match f with
  | .peer _ => true
  | .own => false
  | .generic => isWindow ea.toNat && bits ea.toNat 47 44 == 2

/-- The lanes that passed. -/
def goodLanes (x : Ctx) (f : AddrForm) (m : MOpnd) (b : Nat) (ps : List ((Nat × Nat) × Except Nat (Space × Nat))) (data cmp : Nat → Nat) :
    List LaneAcc :=
  ps.filterMap fun p => match p.2 with
    | .ok q => some { newLane p.1 (memEa x f m b p.1.2) q (data p.1.2) (cmp p.1.2) with peer := f.namesPeer (memEa x f m b p.1.2) }
    | .error _ => none

/-- R270: an acquire read holds the later words of its group until it is satisfied. -/
def State.holdFor (s : State) (x : Ctx) (id : Nat) (acq : Bool) : State :=
  if acq then s.modGroup x.c x.g fun g => { g with holdOp := some id } else s

def isAcq (o : Order) : Bool := o == .acq || o == .ar
def isRel (o : Order) : Bool := o == .rel || o == .ar

/-! ## Loads (R226, R227) -/

def loadEff (f : AddrForm) (m : MOpnd) (lk : LKind) (sx : Bool) (scope : Scope) (order : Order) (size : Size) (x : Ctx) (s : State) : Res :=
  let b := sizeBytes size
  let ps := memPlaces s x f m b false false
  match firstError (errorsOf (ps.map (·.2))) with
  | some c => .exc c 0
  | none =>
    if ps.isEmpty then .done (s.advance x)
    else
      let o := { newOp s x .load b m scope (isAcq order) (goodLanes x f m b ps (fun _ => 0) fun _ => 0) with lk := lk, sx := sx, acked := true }
      .done ((s.pushOp x o (dataLocs x m (sizeRegs size))).holdFor x o.id (isAcq order))

def loadWord (s : State) (h : Head) (op : Nat) (f : AddrForm) (m : MOpnd) (lk : LKind) (sx : Bool) (scope : Scope) (order : Order) (size : Size) :
    Host.Outcome State Fault Refusal :=
  memory s h op none (memIllegal f m (sizeRegs size) true) (fun x => baseLocs x f m) (fun x => dataLocs x m (sizeRegs size))
    (loadEff f m lk sx scope order size)

def execLd (h : Head) (sx : Bool) (m : MOpnd) (scope : Scope) (order : Order) (size : Size) (s : State) : Host.Outcome State Fault Refusal :=
  loadWord s h 0x80 .generic m .plain sx scope order size

def execLdNc (h : Head) (sx : Bool) (m : MOpnd) (scope : Scope) (order : Order) (size : Size) (s : State) : Host.Outcome State Fault Refusal :=
  loadWord s h 0x81 .generic m .nc sx scope order size

def execLdStr (h : Head) (sx : Bool) (m : MOpnd) (scope : Scope) (order : Order) (size : Size) (s : State) : Host.Outcome State Fault Refusal :=
  loadWord s h 0x82 .generic m .str sx scope order size

def execLds (h : Head) (sx : Bool) (m : MOpnd) (scope : Scope) (order : Order) (size : Size) (s : State) : Host.Outcome State Fault Refusal :=
  loadWord s h 0x83 .own m .plain sx scope order size

def execLdp (h : Head) (rank : BitVec 5) (m : MOpnd) (scope : Scope) (order : Order) (size : Size) (s : State) : Host.Outcome State Fault Refusal :=
  loadWord s h 0x84 (.peer (rank.setWidth 5)) m .plain false scope order size

/-! ## Writes (R228 to R233) -/

/-- A word that writes: what it does at the home, the bytes of one access, the data registers it reads and those it writes back. -/
structure WriteForm where
  aop : AOp
  bytes : Nat
  regs : Nat
  back : Nat
  /-- R231: the registers of the compare value. -/
  cmpRegs : Nat
  chan : Option Nat

def WriteForm.atom (k : WriteForm) : Bool := k.back != 0

/-- R237, R260: the place of a channelled lane: a window, or a line homed in host memory, is no place for it; nor has it one in a severed session. -/
def chanPlace (s : State) (x : Ctx) (k b : Nat) (ea : Word64) : Except Nat (Space × Nat) :=
  if ea.toNat % b != 0 then .error cAlignFault
  else if !vaOk ea || isWindow ea.toNat || s.isHost (s.asidOf x.c) ea.toNat then .error cAddrFault
  else if x.wg.severedTo k (s.chanDest x.c (s.asidOf x.c) ea.toNat) then .error cChannelSevered
  else .ok (.trans, ea.toNat)

/-- R298: the record of one lane. -/
def chanOpOf (s : State) (x : Ctx) (k : Nat) (o : MemOp) (l : LaneAcc) (scale : Int) : ChanOp × Fl :=
  let own := (x.wg.ops.filter fun q => q.id != o.id && q.lanes.any fun r => r.isOpen && sameThread o l q r && overlaps r q l o).map (·.id)
  let base : ChanOp :=
    { id := 0, launch := x.wg.launch, wgno := x.wg.wgno, asid := s.asidOf x.c, chan := k, sess := none, stream := 0, die := 0, dev := 0, op := o.id,
      lane := l.lane, kind := 0, va := l.off, bytes := o.bytes, data := l.data, cmp := l.cmp, aop := o.aop, gen := o.gen, scale := 0, marks := 0,
      seq := none, after := [], soft := own ++ x.wg.inheritedAt o l, fault := false, dead := false }
  match o.aop with
  | .atom _ _ => ({ base with kind := 1 }, Fl.none)
  | .contrib ty _ =>
    let (c, marks, f) := contribution ((faddFmt ty).decode (l.data % 2 ^ (8 * o.bytes))) scale
    ({ base with kind := 3, data := wrapInt 128 c, marks := marks, scale := scale }, f)
  | .red _ _ => ({ base with kind := 2 }, Fl.none)
  | _ => (base, Fl.none)

/-- The records of a channelled word, lanes ascending. -/
def chanOpsOf (s : State) (x : Ctx) (k : Nat) (o : MemOp) : List (ChanOp × Fl) :=
  let scale := match o.aop with | .contrib _ fs => slotScale (x.r.slot fs) | _ => 0
  o.lanes.map fun l => chanOpOf s x k o l scale

/-- R296: a word of `n` operations would pass the limit of the engine. -/
def State.overLimit (s : State) (c n : Nat) : Bool := decide (Config.channelLimit < (s.core c).retained + n)

/-- All operations of a channelled word have joined: the word has issued. -/
def chanIssued (form : WriteForm) (m : MOpnd) (id : Nat) (flags : List Fl) (x : Ctx) (s : State) : Res :=
  let s := (s.advance x).modGroup x.c x.g fun g => { g with part := none }
  if form.atom then
    let open? := ((s.wg? x.c).bind fun w => w.op? id).isSome
    if open? then .done ((s.incCt x).modWg x.c fun w => { w with pend := w.pend ++ (dataLocs x m form.back).map fun p => (id, p) }) else .done s
  else finish x (Fl.all flags) (s.modWg x.c fun w => { w with ops := (w.ops.map fun q => if q.id == id then { q with replied := true } else q) })

/-- R236, R296: a channelled word comes to issue: while it would pass the limit, or its first lane finds no session, it waits there; else its lanes join their
sessions in ascending order. -/
def chanIssue (k : Nat) (form : WriteForm) (m : MOpnd) (o : MemOp) (x : Ctx) (s : State) : Res :=
  if s.overLimit x.c o.lanes.length then .wait .channel
  else
    let o := { o with chan := some k, lanes := o.lanes.map fun l => { l with stat := .channelled } }
    let recs := chanOpsOf s x k o
    let (s, n) := ((s.modWg x.c fun w => { w with ops := w.ops ++ [o] }).fresh).joinAll x.c (recs.map (·.1))
    if n = 0 then .wait .channel
    else if n < recs.length then .hold (s.modGroup x.c x.g fun g => { g with part := some (o.id, n) }) .channel
    else chanIssued form m o.id (recs.map (·.2)) x s

/-- R237: a word some of whose lanes wait for a session that has severed meanwhile takes no effect in any lane that has not left its source (log entry 85). -/
def State.withdraw (s : State) (x : Ctx) (id : Nat) : State :=
  ((s.modCore x.c fun k => { k with chanOps := k.chanOps.filter fun o => !(o.op == id && decide (o.kind ≤ 3) && o.seq.isNone) }).modWg x.c fun w =>
    { w with ops := w.ops.filter (·.id != id) }).modGroup x.c x.g fun g => { g with part := none }

/-- R236: the lanes of a word that has begun to join go on joining, as it was recorded (R393). -/
def chanGoOn (k : Nat) (form : WriteForm) (m : MOpnd) (id n0 : Nat) (x : Ctx) (s : State) : Res :=
  match x.wg.op? id with
  | none => .done ((s.advance x).modGroup x.c x.g fun g => { g with part := none })
  | some o =>
    if (o.lanes.drop n0).any fun l => x.wg.severedTo k (s.chanDest x.c (s.asidOf x.c) l.off) then
      .raised ((s.withdraw x id).raisePrecise x cChannelSevered (laneMask x.ex % 2 ^ 32))
    else
      let recs := chanOpsOf s x k o
      let (s, n) := s.joinAll x.c ((recs.map (·.1)).drop n0)
      if n0 + n < recs.length then .hold (s.modGroup x.c x.g fun g => { g with part := some (id, n0 + n) }) .channel
      else chanIssued form m id (recs.map (·.2)) x s

/-- The lanes of a word that writes, with their data. -/
def writeLanes (x : Ctx) (f : AddrForm) (m : MOpnd) (form : WriteForm) (ps : List ((Nat × Nat) × Except Nat (Space × Nat))) : List LaneAcc :=
  goodLanes x f m form.bytes ps (memData x m form.cmpRegs (form.regs - form.cmpRegs)) (memData x m 0 form.cmpRegs)

/-- R236, R237: a channelled word. -/
def chanEff (k : Nat) (f : AddrForm) (m : MOpnd) (form : WriteForm) (x : Ctx) (s : State) : Res :=
  match x.grp.part with
  | some (id, n0) => chanGoOn k form m id n0 x s
  | none =>
    let ps := (memLanes x m).map fun l => (l, chanPlace s x k form.bytes (memEa x f m form.bytes l.2))
    match firstError (errorsOf (ps.map (·.2))) with
    | some c => .exc c 0
    | none =>
      if ps.isEmpty then .done (s.advance x)
      else chanIssue k form m { newOp s x form.aop form.bytes m .none false (writeLanes x f m form ps) with replied := !form.atom } x s

def writeEff (f : AddrForm) (m : MOpnd) (form : WriteForm) (scope : Scope) (order : Order) (x : Ctx) (s : State) : Res :=
  match form.chan with
  | some k => chanEff k f m form x s
  | none =>
    let ps := memPlaces s x f m form.bytes true form.aop.isRmw
    match firstError (errorsOf (ps.map (·.2))) with
    | some c => .exc c 0
    | none =>
      if ps.isEmpty then .done (s.advance x)
      else
        let o := { newOp s x form.aop form.bytes m scope (isAcq order) (writeLanes x f m form ps) with replied := !form.atom, rel := isRel order }
        let go (s : State) : Res := .done ((s.pushOp x { o with id := s.nextId } (dataLocs x m form.back)).holdFor x s.nextId (isAcq order))
        if isRel order then releaseGate x s go else go s

def writeWord (s : State) (h : Head) (op : Nat) (f : AddrForm) (m : MOpnd) (form : WriteForm) (scope : Scope) (order : Order) :
    Host.Outcome State Fault Refusal :=
  memory s h op none (memIllegal f m form.regs form.atom) (fun x => baseLocs x f m ++ dataLocs x m form.regs) (fun x => dataLocs x m form.back)
    (writeEff f m form scope order)

def chanNo (c : Option (BitVec 4)) : Option Nat := c.map (·.toNat)

def storeForm (size : Size) (chan : Option (BitVec 4)) : WriteForm := ⟨.store, sizeBytes size, sizeRegs size, 0, 0, chanNo chan⟩
def atomForm (op : Nat) (u : Bool) (size : Size) (chan : Option (BitVec 4)) : WriteForm :=
  ⟨.atom op u, sizeBytes size, sizeRegs size, sizeRegs size, 0, chanNo chan⟩
def casForm (size : Size) (chan : Option (BitVec 4)) : WriteForm :=
  ⟨.atom 0xA false, sizeBytes size, 2 * sizeRegs size, sizeRegs size, sizeRegs size, chanNo chan⟩
def redForm (op : Nat) (u : Bool) (size : Size) (chan : Option (BitVec 4)) : WriteForm := ⟨.red op u, sizeBytes size, sizeRegs size, 0, 0, chanNo chan⟩

def execSt (h : Head) (m : MOpnd) (chan : Option (BitVec 4)) (scope : Scope) (order : Order) (size : Size) (s : State) : Host.Outcome State Fault Refusal :=
  writeWord s h 0x90 .generic m (storeForm size chan) scope order

def execSts (h : Head) (m : MOpnd) (scope : Scope) (order : Order) (size : Size) (s : State) : Host.Outcome State Fault Refusal :=
  writeWord s h 0x91 .own m (storeForm size none) scope order

def execStp (h : Head) (rank : BitVec 5) (m : MOpnd) (scope : Scope) (order : Order) (size : Size) (s : State) : Host.Outcome State Fault Refusal :=
  writeWord s h 0x92 (.peer rank) m (storeForm size none) scope order

def execAtomAdd (h : Head) (m : MOpnd) (chan : Option (BitVec 4)) (scope : Scope) (order : Order) (size : Size) (s : State) : Host.Outcome State Fault Refusal :=
  writeWord s h 0x93 .generic m (atomForm 0x3 false size chan) scope order

def execAtomMin (h : Head) (u : Bool) (m : MOpnd) (chan : Option (BitVec 4)) (scope : Scope) (order : Order) (size : Size) (s : State) : Host.Outcome State Fault Refusal :=
  writeWord s h 0x94 .generic m (atomForm 0x4 u size chan) scope order

def execAtomMax (h : Head) (u : Bool) (m : MOpnd) (chan : Option (BitVec 4)) (scope : Scope) (order : Order) (size : Size) (s : State) : Host.Outcome State Fault Refusal :=
  writeWord s h 0x95 .generic m (atomForm 0x5 u size chan) scope order

def execAtomAnd (h : Head) (m : MOpnd) (chan : Option (BitVec 4)) (scope : Scope) (order : Order) (size : Size) (s : State) : Host.Outcome State Fault Refusal :=
  writeWord s h 0x96 .generic m (atomForm 0x6 false size chan) scope order

def execAtomOr (h : Head) (m : MOpnd) (chan : Option (BitVec 4)) (scope : Scope) (order : Order) (size : Size) (s : State) : Host.Outcome State Fault Refusal :=
  writeWord s h 0x97 .generic m (atomForm 0x7 false size chan) scope order

def execAtomXor (h : Head) (m : MOpnd) (chan : Option (BitVec 4)) (scope : Scope) (order : Order) (size : Size) (s : State) : Host.Outcome State Fault Refusal :=
  writeWord s h 0x98 .generic m (atomForm 0x8 false size chan) scope order

def execAtomExch (h : Head) (m : MOpnd) (chan : Option (BitVec 4)) (scope : Scope) (order : Order) (size : Size) (s : State) : Host.Outcome State Fault Refusal :=
  writeWord s h 0x99 .generic m (atomForm 0x9 false size chan) scope order

def execAtomCas (h : Head) (m : MOpnd) (chan : Option (BitVec 4)) (scope : Scope) (order : Order) (size : Size) (s : State) : Host.Outcome State Fault Refusal :=
  writeWord s h 0x9A .generic m (casForm size chan) scope order

def execAtomFadd (h : Head) (m : MOpnd) (chan : Option (BitVec 4)) (scope : Scope) (order : Order) (s : State) : Host.Outcome State Fault Refusal :=
  writeWord s h 0x9B .generic m (atomForm 0xB false .b32 chan) scope order

def execRedAdd (h : Head) (m : MOpnd) (chan : Option (BitVec 4)) (scope : Scope) (order : Order) (size : Size) (s : State) : Host.Outcome State Fault Refusal :=
  writeWord s h 0x9C .generic m (redForm 0x3 false size chan) scope order

def execRedMin (h : Head) (u : Bool) (m : MOpnd) (chan : Option (BitVec 4)) (scope : Scope) (order : Order) (size : Size) (s : State) : Host.Outcome State Fault Refusal :=
  writeWord s h 0x9D .generic m (redForm 0x4 u size chan) scope order

def execRedMax (h : Head) (u : Bool) (m : MOpnd) (chan : Option (BitVec 4)) (scope : Scope) (order : Order) (size : Size) (s : State) : Host.Outcome State Fault Refusal :=
  writeWord s h 0x9E .generic m (redForm 0x5 u size chan) scope order

/-- R233, R100, R105. -/
def execRedFadd (h : Head) (ty : FaddTy) (slot : BitVec 3) (m : MOpnd) (chan : Option (BitVec 4)) (scope : Scope) (order : Order) (s : State) :
    Host.Outcome State Fault Refusal :=
  let aop : AOp := if chan.isSome then .contrib ty slot.toNat else .fadd ty
  writeWord s h 0x9F .generic m ⟨aop, (faddFmt ty).bits / 8, 1, 0, 0, chanNo chan⟩ scope order

/-! ## WOWN (R247) -/

def wownPlace (s : State) (x : Ctx) (m : MOpnd) (rank slot : Nat) : Except Nat (Space × Nat) :=
  match scratchPlace s x rank (memEa x (.peer 0) m 1 slot).toNat 1 false with
  | .ok p => if x.r.gangSize ≤ memData x m 0 1 slot then .error cAddrFault else .ok p
  | .error c => .error c

def execWown (h : Head) (rank : BitVec 5) (m : MOpnd) (s : State) : Host.Outcome State Fault Refusal :=
  memory s h 0xAA none (memIllegal (.peer rank) m 1 false) (fun x => baseLocs x (.peer rank) m ++ dataLocs x m 1) (fun _ => []) fun x s =>
    let ps := (memLanes x m).map fun l => (l, wownPlace s x m (memRank x (.peer rank)) l.2)
    match firstError (errorsOf (ps.map (·.2))) with
    | some c => .exc c 0
    | none =>
      if ps.isEmpty then .done (s.advance x)
      else
        releaseGate x s fun s =>
          let o := { newOp s x .wown 1 m .gang false (goodLanes x (.peer rank) m 1 ps (memData x m 0 1) fun _ => 0) with replied := true }
          .done (s.pushOp x o [])

/-! ## FENCE (R234) -/

/-- R268, R270: the group's reads that a fence with an acquire part stands behind: loads, and the reads of unchannelled atomics. -/
def readsOpen (x : Ctx) : Bool :=
  x.wg.ops.any fun o => (o.aop == .load || (o.chan.isNone && match o.aop with | .atom _ _ => true | _ => false)) &&
    o.lanes.any fun l => l.isOpen && (o.sca || x.grp.slots.contains l.slot)

def execFence (h : Head) (scope : Scope) (order : Order) (s : State) : Host.Outcome State Fault Refusal :=
  memory s h 0xA0 none (fun _ => false) (fun _ => []) (fun _ => []) fun x s =>
    if x.ex.isEmpty then .done (s.advance x)
    else
      let acq (s : State) : Res :=
        if isAcq order then (if readsOpen x then .hold s .fence else .done ((s.advance x).acquireAt x.c scope))
        else .done (s.advance x)
      if isRel order then releaseGate x s acq else acq s

/-! ## MWAIT (R235) -/

/-- R217, R235: a monitored place: not private memory. -/
def mwaitPlace (s : State) (x : Ctx) (b : Nat) (ea : Word64) : Except Nat (Space × Nat) :=
  if ea.toNat % b != 0 then .error cAlignFault
  else
    match classify s x 0 b false false ea with
    | .ok (.priv _, _) => .error cAddrFault
    | r => r

/-- The values that the monitored bytes have held since a write count, oldest first, with the count now. -/
inductive Held where
  | vals (vs : List Nat) (seen : Nat) | fault (va cause : Nat) | wait | poison

/-- The record of the writes that concern a place. -/
def State.writeLog (s : State) (w : Wg) (p : Space × Nat) : List (Nat × List Byte) :=
  match p.1 with
  | .scratch rank => (((s.rankNo w.launch w.gang rank).bind fun n => s.owner? w.launch n).map (·.undo)).getD []
  | _ => ((s.launch? w.launch).map (·.undo)).getD []

/-- R235: a coherent look at the monitored bytes of a workgroup: `seen` writes of the record have been looked at before. -/
def State.monitorVals (s : State) (c : Nat) (p : Space × Nat) (b : Nat) (seen : Option Nat) : State × Held :=
  match s.wg? c with
  | none => (s, .wait)
  | some w =>
    let log := s.writeLog w p
    let since (key : Nat) (cur : List Byte) : Held :=
      let new := match seen with | some n => log.take (log.length - n) | none => []
      .vals (((pastValues key cur new).map bytesToNat).reverse) log.length
    match p.1 with
    | .scratch rank =>
      match (s.rankNo w.launch w.gang rank).bind fun n => s.owner? w.launch n with
      | none => (s, .wait)
      | some v =>
        match s.rankCore w.launch w.gang rank with
        | some c' => if s.isPoisoned (scratchKey c' p.2) b then (s, .poison) else (s.meetGen c c', since p.2 (s.scratchBytes c' p.2 b))
        | none => (s, since p.2 (Mem.readBytes v.scratch p.2 b))
    | .bank k =>
      match s.bankPlace c p.2 with
      | some key => if s.isPoisoned key b then (s, .poison) else (s, since key (Mem.readBytes s.mem key b))
      | none => (s.draw, .vals [bytesToNat (s.readBank c k p.2 b)] log.length)
    | _ =>
      let asid := s.asidOf c
      match s.peerOf asid p.2 with
      | some _ => if s.cutOffPeers then (s, .wait) else (s.draw, .vals [bytesToNat ((List.range b).map fun i => Config.peerByte s.free (p.2 + i))] 0)
      | none =>
        match s.place asid p.2 needRead with
        | (s, .fault k) => (s, .fault p.2 k)
        | (s, .held) => (s, .wait)
        | (s, .at key) => if s.isPoisoned key b then (s, .poison) else (s.hearHome c p.2, since key (Mem.readBytes s.mem key b))

/-- R283, R289, R264: the look of a monitor stands behind the older open accesses of its group's threads to its bytes, behind writes parked at its page, and behind
accesses that replay. -/
def mwaitBehind (x : Ctx) (p : Space × Nat) (b : Nat) : Bool :=
  let meets (sp : Space) (lo n : Nat) : Bool := sp.same p.1 && decide (lo < p.2 + b) && decide (p.2 < lo + n)
  x.wg.mustReplay || (p.1.inMemory && x.wg.inherited.any fun i => x.grp.slots.contains i.2.1 && meets .trans i.2.2.1 i.2.2.2) || x.wg.ops.any fun q =>
    (p.1 == .trans && q.parkedAt p.2) || q.lanes.any fun k => k.isOpen && (q.sca || x.grp.slots.contains k.slot) && meets k.space (k.extent q).1 (k.extent q).2

/-- R235: the condition. -/
def mwaitMet (eq : Bool) (cmp v : Nat) : Bool := (v == cmp) == eq

/-- The registers of a satisfied MWAIT. -/
def mwaitWrites (uid dst n v : Nat) : List (Loc × Word32) := (List.range n).map fun i => (.sca uid (dst + i), BitVec.ofNat 32 (v / 2 ^ (32 * i)))

/-- R382: a monitor that meets a fault waits for its answer. -/
def State.monitorFault (s : State) (c g va cause : Nat) : State :=
  match s.group? c g with
  | none => s
  | some x =>
    let e : LogEntry := { word := x.words.getD (x.wix - 1) 0, pc := x.pc, mask := BitVec.ofNat 64 (laneMask (lanesOf x)), parkedWrite := false, gslot := g, op := x.uid,
                          faults := [(pageOf va, cause)], kind := 0, addrs := [BitVec.ofNat 64 va], datas := [] }
    match s.logFault c e with
    | none => s
    | some (s, _) => s.modGroup c g fun x => { x with monitor := x.monitor.map fun m => { m with fault := true } }

/-- R235, R289: a monitor is satisfied with a value: its registers are written, the core's copy of the line goes, an acquire takes effect. -/
def State.mwaitDone (s : State) (c uid : Nat) (p : Space × Nat) (dst n : Nat) (acq : Option Scope) (v : Nat) : State :=
  let s := s.modWg c fun w => (mwaitWrites uid dst n v).foldl (fun w q => w.land (s.core c).ck q) w
  let s := if p.1.inMemory then s.modCore c fun k => k.l1Drop (s.asidOf c) (lineOf p.2) else s
  match acq with | some sc => s.acquireAt c sc | none => s

def mwaitEff (eq : Bool) (n : Nat) (m : MOpnd) (scope : Scope) (order : Order) (x : Ctx) (s : State) : Res :=
  if x.ex.isEmpty then .done (s.advance x)
  else if x.grp.monitor.isSome then .wait .mwait
  else
    let b := 4 * n
    let ea := memEa x .generic m b 0
    match mwaitPlace s x b ea with
    | .error c => .exc c 0
    | .ok p =>
      if mwaitBehind x p b then .wait .reply
      else
        let cmp := memData x m 0 n 0
        let acq := if isAcq order then some scope else none
        let mon : Monitor := { addr := ea, bytes := b, eq := eq, cmp := BitVec.ofNat 64 cmp, seen := (s.writeLog x.wg p).length, dst := m.data.toNat,
                               acq := acq, fault := false }
        match s.monitorVals x.c p b none with
        | (s, .vals vs seen) =>
          match vs.find? (mwaitMet eq cmp) with
          | some v => .done ((s.advance x).mwaitDone x.c x.grp.uid p m.data.toNat n acq v)
          | none => .hold (s.modGroup x.c x.g fun g => { g with monitor := some { mon with seen := seen } }) .mwait
        | (s, .wait) => .hold (s.modGroup x.c x.g fun g => { g with monitor := some mon }) .mwait
        | (s, .poison) => .hold (s.machineCheck x.c cMemUncorrectable x.pc (laneMask x.ex)) .mwait
        | (s, .fault va k) => .hold ((s.modGroup x.c x.g fun g => { g with monitor := some mon }).monitorFault x.c x.g va k) .mwait

def mwaitWord (s : State) (h : Head) (op n : Nat) (eq : Bool) (m : MOpnd) (scope : Scope) (order : Order) : Host.Outcome State Fault Refusal :=
  memory s h op none (memIllegal .generic m n true) (fun x => baseLocs x .generic m ++ dataLocs x m n) (fun x => dataLocs x m n)
    (mwaitEff eq n m scope order)

def execMwait (h : Head) (eq : Bool) (m : MOpnd) (scope : Scope) (order : Order) (s : State) : Host.Outcome State Fault Refusal :=
  mwaitWord s h 0xA1 1 eq m scope order

def execMwaitB64 (h : Head) (eq : Bool) (m : MOpnd) (scope : Scope) (order : Order) (s : State) : Host.Outcome State Fault Refusal :=
  mwaitWord s h 0xA2 2 eq m scope order

/-- R235: MWAIT_RETEST: the values held since the last look are tested in their order; one that satisfies wakes the group. -/
def execMwaitRetest (core grp : Nat) (s : State) : Host.Outcome State Fault Refusal :=
  match s.wg? core, s.group? core grp, (s.group? core grp).bind (·.monitor), s.launchOf core with
  | some w, some g, some m, some l =>
    if m.fault || w.saving || w.halt.isSome || w.mustReplay then .next s
    else
      let x : Ctx := { c := core, g := grp, grp := g, wg := w, cr := s.core core, l := l, h := ⟨0, 0, 0, false⟩, op := 0xA1, lit := none, pc := g.pc,
                       now := (s.core core).ck, fin := (s.core core).ck, lanes := [], ex := [], ctr := s.free }
      match mwaitPlace s x m.bytes m.addr with
      | .error _ => .next s
      | .ok p =>
        match s.monitorVals core p m.bytes (some m.seen) with
        | (s, .vals vs seen) =>
          match vs.find? (mwaitMet m.eq m.cmp.toNat) with
          | some v =>
            .next ((s.mwaitDone core g.uid p m.dst (m.bytes / 4) m.acq v).modGroup core grp fun g => { g.unblock (s.core core).ck with monitor := none })
          | none => .next (s.modGroup core grp fun g => { g with monitor := some { m with seen := seen } })
        | (s, .wait) => .next s
        | (s, .poison) => .next (s.machineCheck core cMemUncorrectable g.pc (laneMask (lanesOf g)))
        | (s, .fault va k) => .next (s.monitorFault core grp va k)
  | _, _, _, _ => .next s

end Sys2Proof.Machine
end

