-- ==== Sys2Proof/Machine/ChannelWords.lean ====
section
/-! DEFINITION. The words that start engine operations and that order channels (R238 to R242), handles (R256 to R259), and the step DRAIN_COMPLETE:
opcodes 0xA3 to 0xA7 and 0xB8 to 0xBB. -/

namespace Sys2Proof.Machine

open Sys2Proof

/-! ## Handles (R76) -/

/-- R76: a destination handle that is free. -/
def handleFree (x : Ctx) (f : BitVec 8) : Bool := isHandle f && (SMap.get? x.grp.handles (handleNo f)).isNone
/-- A handle that is pending or done. -/
def handleTaken (x : Ctx) (f : BitVec 8) : Bool := isHandle f && (SMap.get? x.grp.handles (handleNo f)).isSome

/-- An operation of the issuing word. -/
def newEng (s : State) (x : Ctx) (handle : Option Nat) (kind : EngKind) (refused : Option Nat) : EngOp :=
  { id := s.nextId, launch := x.wg.launch, wgno := x.wg.wgno, uid := x.grp.uid, handle := handle, kind := kind, gen := x.cr.ms, gang := x.wg.gang, rank := x.wg.rank,
    cancelled := false, fault := none, refused := refused, freed := false, killed := false, before := x.wg.before x.grp.slots, joined := 0 }

/-- An operation enters its engine. -/
def State.addEng (s : State) (c : Nat) (e : EngOp) : State := (s.modCore c fun k => { k with eng := k.eng ++ [e] }).fresh

/-- The destination handle is pending with an operation. -/
def State.setHandle (s : State) (x : Ctx) (n : Nat) (op : HOp) (id : Nat) : State :=
  s.modGroup x.c x.g fun g => { g with handles := SMap.set g.handles n ⟨op, id, false, 0⟩ }

/-- The word assigns its handle and ends. -/
def startEng (s : State) (x : Ctx) (hd : BitVec 8) (op : HOp) (kind : EngKind) (refused : Option Nat) : State :=
  (((s.advance x).addEng x.c (newEng s x (some (handleNo hd)) kind refused)).setHandle x (handleNo hd) op s.nextId)

/-! ## CHAIN, DRAIN, CHSTAT, CHRESET (R238 to R242) -/

/-- The operations of channels of the workgroup that are not acknowledged, in every engine that holds some. -/
def State.chanLive (s : State) (w : Wg) (ks : List Nat) : List ChanOp :=
  s.cores.flatMap fun p => p.2.chanOps.filter fun o => o.launch == w.launch && o.wgno == w.wgno && ks.contains o.chan

/-- R277: the anonymous stream: unchannelled writes to translated memory and to scratchpads named as a peer's (R218), not acknowledged. -/
def Wg.anonymous (w : Wg) : List Nat :=
  (w.ops.filter fun o => o.chan.isNone && !o.acked && o.aop != .load && o.lanes.any fun l => l.space.inMemory ||
    (match l.space with | .scratch r => r != w.rank || l.peer | _ => false)).map (·.id)

def chainWord (s : State) (h : Head) (op ka : Nat) (mask : BitVec 17) : Host.Outcome State Fault Refusal :=
  memory s h op none (fun _ => false) (fun _ => []) (fun _ => []) fun x s =>
    if x.ex.isEmpty then .done (s.advance x)
    else
      let ks := (List.range 16).filter mask.getLsbD
      let c : Chain := ⟨ka, mask, (s.chanLive x.wg ks).map (·.id), if mask.getLsbD 16 then x.wg.anonymous else []⟩
      .done ((s.advance x).modWg x.c fun w => { w with chains := s.pruneChains { w with chains := w.chains ++ [c] } })

/-- R238: `CHAIN kA, kA` is refused by the decoder. -/
def execChain (h : Head) (ka kb : BitVec 4) (s : State) : Host.Outcome State Fault Refusal :=
  chainWord s h 0xA3 ka.toNat (BitVec.ofNat 17 (2 ^ kb.toNat))

def execChainAll (h : Head) (ka : BitVec 4) (s : State) : Host.Outcome State Fault Refusal :=
  chainWord s h 0xA4 ka.toNat (BitVec.ofNat 17 (2 ^ 17 - 1 - 2 ^ ka.toNat))

/-- R239. With nothing outstanding the status is 0; else the operations issued before include those whose session severed or that were discarded (log entry 87). -/
def execDrain (h : Head) (hd : BitVec 8) (k : BitVec 4) (s : State) : Host.Outcome State Fault Refusal :=
  memory s h 0xA5 none (fun x => !handleFree x hd) (fun _ => []) (fun _ => []) fun x s =>
    if x.ex.isEmpty then .done (s.advance x)
    else
      let ids := (s.chanLive x.wg [k.toNat]).map (·.id)
      if ids.isEmpty then
        .done ((s.advance x).modGroup x.c x.g fun g => { g with handles := SMap.set g.handles (handleNo hd) ⟨.drain, 0, true, 0⟩ })
      else .done (startEng s x hd .drain (.drainChan k.toNat ids) (if x.wg.lost.contains k.toNat then some cChannelSevered else none))

/-- R239, R258: DRAIN_COMPLETE. -/
def execDrainComplete (core op : Nat) (s : State) : Host.Outcome State Fault Refusal :=
  match (s.core core).eng.find? (·.id == op) with
  | some e =>
    match e.kind with
    | .drainChan _ ids =>
      if e.cancelled then .next (s.engComplete e cCancelled)
      else if s.cores.any fun p => p.2.chanOps.any fun o => ids.contains o.id then .next s
      else .next (s.engComplete e (e.refused.getD 0))
    | _ => .next s
  | none => .next s

def SessState.code : SessState → Nat
  | .closed => 0 | .opened => 1 | .resync => 2 | .severed => 3

/-- R241: the fields of a session, with its operations and the orph bit. -/
def chstatWord (x : Session) (out : Nat) (orph : Bool) : Word32 :=
  BitVec.ofNat 32 (x.state.code * 2 ^ 30 + out % 2 ^ 10 * 2 ^ 20 + (if orph then 2 ^ 19 else 0) +
    (if x.state = .closed then 0 else x.dev % 2 ^ 16 * 4 + x.die % 4))

/-- R241, R308: what CHSTAT reads: of a channel restored with orphans, the orphan in the place of each session, and the orph bit while one is left. -/
def State.chstat (s : State) (c : Nat) (w : Wg) (k n : Nat) : Word32 :=
  let x := w.session k n
  if w.orphaned.contains k then
    let mine := s.cores.flatMap fun p => (p.2.orphans.filter fun (o : Orphan) => !o.killed && o.launch == w.launch && o.wgno == w.wgno && o.chan == k).map fun o => (p.1, o)
    match mine.find? fun p => p.2.sess == n with
    | some (c', o) => chstatWord o.word (s.opsOf c' o.word.openedAt).length true
    | none => chstatWord (if x.state == .severed then x else Session.closed) 0 (!mine.isEmpty)
  else chstatWord x (if x.state == .closed then 0 else (s.opsOf c x.openedAt).length) false

def execChstat (h : Head) (d : BitVec 8) (k : BitVec 4) (n : BitVec 2) (s : State) : Host.Outcome State Fault Refusal :=
  memory s h 0xA6 none (fun _ => !scaOk d 1) (fun _ => []) (fun x => if x.ex.isEmpty then [] else [.sca x.grp.uid d.toNat]) fun x s =>
    if x.ex.isEmpty then .done (s.advance x)
    else .done ((s.advance x).commit x 4 true [(.sca x.grp.uid d.toNat, s.chstat x.c x.wg k.toNat n.toNat)])

/-- R242: the severed sessions of a channel close. -/
def Wg.resetChan (w : Wg) (k : Nat) : Wg :=
  { w with chans := SMap.set w.chans k ((w.chan k).map fun y => if y.state == .severed then { Session.closed with epoch := y.epoch } else y) }

def execChreset (h : Head) (k : BitVec 4) (s : State) : Host.Outcome State Fault Refusal :=
  memory s h 0xA7 none (fun _ => false) (fun _ => []) (fun _ => []) fun x s =>
    if x.ex.isEmpty then .done (s.advance x)
    else .done ((s.advance x).modWg x.c (·.resetChan k.toNat))

/-! ## HTEST, HWAIT, HCANCEL, HMOV (R256 to R259) -/

/-- R256. -/
def execHtest (h : Head) (pd hs : BitVec 8) (s : State) : Host.Outcome State Fault Refusal :=
  memory s h 0xB8 none (fun x => decide (8 ≤ pd.toNat) || !handleTaken x hs) (fun _ => []) (fun x => x.ex.map fun l => .pred l.2 pd.toNat) fun x s =>
    if x.ex.isEmpty then .done (s.advance x)
    else
      let done := match SMap.get? x.grp.handles (handleNo hs) with | some y => y.done | none => false
      let s' := (s.advance x).commit x 4 true (x.ex.map fun l => (.pred l.2 pd.toNat, b32 done))
      .done (if done then s'.joinDrop x.c else s')

/-- R257: the handles of a mask that are done or free. -/
def hwaitMask (g : Group) (m : Nat) : List Nat :=
  (List.range 16).filter fun n => m / 2 ^ n % 2 == 1 && (match SMap.get? g.handles n with | some y => y.done | none => true)

def maskOf (ns : List Nat) : Nat := ns.foldl (fun m n => m + 2 ^ n) 0

/-- A source of HWAIT and of the buffer words: a register, a constant, a literal; no handle and no port. -/
def plainSrcOk (x : Ctx) (m : Src) : Bool :=
  match m with
  | .sca f => scaOk f 1
  | .vec _ => false
  | m => srcOk x .i32 m

def execHwait (h : Head) (all : Bool) (d : BitVec 8) (m : Src) (lit : Lit) (s : State) : Host.Outcome State Fault Refusal :=
  memory s h 0xB9 lit (fun x => !scaOk d 1 || !plainSrcOk x m) (fun x => srcLocs x .i32 m) (fun x => if x.ex.isEmpty then [] else [.sca x.grp.uid d.toNat]) fun x s =>
    if x.ex.isEmpty then .done (s.advance x)
    else
      let k := (srcVal s x .i32 0 m).toNat % 2 ^ 16
      let done := maskOf (hwaitMask x.grp k)
      let joins := (hwaitMask x.grp k).any fun n => (SMap.get? x.grp.handles n).isSome
      if k = 0 ∨ (if all then done = k else done ≠ 0) then
        let s' := (s.advance x).commit x 4 true [(.sca x.grp.uid d.toNat, BitVec.ofNat 32 done)]
        .done (if joins then s'.joinDrop x.c else s')
      else .wait .hwait

/-- A packet that carries this operation has been applied, or lies with another device. -/
def State.stampGone (s : State) (o : ChanOp) : Bool :=
  o.seq.isSome && (o.dev != s.devNum.toNat || s.dies.any fun p => p.2.reseq.any fun r => (r.applied ++ r.doing).any fun a => a.op == o.id)

/-- R253, R258: the stamp of a channelled copy has been written, or can no longer be held back: a cancel comes too late (log entry 24). -/
def State.cancelLate (s : State) (c : Nat) (e : EngOp) : Bool :=
  match e.kind with
  | .copy d t => (match d.chan with
    | none => false
    | some _ =>
      let left := (s.core c).chanOps.filter fun o => o.op == e.id && o.kind == 5
      e.refused.isNone && d.stamp != 0 && decide (e.joined = (bursts 256 d.esz (d.elems t)).length + 1) && (left.isEmpty || left.any s.stampGone))
  | _ => false

/-- R258, R252: the cancel is the first error of an operation that has met none. -/
def EngOp.cancel (e : EngOp) : EngOp := { e with cancelled := true, refused := e.refused.orElse fun _ => some cCancelled }

/-- R258: what a cancel does to an operation: a copy stops at a burst boundary: of a channelled one the operations that have not left are dropped, and a stamp that has left is
not written; a subscription ends (R245). -/
def State.cancelEng (s : State) (c : Nat) (e : EngOp) : State :=
  match e.kind with
  | .snap _ => s
  | .mdrain _ => s
  | .subscribe n =>
    (s.modEng e.id fun e => { e with cancelled := true }).modWg c fun w => { w with subs := SMap.modify w.subs n fun u => { u with ending := true } }
  | .copy _ _ =>
    if s.cancelLate c e then s
    else (s.modEng e.id EngOp.cancel).modCore c fun k => { k with
      chanOps := (k.chanOps.filter fun o => !(o.op == e.id && decide (4 ≤ o.kind) && o.seq.isNone)).map fun o =>
        if o.op == e.id && o.kind == 5 then { o with dead := true } else o }
  | .gather _ => s.modEng e.id EngOp.cancel
  | .drainChan _ _ => s.modEng e.id fun e => { e with cancelled := true }

def execHcancel (h : Head) (hs : BitVec 8) (s : State) : Host.Outcome State Fault Refusal :=
  memory s h 0xBA none (fun x => !handleTaken x hs) (fun _ => []) (fun _ => []) fun x s =>
    if x.ex.isEmpty then .done (s.advance x)
    else
      let s := s.advance x
      match (SMap.get? x.grp.handles (handleNo hs)).bind fun y => if y.done then none else s.eng? y.id with
      | some (c, e) => .done (s.cancelEng c e)
      | none => .done s

/-- R259. -/
def execHmov (h : Head) (hd hs : BitVec 8) (sg : BitVec 5) (s : State) : Host.Outcome State Fault Refusal :=
  memory s h 0xBB none (fun x => !isHandle hd || !handleTaken x hs) (fun x => if x.ex.isEmpty then [] else [.sca x.grp.uid sg.toNat]) (fun _ => []) fun x s =>
    if x.ex.isEmpty then .done (s.advance x)
    else
      let g2 := (x.read (.sca x.grp.uid sg.toNat)).toNat
      match x.wg.group? g2, SMap.get? x.grp.handles (handleNo hs) with
      | some t, some y =>
        if (SMap.get? t.handles (handleNo hd)).isSome then .exc cIllegalOperand 0
        else
          let s := (s.advance x).modGroup x.c x.g fun g => { g with handles := SMap.del g.handles (handleNo hs) }
          let s := s.modGroup x.c g2 fun g => { g with handles := SMap.set g.handles (handleNo hd) y }
          .done (if y.done then s else s.modEng y.id fun e => { e with uid := t.uid, handle := some (handleNo hd) })
      | _, _ => .exc cIllegalOperand 0

end Sys2Proof.Machine
end

