-- ==== Sys2Proof/Machine/Copy.lean ====
section
/-! DEFINITION. Copies and gathers (R250 to R255), subscriptions (R243 to R245) and circular buffers (R248, R249): opcodes 0xA8, 0xA9 and 0xB0 to
0xB7, and their steps. The elements of a copy or gather are performed in turns of their own, as the agenda names them, and those that are left when it
completes (log entry 24). -/

namespace Sys2Proof.Machine

open Sys2Proof

/-! ## Channelled copies (R253) -/

/-- R237, R252: what a channelled burst or stamp may not be written to. -/
def State.burstError (s : State) (asid : Nat) (d : Word64) : Option Nat :=
  if !vaOk d || isWindow d.toNat || s.isHost asid d.toNat then some cAddrFault else none

/-- The operations of a channelled copy in generator order, as far as none is in error, and that error. -/
def burstOps (s : State) (e : EngOp) (d : CopyDesc) (t : Bool) (k : Nat) : List ChanOp × Option Nat :=
  let asid := s.asidOfLaunch e.launch
  let base : ChanOp :=
    { id := 0, launch := e.launch, wgno := e.wgno, asid := asid, chan := k, sess := none, stream := 0, die := 0, dev := 0, op := e.id, lane := 0, kind := 4,
      va := 0, bytes := 0, data := 0, cmp := 0, aop := .store, gen := e.gen, scale := 0, marks := 0, seq := none, after := [], soft := e.before,
      fault := false, dead := false }
  let bs := bursts 256 d.esz (d.elems t)
  let good := (bs.takeWhile fun b => (s.burstError asid b.1).isNone)
  let ops := (List.range good.length).zip good |>.map fun p => { base with lane := p.1, va := p.2.1.toNat, bytes := d.esz * p.2.2.length }
  if good.length < bs.length then (ops, some cAddrFault)
  else if d.stamp == 0 then (ops, none)
  else if (s.burstError asid d.stamp).isSome then (ops, some cAddrFault)
  else (ops ++ [{ base with kind := 5, lane := bs.length, va := d.stamp.toNat, bytes := 8, data := d.sval.toNat }], none)

/-- R296: a channelled copy whose operations would pass the limit waits at issue; one of more than the limit itself joins as they are acknowledged (log entry 88). -/
def State.copyFits (s : State) (c : Nat) (e : EngOp) : Bool :=
  match e.kind with
  | .copy d t => match d.chan with
    | some k => !s.overLimit c (min (burstOps s e d t k).1.length Config.channelLimit)
    | none => true
  | _ => true

/-- R236: the operations of a copy join, from where they stopped; true when all have. -/
def State.joinCopy (s : State) (c : Nat) (e : EngOp) : State × Bool :=
  match e.kind with
  | .copy d t =>
    match d.chan with
    | none => (s, true)
    | some k =>
      let (ops, err) := burstOps s e d t k
      let (s, n) := s.joinAll c (ops.drop e.joined)
      let s := s.modEng e.id fun q => { q with joined := e.joined + n }
      if e.joined + n < ops.length then (s, false)
      else (match err with | some code => s.engError e.id code | none => s, true)
  | _ => (s, true)

/-! ## COPY and COPY.t (R250) -/

/-- A copy that does nothing, for a descriptor that is refused before anything is read or written (R252). -/
def CopyDesc.empty (d : CopyDesc) : CopyDesc := { d with ext := [0, 0, 0, 0], stamp := 0, cbc := 0 }

/-- R250, R252, R425: the descriptor at an offset of the allocation, and the status it ends with at once. -/
def State.copyKind (s : State) (c : Nat) (w : Wg) (off esz : Nat) (t : Bool) (chan : Option Nat) (scope : Scope) : EngKind × Option Nat :=
  let d := copyDescOf (s.scratchBytes c off 96) esz chan scope
  if s.isPoisoned (scratchKey c off) 96 then (.copy d.empty t, some cMemUncorrectable)
  else if d.ok t w.cbs then (.copy d t, none)
  else (.copy d.empty t, some cIllegalOperand)

def copyWord (s : State) (h : Head) (op : Nat) (hd base : BitVec 8) (chan : Option (BitVec 4)) (scope : Scope) (t : Bool) (esz : Nat) :
    Host.Outcome State Fault Refusal :=
  memory s h op none (fun x => !handleFree x hd || !scaOk base 1) (fun x => if x.ex.isEmpty then [] else [.sca x.grp.uid base.toNat]) (fun _ => []) fun x s =>
    if x.ex.isEmpty then .done (s.advance x)
    else
      let off := (x.read (.sca x.grp.uid base.toNat)).toNat
      if off % 32 != 0 then .exc cIllegalOperand 0
      else if x.r.scratch < off + 96 then .exc cAddrFault 0
      else
        let hop : HOp := if t then .copyT else .copy
        match x.grp.part with
        | none =>
          if x.wg.writesOpen x.grp.slots off 96 then .wait .reply
          else
          let (k, refused) := s.copyKind x.c x.wg off esz t (chanNo chan) scope
          let e := newEng s x (some (handleNo hd)) k refused
          if !s.copyFits x.c e then .wait .channel
          else
          let s := s.draw.addEng x.c e
          let (s', all) := s.joinCopy x.c e
          if all then .done ((s'.advance x).setHandle x (handleNo hd) hop e.id)
          else .hold (s'.modGroup x.c x.g fun g => { g with part := some (e.id, 0) }) .channel
        | some (id, _) =>
          match s.eng? id with
          | none => .wait .channel
          | some (_, e) =>
            let (s', all) := s.joinCopy x.c e
            if all then .done (((s'.advance x).setHandle x (handleNo hd) hop id).modGroup x.c x.g fun g => { g with part := none })
            else .hold s' .channel

def execCopy (h : Head) (hd base : BitVec 8) (chan : Option (BitVec 4)) (scope : Scope) (s : State) : Host.Outcome State Fault Refusal :=
  copyWord s h 0xB0 hd base chan scope false 1

def execCopyT (h : Head) (hd base : BitVec 8) (chan : Option (BitVec 4)) (scope : Scope) (size : Size) (s : State) : Host.Outcome State Fault Refusal :=
  copyWord s h 0xB1 hd base chan scope true (sizeBytes size)

/-- A COPY word still waits for sessions of this copy (R236). -/
def State.joining (s : State) (e : EngOp) : Bool :=
  match s.owner? e.launch e.wgno with
  | some w => (w.groups.map (·.2) ++ w.parked.map (·.group)).any fun g => match g.part with | some (id, _) => id == e.id | none => false
  | none => false

/-- The stamp of an unchannelled copy (R253); one at `.wg` may be read by the threads of the workgroup (R268, R275). -/
def State.runStamp (s : State) (e : EngOp) (d : CopyDesc) : EngRun :=
  if d.stamp == 0 || d.chan.isSome then (s, none)
  else
    match s.engWrite e d.stamp (natToBytes 8 d.sval.toNat) with
    | (s, some k) => (s, some (k, true))
    | (s, none) => (if d.scope == .wg then s.modOwner e.launch e.wgno fun w => { w with stamped := true } else s, none)

/-- R252, R253: the end of a copy whose elements are all performed: a commit that breaks R249 ends it with no stamp; else the stamp, then the commit. -/
def State.endCopy (s : State) (core : Nat) (e : EngOp) (d : CopyDesc) : State :=
  if !(s.commitCopy e d).2 then s.engComplete e cIllegalOperand
  else State.engFinish core e (s.runStamp e d) fun s => (s.commitCopy e d).1.engComplete e 0

/-- R252, R258: a copy that has an error, or is cancelled, ends with it, once the bursts that were issued before a cancel are complete. -/
def State.endRefused (s : State) (core : Nat) (e : EngOp) (d : CopyDesc) (t : Bool) (code : Nat) : State :=
  match s.runElems e d.esz (d.elems t) with
  | (s, some (.status _, _)) => s.engComplete e code
  | r => State.engFinish core e r fun s => s.engComplete e code

/-- R253, R254, R258: COPY_COMPLETE: an error that is known ends the copy; else the elements that are left are performed, and it ends. -/
def execCopyComplete (core op : Nat) (s : State) : Host.Outcome State Fault Refusal :=
  match (s.core core).eng.find? (·.id == op) with
  | some e =>
    match e.kind with
    | .copy d t =>
      let held : Bool := match d.chan with
        | some k => (decide (e.joined < (burstOps s e d t k).1.length) && e.refused.isNone) || (s.core core).chanOps.any fun o => o.op == op && decide (4 ≤ o.kind)
        | none => false
      if e.fault.isSome || s.copyWaits e d || s.joining e || held then .next s
      else
        match e.refused with
        | some code => .next (if d.chan.isSome then s.engComplete e code else s.endRefused core e d t code)
        | none =>
          if d.chan.isSome then .next (s.endCopy core e d)
          else if !s.engReady e then .next s
          else .next (State.engFinish core e (s.runElems e d.esz (d.elems t)) fun s => s.endCopy core e d)
    | _ => .next s
  | none => .next s

/-! ## Copies without a handle (R254) -/

/-- R254: COPY_Q2_COMMAND: a command enters q2, which holds four. -/
def execCopyQ2Command (core grp : Nat) (cmd : BitVec 32) (s : State) : Host.Outcome State Fault Refusal :=
  match s.group? core grp with
  | some g => if (g.port 2).length < 4 then .next (s.pushPort core grp 2 cmd) else .next s
  | none => .next s

/-- R254: the fields of a command that is well formed: descriptor offset, element size, COPY.t, channel, scope. A channel without ch, or a size without t, makes it malformed
(a choice of the model's: log entry 52). -/
def q2Command (v : Nat) : Option (Nat × Nat × Bool × Option Nat × Scope) :=
  let sc := bits v 31 29
  let ch := bits v 24 24 == 1
  let t := bits v 20 20 == 1
  if 5 < sc || 4 < bits v 23 21 || bits v 4 0 != 0 || (ch && sc != 0) || (!ch && bits v 28 25 != 0) || (!t && bits v 23 21 != 0) then none
  else some (bits v 19 0, if t then 2 ^ bits v 23 21 else 1, t, if ch then some (bits v 28 25) else none, Scope.ofCode sc)

/-- R254: Q2_COPY_START: the copy under way joins the rest of its sessions; else the head of q2 starts, with fewer than four statuses not popped. -/
def execQ2CopyStart (core grp : Nat) (s : State) : Host.Outcome State Fault Refusal :=
  match s.wg? core, s.group? core grp, s.launchOf core with
  | some w, some g, some l =>
    let half := (s.core core).eng.find? fun e => e.handle.isNone && e.uid == g.uid && (match e.kind with
      | .copy d t => (match d.chan with | some k => e.refused.isNone && !e.cancelled && decide (e.joined < (burstOps s e d t k).1.length) | none => false)
      | _ => false)
    match half with
    | some e => .next (s.joinCopy core e).1
    | none =>
      match g.port 2 with
      | [] => .next s
      | cmd :: _ =>
        let unwritten : Bool := match q2Command cmd.toNat with | some (off, _) => w.writesOpen g.slots off 96 | none => false
        if 4 ≤ g.q2Started || unwritten then .next s
        else
          let empty : CopyDesc := copyDescOf [] 1 none .none
          let (k, refused) : EngKind × Option Nat := match q2Command cmd.toNat with
            | none => (.copy empty.empty false, some cIllegalOperand)
            | some (off, esz, t, chan, scope) =>
              if l.rcd.scratch < off + 96 then (.copy empty.empty false, some cAddrFault) else s.copyKind core w off esz t chan scope
          let e : EngOp := { id := s.nextId, launch := w.launch, wgno := w.wgno, uid := g.uid, handle := none, kind := k,
                             gen := g.q2Gens.headD (s.core core).ms, gang := w.gang, rank := w.rank, cancelled := false, fault := none, refused := refused,
                             freed := false, killed := false, before := w.before g.slots, joined := 0 }
          if !s.copyFits core e then .next s
          else
          let s := (s.popPort core grp 2).modGroup core grp fun g => { g with q2Started := g.q2Started + 1 }
          .next ((s.draw.addEng core e).joinCopy core e).1
  | _, _, _ => .next s

/-! ## HGATHER (R255) -/

def gatherDescOf (bs : List Byte) (esz : Nat) : GatherDesc :=
  { base := u64At bs 0, idx := u32At bs 8, count := u32At bs 0xC, dst := u32At bs 0x10, resv := u32At bs 0x14 == 0 && u64At bs 0x18 == 0, esz := esz }

def GatherDesc.ok (d : GatherDesc) : Bool :=
  d.resv && d.base.toNat % d.esz == 0 && d.idx % 4 == 0 && d.dst % d.esz == 0 && decide (d.count ≤ 65536)

def execHgather (h : Head) (hd base : BitVec 8) (size : Size) (s : State) : Host.Outcome State Fault Refusal :=
  memory s h 0xB2 none (fun x => !handleFree x hd || !scaOk base 1) (fun x => if x.ex.isEmpty then [] else [.sca x.grp.uid base.toNat]) (fun _ => []) fun x s =>
    if x.ex.isEmpty then .done (s.advance x)
    else
      let off := (x.read (.sca x.grp.uid base.toNat)).toNat
      if off % 32 != 0 then .exc cIllegalOperand 0
      else if x.r.scratch < off + 32 then .exc cAddrFault 0
      else if x.wg.writesOpen x.grp.slots off 32 then .wait .reply
      else
        let d := gatherDescOf (s.scratchBytes x.c off 32) (sizeBytes size)
        let (d, refused) : GatherDesc × Option Nat :=
          if s.isPoisoned (scratchKey x.c off) 32 then ({ d with count := 0 }, some cMemUncorrectable)
          else if d.ok then (d, none) else ({ d with count := 0 }, some cIllegalOperand)
        .done (startEng s.draw x hd .hgather (.gather d) refused)

/-- R255: the value of an element, read at the home of its address. R255 names no status for a base that is a window: the model judges each element's address, ADDR_FAULT in a
window, so that a count of zero completes with 0 (a choice of the model's: log entry 106). -/
def State.gatherRead (s : State) (e : EngOp) (d : GatherDesc) (i : Nat) : State × Except EngStop (List Byte) :=
  match s.engScratch e e.rank (d.idx + 4 * i) 4 false with
  | .error c => (s, .error (.status c))
  | .ok _ =>
    let s := s.engMeet e e.rank
    match s.rankBytes e.launch e.gang e.rank (d.idx + 4 * i) 4 with
    | .error k => (s, .error k)
    | .ok bs =>
      let ea := d.base + BitVec.ofInt 64 (signed 32 (bytesToNat bs) * Int.ofNat d.esz)
      if !vaOk ea || isWindow ea.toNat then (s, .error (.status cAddrFault)) else s.engRead e ea d.esz

/-- R255: the value of an element is written. -/
def State.gatherWrite (s : State) (e : EngOp) (d : GatherDesc) (i : Nat) (v : List Byte) : State × Option EngStop :=
  match s.engScratch e e.rank (d.dst + d.esz * i) d.esz true with
  | .error c => (s, some (.status c))
  | .ok _ => (((s.engMeet e e.rank).rankWrite e.launch e.gang e.rank (d.dst + d.esz * i) v).draw.engDone e.id [i], none)

/-- One element after another. -/
def State.runGather (s : State) (e : EngOp) (d : GatherDesc) : List Nat → EngRun
  | [] => (s, none)
  | i :: is =>
    let (s, v) : State × Except EngStop (List Byte) := match SMap.get? e.taken i with
      | some bs => (s, .ok bs)
      | none => s.gatherRead e d i
    match v with
    | .error k => (s, some (k, false))
    | .ok v =>
      match s.gatherWrite e d i v with
      | (s, some k) => (s, some (k, true))
      | (s, none) => State.runGather s e d is

def execHgatherComplete (core op : Nat) (s : State) : Host.Outcome State Fault Refusal :=
  match (s.core core).eng.find? (·.id == op) with
  | some e =>
    match e.kind with
    | .gather d =>
      if e.fault.isSome then .next s
      else
        match e.refused with
        | some code => .next (s.engComplete e code)
        | none =>
          if !s.engReady e then .next s
          else .next (State.engFinish core e (s.runGather e d ((List.range d.count).filter fun i => !e.done.contains i)) fun s => s.engComplete e 0)
    | _ => .next s
  | none => .next s

/-! ## Elements in turns of their own (R276) -/

/-- Bytes that an element's read gave, or what stopped it: an error is the operation's first, a fault is reported. -/
def State.tookElem (core : Nat) (e : EngOp) (i : Nat) : State × Except EngStop (List Byte) → State
  | (s, .ok bs) => s.modEng e.id fun e => { e with taken := SMap.set e.taken i bs }
  | (s, .error (.status k)) => s.engError e.id k
  | (s, .error (.fault va k)) => s.engFault core e va k false
  | (s, .error .wait) => s

/-- An operation with this element still to be performed. -/
def State.elemOf (s : State) (core op i : Nat) : Option EngOp :=
  (s.core core).eng.find? fun e => e.id == op && s.engReady e && !e.done.contains i &&
    match e.kind with
    | .copy d t => e.performs d.esz (d.elems t) i
    | _ => e.refused.isNone

/-- R251, R255, R276: the source of one element of an unchannelled copy or of a gather is read. -/
def State.engTake (s : State) (core op i : Nat) : State :=
  match s.elemOf core op i with
  | none => s
  | some e =>
    if (SMap.get? e.taken i).isSome then s
    else
      match e.kind with
      | .copy d t =>
        if d.chan.isSome || !s.elemReady e d.esz (d.elems t) i false then s
        else match (d.elems t)[i]? with
          | some p => State.tookElem core e i (s.engRead e p.1 d.esz)
          | none => s
      | .gather d => if i < d.count then State.tookElem core e i (s.gatherRead e d i) else s
      | _ => s

/-- R251, R255, R276: an element whose source has been read is written. -/
def State.engPut (s : State) (core op i : Nat) : State :=
  match s.elemOf core op i with
  | none => s
  | some e =>
    match SMap.get? e.taken i, e.kind with
    | some bs, .copy d t =>
      if !s.elemReady e d.esz (d.elems t) i true then s
      else match (d.elems t)[i]? with
        | some p =>
          (match s.engWrite e p.2 bs with
          | (s, none) => s.engDone e.id [i]
          | (s, some (.status k)) => s.engError e.id k
          | (s, some (.fault va k)) => s.engFault core e va k true
          | (s, some .wait) => s)
        | none => s
    | some bs, .gather d =>
      (match s.gatherWrite e d i bs with
      | (s, some (.status k)) => s.engError e.id k
      | (s, _) => s)
    | _, _ => s

/-! ## Subscriptions (R243 to R245) -/

/-- The four registers of a scalar quad. -/
def quadAt (x : Ctx) (q : BitVec 8) (i : Nat) : Word32 := x.read (.sca x.grp.uid (q.toNat + i))
def quadLocs (x : Ctx) (q : BitVec 8) : List Loc := if x.ex.isEmpty then [] else (List.range 4).map fun i => .sca x.grp.uid (q.toNat + i)

def spanOverlap (a n b m : Nat) : Bool := decide (a < b + m) && decide (b < a + n)

/-- R243: the range and the replica. -/
def subscribeOk (x : Ctx) (n : Nat) (va : Word64) (off len : Nat) : Bool :=
  (SMap.get? x.wg.subs n).isNone && vaOk va && !isWindow va.toNat && va.toNat % 128 == 0 && off % 128 == 0 && len % 128 == 0 && decide (128 ≤ len) &&
    decide (len ≤ 65536) && va.toNat / 2 ^ 21 == (va.toNat + len - 1) / 2 ^ 21 && decide (off + len ≤ x.r.scratch) &&
    !(x.wg.subs.any fun p => spanOverlap off len p.2.off p.2.len) && !(x.wg.cbs.any fun p => spanOverlap off len p.2.off (p.2.esize * p.2.count))

def execSubscribe (h : Head) (hd : BitVec 8) (q : BitVec 8) (n : BitVec 4) (s : State) : Host.Outcome State Fault Refusal :=
  memory s h 0xA8 none (fun x => !handleFree x hd || !scaOk q 4) (fun x => quadLocs x q) (fun _ => []) fun x s =>
    if x.ex.isEmpty then .done (s.advance x)
    else
      let va := pairOf (quadAt x q 0) (quadAt x q 1)
      let off := (quadAt x q 2).toNat
      let len := (quadAt x q 3).toNat
      if !subscribeOk x n.toNat va off len then .exc cIllegalOperand 0
      else
        let u : Sub := { va := va.toNat, off := off, len := len, filled := false, ending := false, ct := 0, uid := x.grp.uid, since := x.l.undo.length, refill := false }
        .done ((startEng s x hd .subscribe (.subscribe n.toNat) none).modWg x.c fun w => { w with subs := SMap.set w.subs n.toNat u })

/-- The pending SUBSCRIBE of a subscription. -/
def State.subEng (s : State) (c n : Nat) (w : Wg) : Option EngOp :=
  ((s.core c).eng ++ s.cores.flatMap fun p => p.2.eng).find? fun e => e.kind == .subscribe n && e.launch == w.launch && e.wgno == w.wgno && !e.killed

/-- R243: SUBSCRIBE_FILL_COMPLETE: the replica takes the range as it stands at its home. -/
def execSubscribeFillComplete (core n : Nat) (s : State) : Host.Outcome State Fault Refusal :=
  match s.wg? core with
  | none => .next s
  | some w =>
    match SMap.get? w.subs n with
    | none => .next s
    | some u =>
      let e := s.subEng core n w
      if u.filled || u.ending || (e.bind (·.fault)).isSome then .next s
      else
        match s.readRun (s.asidOf core) u.va u.len with
        | (s, .ok bs) =>
          let s := (s.hearHome core u.va).scratchPut core u.off bs
          let s := s.modWg core fun w => { w with subs := SMap.modify w.subs n fun u => { u with filled := true, refill := false } }
          .next (match e with | some e => s.engComplete e 0 | none => s)
        | (_, .error .wait) => .next s
        | (_, .error (.fault va k)) =>
          (match e with
          | none =>
            .next (s.reportFault (s.tenantOf core) va (s.asidOf core) core 4 k)
          | some e =>
            match e.refused with
            | some code => .next ((s.modWg core fun w => { w with subs := SMap.del w.subs n }).engComplete e code)
            | none => .next (s.engFault core e va k false))
        | (_, .error (.status code)) =>
          match e with
          | some e => .next ((s.modWg core fun w => { w with subs := SMap.del w.subs n }).engComplete e code)
          | none => .next (s.modWg core fun w => { w with subs := SMap.del w.subs n })

/-- R245. -/
def execUnsub (h : Head) (n : BitVec 4) (s : State) : Host.Outcome State Fault Refusal :=
  memory s h 0xA9 none (fun _ => false) (fun _ => []) (fun _ => []) fun x s =>
    if x.ex.isEmpty then .done (s.advance x)
    else
      match SMap.get? x.wg.subs n.toNat with
      | none => .exc cIllegalOperand 0
      | some u =>
        if u.ending then .exc cIllegalOperand 0
        else .done (((s.advance x).incCt x).modWg x.c fun w =>
          { w with subs := SMap.set w.subs n.toNat { u with ending := true, ct := x.h.ct.toNat, uid := x.grp.uid } })

/-- R245, R258: UNSUB_COMPLETE: the record is removed; the replica keeps its bytes. -/
def execUnsubComplete (core n : Nat) (s : State) : Host.Outcome State Fault Refusal :=
  match s.wg? core with
  | none => .next s
  | some w =>
    match SMap.get? w.subs n with
    | none => .next s
    | some u =>
      if !u.ending then .next s
      else
        let s := (s.modWg core fun w => { w with subs := SMap.del w.subs n }).decCt core u.uid u.ct
        .next (match s.subEng core n w with | some e => s.engComplete e cCancelled | none => s)

/-! ## Circular buffers (R248, R249) -/

/-- R248: a pending copy commits to the buffer. -/
def State.commitPending (s : State) (w : Wg) (n : Nat) : Bool :=
  s.cores.any fun p => p.2.eng.any fun e => e.launch == w.launch && e.wgno == w.wgno && !e.killed && (match e.kind with
    | .copy d _ => d.commits && d.buffer == n
    | _ => false)

def execCbset (h : Head) (q : BitVec 8) (n : BitVec 3) (s : State) : Host.Outcome State Fault Refusal :=
  memory s h 0xB3 none (fun _ => !scaOk q 4) (fun x => quadLocs x q) (fun _ => []) fun x s =>
    if x.ex.isEmpty then .done (s.advance x)
    else
      let off := (quadAt x q 0).toNat
      let esz := (quadAt x q 1).toNat
      let cnt := (quadAt x q 2).toNat
      let bad := off % 16 != 0 || esz % 16 != 0 || decide (esz < 16) || decide (65536 < esz) || decide (cnt < 1) || decide (4096 < cnt) || quadAt x q 3 != 0 ||
        decide (x.r.scratch < off + esz * cnt) || x.wg.subs.any (fun p => spanOverlap off (esz * cnt) p.2.off p.2.len) ||
        (match SMap.get? x.wg.cbs n.toNat with | some b => !b.waiters.isEmpty | none => false) || s.commitPending x.wg n.toNat
      if bad then .exc cIllegalOperand 0
      else .done ((s.advance x).modWg x.c fun w => { w with cbs := SMap.set w.cbs n.toNat ⟨off, esz, cnt, 0, 0, 0, 0, 0, 0, 0, 0, []⟩ })

/-- R249: the count of a buffer word, where the buffer is set and the count legal. -/
def cbOf (s : State) (x : Ctx) (cnt : Src) (n : Nat) : Option (CBuf × Nat) :=
  let k := (srcVal s x .i32 0 cnt).toNat % 2 ^ 32
  match SMap.get? x.wg.cbs n with
  | some b => if 1 ≤ k ∧ k ≤ b.count then some (b, k) else none
  | none => none

def CBuf.canPut (b : CBuf) (n : Nat) : Bool := decide ((b.putRes - b.getDone).toNat + n ≤ b.count)
def CBuf.canGet (b : CBuf) (n : Nat) : Bool := decide (n ≤ (b.putDone - b.getRes).toNat)

/-- The reservation of a CBWAIT: the entry's offset and the buffer after. -/
def CBuf.reserve (b : CBuf) (put : Bool) (n : Nat) : Nat × CBuf :=
  if put then (b.off + b.pPutRes * b.esize, { b with putRes := b.putRes + BitVec.ofNat 32 n, pPutRes := (b.pPutRes + n) % max b.count 1 })
  else (b.off + b.pGetRes * b.esize, { b with getRes := b.getRes + BitVec.ofNat 32 n, pGetRes := (b.pGetRes + n) % max b.count 1 })

def cbwaitWord (s : State) (h : Head) (op : Nat) (put : Bool) (d : BitVec 8) (cnt : Src) (n : Nat) (lit : Lit) : Host.Outcome State Fault Refusal :=
  memory s h op lit (fun x => !scaOk d 1 || !plainSrcOk x cnt) (fun x => srcLocs x .i32 cnt) (fun x => if x.ex.isEmpty then [] else [.sca x.grp.uid d.toNat]) fun x s =>
    if x.ex.isEmpty then .done (s.advance x)
    else
      match cbOf s x cnt n with
      | none => .exc cIllegalOperand 0
      | some (b, k) =>
        let first := match b.waiters.find? (·.2 == put) with | some p => p.1 == x.grp.uid | none => true
        let waiters := b.waiters.filter fun p => !(p.1 == x.grp.uid)
        if first && (if put then b.canPut k else b.canGet k) then
          let (off, b') := b.reserve put k
          let s := ((s.advance x).commit x 4 true [(.sca x.grp.uid d.toNat, BitVec.ofNat 32 off)]).modWg x.c fun w =>
            { w with cbs := SMap.set w.cbs n { b' with waiters := waiters } }
          .done (if put then s else s.joinDrop x.c)
        else
          let ws := if b.waiters.any fun p => p.1 == x.grp.uid then b.waiters else b.waiters ++ [(x.grp.uid, put)]
          .hold (s.modWg x.c fun w => { w with cbs := SMap.set w.cbs n { b with waiters := ws } }) (if put then .cbP else .cbC)

def execCbwaitP (h : Head) (d : BitVec 8) (cnt : Src) (n : BitVec 3) (lit : Lit) (s : State) : Host.Outcome State Fault Refusal :=
  cbwaitWord s h 0xB4 true d cnt n.toNat lit

def execCbwaitC (h : Head) (d : BitVec 8) (cnt : Src) (n : BitVec 3) (lit : Lit) (s : State) : Host.Outcome State Fault Refusal :=
  cbwaitWord s h 0xB5 false d cnt n.toNat lit

/-- R249: a release of entries; `none`: more than are reserved. -/
def CBuf.release (b : CBuf) (put : Bool) (n : Nat) : Option CBuf :=
  if put then
    if (b.putRes - b.putDone).toNat < n then none
    else some { b with putDone := b.putDone + BitVec.ofNat 32 n, pPutDone := (b.pPutDone + n) % max b.count 1 }
  else
    if (b.getRes - b.getDone).toNat < n then none
    else some { b with getDone := b.getDone + BitVec.ofNat 32 n, pGetDone := (b.pGetDone + n) % max b.count 1 }

def cbrelWord (s : State) (h : Head) (op : Nat) (put : Bool) (cnt : Src) (n : Nat) (lit : Lit) : Host.Outcome State Fault Refusal :=
  memory s h op lit (fun x => !plainSrcOk x cnt) (fun x => srcLocs x .i32 cnt) (fun _ => []) fun x s =>
    if x.ex.isEmpty then .done (s.advance x)
    else
      match (cbOf s x cnt n).bind fun p => p.1.release put p.2 with
      | none => .exc cIllegalOperand 0
      | some b => releaseGate x s fun s => .done ((s.advance x).modWg x.c fun w => { w with cbs := SMap.set w.cbs n b })

def execCbrelP (h : Head) (cnt : Src) (n : BitVec 3) (lit : Lit) (s : State) : Host.Outcome State Fault Refusal := cbrelWord s h 0xB6 true cnt n.toNat lit

def execCbrelC (h : Head) (cnt : Src) (n : BitVec 3) (lit : Lit) (s : State) : Host.Outcome State Fault Refusal := cbrelWord s h 0xB7 false cnt n.toNat lit

end Sys2Proof.Machine
end

