-- ==== Sys2Proof/Machine/Issue.lean ====
section
/-! DEFINITION. What a group does when its turn to issue comes, before the word's own meaning (R50, R54, R110): it fetches its clause, tests the wait
masks of the header, or comes to a word. -/

namespace Sys2Proof.Machine

open Sys2Proof

/-- The group can issue a word: it has its clause, and the wait masks have been or can be passed. -/
def Group.atWord (g : Group) : Bool := g.fetched && decide (0 < g.wix) && (g.tested || (g.countersMet && g.handlesMet))

/-- The workgroup of a core issues words: it is not halted in an earlier ck, stopped or retired, and its island has its clock; a resumed one has its
subscriptions filled again (R244). -/
def State.issues (s : State) (c : Nat) : Bool :=
  !s.trip && s.coreOn c && match s.wg? c with | some w => w.issuesAt (s.core c).ck && !w.saving && !w.retired && !w.subs.any (fun p => p.2.refill) | none => false

/-- The opcode of the group's next word. -/
def Group.opcode (g : Group) : Nat := ((g.words[g.wix - 1]?).map fun w => opcodeOf w.toNat).getD 0

/-- R54: the group has issued a word of its clause, or resumed inside it. -/
def Group.inClause (g : Group) : Bool := g.tested && decide (1 < g.wix)

/-- Waits that a step of the table ends: a fill, a delivery, a retest, a validation, a retirement, a step of a RESAMPLE. -/
def Wait.ended : Wait → Bool
  | .clauseMiss => true | .clauseFault => true | .streamFetch => true | .mwait => true | .validate => true | .tail => true | .resample => true
  | .counter31 => false | .portFull _ => false | .portEmpty _ => false | .masks => false | .handle _ => false | .hwait => false | .barrier => false
  | .planned => false | .fetchReply => false | .cbP => false | .cbC => false | .mtxFull => false | .q0Drain => false | .fence => false | .logFull => false
  | .channel => false | .reply => false | .replica => false

/-- R50: the group is not known to be blocked in this ck: it has not been found to wait, or not in this ck and by a wait that may have ended since. -/
def Group.mayIssue (g : Group) (ck : Nat) : Bool :=
  match g.wait with
  | none => true
  | some w => !w.ended && decide (g.waitAt < ck)

/-- R50, R54: the group as it stands for the issue: at a clause boundary with the clause that its fetch would find in the loop buffer or the cluster's cache. -/
def State.poised (s : State) (c : Nat) (g : Group) : Group :=
  if g.fetched then g
  else
    match (s.loopClause c (s.asidOf c) g.hdr).orElse fun _ => s.icClause c (s.asidOf c) g.hdr with
    | some cl => if clauseOk cl.1 cl.2 && decide (g.wix ≤ cl.2.length) then
        { g with fetched := true, header := cl.1, words := cl.2, wix := max 1 g.wix } else g
    | none => g

/-- R53: the issues of its kind that have passed over the group since it last issued, or was last found to wait. -/
def Wg.passed (w : Wg) (g : Group) : Nat := SMap.getD w.issues (issueKind g.opcode) 0 - SMap.getD g.seen (issueKind g.opcode) 0

/-- R53: after so many more issues as there are other groups, each of which may have waited longer, the bound of 63 would be passed. -/
def Wg.due (w : Wg) (g : Group) : Bool := decide (64 ≤ w.passed g + w.groups.length)

/-- R50, R54: another group, at a word of the same issue and not blocked, takes the issue before this one: it can begin in an earlier ck; or in the
same ck, inside its clause where this one is not, or else having waited longer. The manual gives a group inside its clause every ck in which it is eligible (R54) and
every eligible group an issue within 63 of its kind (R53), which several groups inside their clauses cannot all have: once the bound of R53 needs it (`due`), the one
that has waited longest goes first wherever it stands (log entry 77). A group that has never issued has waited since the ck of its start or
formation, and of two that have waited equally long the lower slot goes first: the manual fixes neither (log entry 5). -/
def goesBefore (x : Core) (w : Wg) (due : Bool) (g h : Nat × Group) : Bool :=
  let a := beginCk x w h.2 h.2.opcode
  let b := beginCk x w g.2 g.2.opcode
  h.1 != g.1 && h.2.atWord && decide (h.2.opcode < 0x60) == decide (g.2.opcode < 0x60) &&
    (decide (a < b) || (a == b &&
      (if due || h.2.inClause == g.2.inClause then decide (h.2.lastIssue < g.2.lastIssue) || (h.2.lastIssue == g.2.lastIssue && decide (h.1 < g.1))
       else h.2.inClause)))

/-- R346: a command of another group, which the matrix queue has room for, goes ahead of the matrix word that the group stands at. -/
def Wg.commandFirst (w : Wg) (g : Nat) (x : Group) : Bool :=
  decide (0xC0 ≤ x.opcode) && decide (x.opcode ≤ 0xD6) && decide (w.mtx.queue.length < Config.matrixQueue) &&
    w.groups.any fun h => h.1 != g && !(h.2.port 0).isEmpty

/-- R50, R53: no other group takes the issue before this one, which begins in a ck in which the workgroup issues (R426). A group that was found to wait before the ck in
which the issue would begin is tested again before a younger one issues. -/
def State.first (s : State) (c g : Nat) (x : Group) : Bool :=
  match s.wg? c with
  | some w =>
    let k := s.core c
    let rivals := (w.groups.filter fun h => h.2.mayIssue (beginCk k w x x.opcode)).map fun h => (h.1, s.poised c h.2)
    let due := ((g, x) :: rivals).any fun h => w.due h.2
    w.issuesAt (beginCk k w x x.opcode) && !w.commandFirst g x && !rivals.any fun h => goesBefore k w due (g, x) h
  | none => true

/-- What a turn comes to: something other than a word has happened, or a word issues. -/
inductive TurnKind where
  | done (s : State)
  | word (s : State) (w : Nat) (next : Option Nat)

/-- The turn of a group. A group whose next word another goes before leaves its turn (R50). -/
def State.turnOf (s : State) (c g : Nat) : TurnKind :=
  match s.group? c g with
  | none => .done s
  | some x =>
    if !s.issues c then .done s
    else if !x.fetched then
      match execClauseFetch c g s with
      | .next s => .done s
      | _ => .done s
    else if !x.tested && !x.countersMet then .done (s.setWait c g (some .masks))
    else if !x.tested && !x.handlesMet then .done (s.setWait c g (some .masks))
    else
      match x.words[x.wix - 1]? with
      | none => .done s
      | some w =>
        if !s.first c g x then .done s
        else .word { (s.modGroup c g fun x => { x with tested := true }) with cur := (c, g) } w.toNat ((x.words[x.wix]?).map (·.toNat))

end Sys2Proof.Machine
end

