-- ==== Sys2Proof/Machine/MemEvents.lean ====
section
/-! DEFINITION. The steps of accesses in flight: LOAD_REPLY, ATOM_REPLY, HOME_WRITE_ARRIVAL, STORE_ACK, PEER_SCRATCHPAD_WRITE and L2_MISS_TRANSLATE
(R226 to R232, R244, R246, R269, R375, R382). A step that its access is not ready for leaves the state as it is. -/

namespace Sys2Proof.Machine

open Sys2Proof

/-! ## Loads -/

/-- A load can act: its workgroup is not killed, and no lane of it stands in the operand log. -/
def MemOp.logged (o : MemOp) : Bool := o.lanes.any fun l => match l.stat with | .logged _ => true | _ => false

/-- R270: an access that held its group is satisfied: lines drop, and later words may issue. -/
def State.satisfy (s : State) (c : Nat) (o : MemOp) : State :=
  if o.acq then
    (s.acquireAt c o.scope).modWg c fun w =>
      w.modUid o.uid fun g => { g with holdOp := if g.holdOp == some o.id then none else g.holdOp }
  else s

/-- R226, R225: the values of a load reach its registers, and its counter goes down. -/
def State.replyLoad (s : State) (c : Nat) (o : MemOp) : State :=
  let ws := o.lanes.flatMap fun l =>
    let vs := extend o.bytes o.sx l.old
    (o.locs l.slot vs.length).zip vs
  let s := s.modWg c fun w => { (w.deliver (s.core c).ck o.id ws) with ops := w.ops.filter fun (q : MemOp) => q.id != o.id }
  (s.decCt c o.uid o.ct).satisfy c o

/-- The lanes still open are read, in ascending order, as far as that can be done now. -/
def State.readOpen (s : State) (c : Nat) (o : MemOp) : List LaneAcc → State × Option (List LaneAcc) × Bool
  | [] => (s, some [], false)
  | l :: ls =>
    if !l.isOpen then
      match State.readOpen s c o ls with
      | (s, some rest, p) => (s, some (l :: rest), p)
      | r => r
    else if (match s.wg? c with | some w => laneBlocked w o l | none => true) then (s, none, false)
    else
      match s.readLane c o l false with
      | (s, .bytes bs) =>
        let s := if l.space == .trans then s.hearHome c l.off else s
        match State.readOpen s c o ls with
        | (s, some rest, p) => (s, some ({ l with stat := .performed, old := bytesToNat bs } :: rest), p)
        | r => r
      | (s, .poison) => (s, none, true)
      | (s, _) => (s, none, false)

def execLoadReply (core op : Nat) (s : State) : Host.Outcome State Fault Refusal :=
  match s.memOp? core op with
  | none => .next s
  | some o =>
    if o.aop != .load || o.logged then .next s
    else
      match s.readOpen core o o.lanes with
      | (s, some ls, _) => .next (s.replyLoad core { o with lanes := ls })
      | (s', none, true) => .next (s'.machineCheck core cMemUncorrectable o.pc o.mask)
      | (_, none, false) => .next s

/-! ## Bytes and lanes of a load in turns of their own (R292) -/

/-- One lane of a load is read before the others. -/
def State.readOneLane (s : State) (c op lane : Nat) : State :=
  match s.wg? c, s.memOp? c op with
  | some w, some o =>
    match o.lane? lane with
    | some l =>
      let open? := match l.stat with | .waiting => true | .retry => true | _ => false
      if o.aop != .load || !open? || laneBlocked w o l then s
      else
        match s.readLane c o l false with
        | (s, .bytes bs) => (if l.space == .trans then s.hearHome c l.off else s).modLane c op lane fun l => { l with stat := .performed, old := bytesToNat bs }
        | _ => s
    | none => s
  | _, _ => s

/-- R292: one byte of a load that reads at the home is read before the others. -/
def State.readEarly (s : State) (c op lane i : Nat) : State :=
  match s.wg? c, s.memOp? c op with
  | some w, some o =>
    match o.lane? lane with
    | some l =>
      let asid := s.asidOf c
      if o.aop != .load || o.lk == .nc || l.stat != .waiting || l.space != .trans || laneBlocked w o l || (s.peerOf asid l.off).isSome || decide (o.bytes ≤ i) ||
          ((s.core c).l1Find asid l.off).isSome || !s.reach asid l.off needRead then s
      else
        match s.place asid l.off needRead with
        | (s, .at key) => s.modLane c op lane fun l => if l.early.any (·.1 == i) then l else { l with early := l.early ++ [(i, Mem.read s.mem (key + i), (s.writesSeen c).length)] }
        | _ => s
    | none => s
  | _, _ => s

/-! ## Writes and atomics -/

/-- R383: the access would meet a translation fault, or an empty milestone pool (R398). -/
def State.wouldFault (s : State) (asid va gen : Nat) (need : Need) : Bool :=
  match s.place asid va need with
  | (_, .fault _) => true
  | (s, .at k) => need.wr && (s.homeWrite asid va k [0] gen true).isNone
  | (_, .held) => false

/-- R383: no other open lane of the word stands in the log or would meet a fault, so that a refused word takes no effect in any lane. -/
def State.othersClear (s : State) (c : Nat) (o : MemOp) (lane : Nat) : Bool :=
  o.lanes.all fun k => k.lane == lane || !k.isOpen || k.space != .trans || (s.peerOf (s.asidOf c) k.off).isSome ||
    ((match k.stat with | .logged _ => false | _ => true) && !s.wouldFault (s.asidOf c) k.off o.gen o.aop.need)

/-- A lane of a write that can be performed now. -/
def State.readyLane (s : State) (c op lane : Nat) : Option (MemOp × LaneAcc) :=
  match s.wg? c, s.memOp? c op with
  | some w, some o =>
    match o.lane? lane with
    | some l =>
      let open? := match l.stat with | .waiting => true | .retry => true | _ => false
      if o.aop != .load && o.chan.isNone && open? && !laneBlocked w o l && (l.space == .trans || s.othersClear c o lane) then some (o, l) else none
    | none => none
  | _, _ => none

/-- R228, R230, R233: HOME_WRITE_ARRIVAL: private memory, the own scratchpad, or the home of a line that is reached without a walk. -/
def execHomeWriteArrival (core op lane : Nat) (s : State) : Host.Outcome State Fault Refusal :=
  match s.readyLane core op lane, s.wg? core with
  | some (o, l), some w =>
    match l.space with
    | .priv slot => .next (s.performPrivate core o l slot)
    | .scratch r => if r = w.rank then .next (s.performScratch core o l r) else .next s
    | .bank _ => .next (s.performBank core o l)
    | .trans => if !s.othersClear core o lane then .next s else if (s.peerOf (s.asidOf core) l.off).isSome || s.reach (s.asidOf core) l.off o.aop.need then .next (s.performHome core o l) else .next s
  | _, _ => .next s

/-- R246, R244, R247: PEER_SCRATCHPAD_WRITE. -/
def execPeerScratchpadWrite (core op lane : Nat) (s : State) : Host.Outcome State Fault Refusal :=
  match s.readyLane core op lane, s.wg? core with
  | some (o, l), some w =>
    match l.space with
    | .scratch r => if r = w.rank then .next s else .next (s.performScratch core o l r)
    | _ => .next s
  | _, _ => .next s

/-- R269: STORE_ACK: every lane of the write is closed, and its home has said so. A RED's flags reach the workgroup flag word (R233). -/
def execStoreAck (core op : Nat) (s : State) : Host.Outcome State Fault Refusal :=
  match s.memOp? core op with
  | none => .next s
  | some o =>
    if o.aop == .load || o.acked || o.chan.isSome || o.lanes.any (·.isOpen) then .next s
    else
      let atom := match o.aop with | .atom _ _ => true | _ => false
      let s := if atom then s else s.orWgFlags core (o.lanes.foldl (fun f l => f ||| l.flags) 0)
      let s := o.lanes.foldl (fun s l => if l.space == .trans then s.hearHome core l.off else s) s
      .next ((s.modOp core op fun q => { q with acked := true }).sweepOps core)

/-- R230, R232: ATOM_REPLY: every lane is closed: the old values are written; FP_TRAP may follow (R91). -/
def execAtomReply (core op : Nat) (s : State) : Host.Outcome State Fault Refusal :=
  match s.memOp? core op, s.wg? core with
  | some o, some w =>
    let atom := match o.aop with | .atom _ _ => true | _ => false
    if !atom || o.replied || o.chan.isSome || o.lanes.any (·.isOpen) then .next s
    else
      let s := o.lanes.foldl (fun s l => if l.space == .trans then s.hearHome core l.off else s) s
      let w := (s.wg? core).getD w
      let (w', es) := w.replyAtom (s.recOf core).tmask (s.core core).ck o
      let s := (s.modWg core fun _ => w').satisfy core o
      .next ((es.foldl (fun s e => s.raise core e (if e.kind = 2 then 0 else o.mask)) s).sweepOps core)
  | _, _ => .next s

/-! ## L2_MISS_TRANSLATE (R375, R382) -/

/-- R375 to R382: a lane that does not reach its line is translated beside the controller: a load's lane is then read, a fault goes into the operand log;
a write's lane finds its translation when it arrives. -/
def execL2MissTranslate (core op lane : Nat) (s : State) : Host.Outcome State Fault Refusal :=
  match s.wg? core, s.memOp? core op with
  | some w, some o =>
    match o.lane? lane with
    | none => .next s
    | some l =>
      let asid := s.asidOf core
      let open? := match l.stat with | .waiting => true | .retry => true | _ => false
      if !open? || o.chan.isSome || l.space != .trans || laneBlocked w o l || (s.peerOf asid l.off).isSome || s.reach asid l.off o.aop.need then .next s
      else if o.aop == .load then
        match s.readLane core o l true with
        | (s, .bytes bs) => .next ((s.hearHome core l.off).modLane core op lane fun l => { l with stat := .performed, old := bytesToNat bs })
        | (s, .fault k) => .next (s.logLane core o l k)
        | (_, .wait) => .next s
        | (s, .poison) => .next (s.machineCheck core cMemUncorrectable o.pc o.mask)
      else
        match s.place asid l.off o.aop.need with
        | (s, .fault k) => .next (s.logLane core o l k)
        | (s, .at _) => .next s
        | (_, .held) => .next s
  | _, _ => .next s

end Sys2Proof.Machine
end

