-- ==== Sys2Proof/Machine/FaultEvents.lean ====
section
/-! DEFINITION. Translation faults on their way to the host and back (R382 to R386, R454): FAULT_RECORD, FAULT_RING_ROOM, the two answers, and
FAULT_SWITCH_OUT. -/

namespace Sys2Proof.Machine

open Sys2Proof

/-! ## The fault ring (R383, R384) -/

/-- R384: the read index, in host memory. -/
def State.ringRead (s : State) (t : Tenant) : Nat := s.memNat (memKey 2 (t.cfg.ring + 8)) 8

/-- R384: the ring is full. -/
def State.ringFull (s : State) (t : Tenant) : Bool := (t.ringW + 2 ^ 64 - s.ringRead t) % 2 ^ 64 == t.cfg.ringCount

/-- R383: the 16 bytes of a record. -/
def FRec.bytes (r : FRec) (id : BitVec 16) : List Byte :=
  natToBytes 8 r.va ++ natToBytes 2 r.asid ++ natToBytes 2 (r.core % 512) ++ natToBytes 1 r.kind ++ natToBytes 1 r.cause ++ natToBytes 2 id.toNat

/-- R454: the next id that names no unanswered record; `fuel` bounds the skips. -/
def freeId (taken : List FRec) : Nat → BitVec 16 → BitVec 16
  | 0, i => i
  | fuel + 1, i => if taken.any fun r => r.id == some i then freeId taken fuel (i + 1) else i

/-- R384: the record, then the write index, then the interrupt. Records of kinds 0 to 5 take an id and await their answers (R454). -/
def State.writeFaultRec (s : State) (ti : Nat) (r : FRec) : State :=
  let t := s.tenant ti
  let err := r.kind == 0xFF
  let id := if err then r.id.getD 0 else freeId t.unanswered t.unanswered.length t.nextId
  let s := s.memWrite (memKey 2 (t.cfg.ring + 0x40 + 16 * (t.ringW % max t.cfg.ringCount 1))) (r.bytes id)
  let s := s.memWrite (memKey 2 t.cfg.ring) (natToBytes 8 (t.ringW + 1))
  (s.modTenant ti fun t =>
    { t with ringW := t.ringW + 1
             nextId := if err then t.nextId else id + 1
             unanswered := if err then t.unanswered else t.unanswered ++ [{ r with id := some id }] }).interrupt ti

/-- R383, R384: FAULT_RECORD: the oldest record on its way reaches the Depot, which writes it, or holds it behind a full ring. -/
def execFaultRecord (tenant : Nat) (s : State) : Host.Outcome State Fault Refusal :=
  match (s.tenant tenant).arriving with
  | [] => .next s
  | r :: rs =>
    let s := s.modTenant tenant fun t => { t with arriving := rs }
    let t := s.tenant tenant
    if !t.held.isEmpty || s.ringFull t then .next (s.modTenant tenant fun t => { t with held := t.held ++ [r] })
    else .next (s.writeFaultRec tenant r)

/-- R384: FAULT_RING_ROOM: the oldest record held is written once there is room. -/
def execFaultRingRoom (tenant : Nat) (s : State) : Host.Outcome State Fault Refusal :=
  let t := s.tenant tenant
  match t.held with
  | [] => .next s
  | r :: rs => if s.ringFull t then .next s else .next ((s.modTenant tenant fun t => { t with held := rs }).writeFaultRec tenant r)

/-! ## Answers (R383, R454) -/

/-- The lane stands in an entry of the log, for a fault at a page. -/
def LaneAcc.inEntry (l : LaneAcc) (es : List Nat) (page : Nat) : Bool := match l.stat with | .logged n => es.contains n && pageOf l.off == page | _ => false

/-- The cause of an entry's fault at a page that has no answer yet. -/
def LogEntry.causeAt (e : LogEntry) (page : Nat) : Option Nat := (e.faults.find? (·.1 == page)).map (·.2)

/-- The log entries of a page. -/
def Wg.pageEntries (w : Wg) (page : Nat) : List (Nat × LogEntry) := w.log.filter fun p => (p.2.causeAt page).isSome

/-- A log whose entries have an answer for a page: an entry leaves with the answer for its last page. -/
def answeredLog (log : SMap LogEntry) (page : Nat) : SMap LogEntry :=
  (log.map fun p => (p.1, { p.2 with faults := p.2.faults.filter (·.1 != page) })).filter fun p => !p.2.faults.isEmpty

/-- R383: Retry at a workgroup: the lanes that met the fault walk again, and what the page's entries held back goes on. -/
def Wg.retryPage (w : Wg) (page : Nat) : Wg :=
  let es := w.pageEntries page
  let ns := es.map (·.1)
  let lane (o : MemOp) (l : LaneAcc) : LaneAcc := if l.inEntry ns page then { l with stat := if o.chan.isSome then .channelled else .retry } else l
  let group (g : Group) : Group :=
    let mine := es.any fun p => p.2.op == g.uid
    if mine && g.wait == some .clauseFault then { g with wait := some .clauseMiss }
    else if mine then { g with monitor := g.monitor.map fun m => { m with fault := false } }
    else g
  { w with
    ops := w.ops.map fun o => { o with lanes := o.lanes.map (lane o) }
    groups := w.groups.map fun p => (p.1, group p.2)
    log := answeredLog w.log page }

/-- An access ends without effect: its destinations keep what they hold, its counter goes down. -/
def Wg.dropOp (w : Wg) (id : Nat) : Wg :=
  match w.op? id with
  | none => w
  | some o =>
    let w := { w with
      ops := w.ops.filter fun (q : MemOp) => q.id != id
      pend := w.pend.filter fun p => p.1 != id
      log := w.log.filter fun p => p.2.op != id
      replay := w.replay.filter (· != id) }
    w.modUid o.uid fun g =>
      { g with cts := if o.ct = 0 || o.replied then g.cts else SMap.set g.cts o.ct (g.ct o.ct - 1)
               holdOp := if g.holdOp == some id then none else g.holdOp }

/-- R383: Refuse at a workgroup: the exceptions of the page's log entries, and the workgroup without the accesses they belong to. -/
def Wg.refusePage (w : Wg) (page : Nat) : Wg × List Exc :=
  let es := w.pageEntries page
  let excs := es.map fun p => (⟨causeCode ((p.2.causeAt page).getD 0), 0, p.2.gslot, p.2.mask.toNat % 2 ^ 32, p.2.pc⟩ : Exc)
  let w := { w with log := w.log.filter fun p => (p.2.causeAt page).isNone }
  ((es.map fun p => p.2.op).foldl (fun w i => match w.op? i with
    | some o => if o.chan.isSome then
        { w with ops := w.ops.map fun (q : MemOp) => if q.id == i then
            { q with lanes := q.lanes.map fun l => if l.isOpen then { l with stat := .channelled } else l } else q
                 log := w.log.filter fun p => p.2.op != i }
      else w.dropOp i
    | none => w) w, excs)

/-- A channel operation or engine operation stands at the page, with its fault. -/
def ChanOp.atPage (o : ChanOp) (asid page : Nat) : Bool :=
  o.fault && o.asid == asid && decide (pageOf o.va ≤ page) && decide (page ≤ pageOf (o.va + max o.bytes 1 - 1))

/-- The workgroups that have log entries under a core's number: the one on the core, and those saved from it, by launch and number. -/
def State.faultOwners (s : State) (asid core : Nat) : List (Nat × Nat) :=
  (match s.wg? core with | some w => if s.asidOf core == asid then [(w.launch, w.wgno)] else [] | none => []) ++
    s.launches.flatMap fun l => if (s.tenant l.tenant).cfg.asid == asid then
      (l.saved.filter fun v => v.core == core).map fun v => (l.uid, v.wg.wgno) else []

/-- R454: the unanswered record of a tenant with an id, of those that await an answer. An id of more than 16 bits is no id. -/
def State.answered (s : State) (tenant id : Nat) : Option FRec :=
  if 2 ^ 16 ≤ id then none else (s.tenant tenant).unanswered.find? fun r => r.id == some (BitVec.ofNat 16 id)

def State.endRecord (s : State) (tenant : Nat) (r : FRec) : State :=
  s.modTenant tenant fun t => { t with unanswered := t.unanswered.filter fun q => q.uid != r.uid }

/-- The hub's own copies use this number for a core in their fault records (R407). -/
def hubCore : Nat := 512

/-- The fault of an engine operation, or of a hub copy of the tenant's queues, is answered. -/
def State.answerEngines (s : State) (tenant : Nat) (r : FRec) (refuse : Bool) : State :=
  let page := r.va / 2 ^ 16
  let code := causeCode r.cause
  if r.core = hubCore then
    { s with queues := s.queues.map fun p => if p.2.tenant != tenant then p else
        (p.1, { p.2 with pkts := p.2.pkts.map fun k => if k.fault == some page then
            { k with fault := none, refused := if refuse then k.refused.orElse fun _ => some code else k.refused } else k }) }
  else
    s.modCore r.core fun k => { k with
      eng := k.eng.map fun e => if e.fault == some page && s.asidOfLaunch e.launch == r.asid then
          { e with fault := none, refused := if refuse then e.refused.orElse fun _ => some code else e.refused, stopped := e.stopped || refuse } else e
      chanOps := k.chanOps.map fun o => if o.atPage r.asid page then { o with fault := false, dead := o.dead || refuse } else o }

/-- R383, R454: Retry. An answer to a record of a dump or a trace ends the record and resumes nothing. -/
def State.answerRetry (s : State) (tenant id : Nat) : State :=
  match s.answered tenant id with
  | none => s
  | some r =>
    let page := r.va / 2 ^ 16
    let s := s.endRecord tenant r
    if r.depot then s
    else
      let s := (s.faultOwners r.asid r.core).foldl (fun s p => s.modOwner p.1 p.2 (·.retryPage page)) s
      (s.answerEngines tenant r false).applyAll

/-- R383: FAULT_ANSWER_RETRY. -/
def execFaultAnswerRetry (tenant id : Nat) (s : State) : Host.Outcome State Fault Refusal := .next (s.answerRetry tenant id)

/-- A refused access of a channel whose workgroup is saved, or resumed elsewhere, has no log entry under the record's core: its exception. -/
def State.refuseAway (s : State) (r : FRec) : State :=
  let page := r.va / 2 ^ 16
  let logged (o : ChanOp) : Bool := match s.owner? o.launch o.wgno with
    | some w => w.log.any fun p => p.2.op == o.op && (p.2.causeAt page).isSome
    | none => true
  ((s.core r.core).chanOps.filter fun o => o.atPage r.asid page && decide (o.kind ≤ 3) && !logged o).foldl (fun s o =>
    match (s.owner? o.launch o.wgno).bind fun w => w.op? o.op with
    | some m => s.raiseOwner o.launch o.wgno ⟨causeCode r.cause, 0, m.gslot, m.mask % 2 ^ 32, m.pc⟩
    | none => s) s

/-- R383: the other lanes of a refused channelled word take no effect either. -/
def State.deadenWord (s : State) (r : FRec) : State :=
  let page := r.va / 2 ^ 16
  s.modCore r.core fun k =>
    let words := (k.chanOps.filter fun o => o.atPage r.asid page && decide (o.kind ≤ 3)).map (·.op)
    { k with chanOps := k.chanOps.map fun o => if decide (o.kind ≤ 3) && words.contains o.op then { o with fault := false, dead := true } else o }

/-- R383, R386, R454: Refuse: the causes' exceptions are raised at the workgroups, and the words take no effect; an engine operation ends with the status. -/
def State.answerRefuse (s : State) (tenant id : Nat) : State :=
  match s.answered tenant id with
  | none => s
  | some r =>
    let page := r.va / 2 ^ 16
    if r.depot then s.endRecord tenant r
    else
      let s := (s.endRecord tenant r).refuseAway r
      let s := (s.faultOwners r.asid r.core).foldl (fun s p =>
        match s.owner? p.1 p.2 with
        | none => s
        | some w =>
          let (w', es) := w.refusePage page
          es.foldl (fun s e => s.raiseOwner p.1 p.2 e) (s.modOwner p.1 p.2 fun _ => w')) s
      ((s.deadenWord r).answerEngines tenant r true).applyAll

/-- R383: FAULT_ANSWER_REFUSE. -/
def execFaultAnswerRefuse (tenant id : Nat) (s : State) : Host.Outcome State Fault Refusal := .next (s.answerRefuse tenant id)

/-! ## Switching a blocked workgroup out (R385) -/

/-- R385: the group waits on a fault: at its header or its monitor, behind the full log, or at a word or header that a logged access holds back. -/
def Wg.blockedOnFault (w : Wg) (g : Group) : Bool :=
  g.wait == some .clauseFault || (g.wait == some .logFull && decide (Config.logEntries ≤ w.log.length)) ||
    (match g.monitor with | some m => m.fault | none => false) ||
    ((w.ops.any fun o => o.uid == g.uid && o.logged) && (g.wait.isSome || !g.atWord))

/-- R385: another context is eligible for the core: a pending or pre-empted launch that needs it. -/
def State.otherContext (s : State) (core u : Nat) : Bool :=
  s.launches.any fun l => l.uid != u && ((l.stat == .pending && l.rcd.part.contains core) ||
    (l.stat == .saved && (l.rcd.reloc || l.saved.any fun v => v.core == core)))

/-- R385: FAULT_SWITCH_OUT: the core is told to save the workgroup. -/
def execFaultSwitchOut (core : Nat) (s : State) : Host.Outcome State Fault Refusal :=
  match s.wg? core with
  | none => .next s
  | some w =>
    if w.halt.isNone && !w.saving && !w.retired && !w.groups.isEmpty && w.groups.all (fun p => w.blockedOnFault p.2) && s.otherContext core w.launch then
      .next ((s.advanceTo core (w.lastIssue + 4096)).modWg core fun w => { w with saving := true, saveReason := 1 })
    else .next s

end Sys2Proof.Machine
end

