-- ==== Sys2Proof/Machine/Matrix.lean ====
section
/-! DEFINITION. The arithmetic of the matrix engine: `.bfp` blocks (R92 to R95), packed arrays (R94), the sum of a pass (R98, R99, R328 to R330), sparse
operands (R336 to R339), residues (R340), the exp2 unit (R332). -/

namespace Sys2Proof.Machine

open Sys2Proof

/-! ## Blocks -/

/-- A block: its exponent and its 16 mantissas. `none` is an element that a sparse operand has pruned: every product with it is exactly zero (R98). -/
structure Blk where
  e : Nat
  m : List (Option Int)
deriving DecidableEq, Repr

/-- R93: an element of a block as a value. -/
def bfpValue (e width : Nat) (m : Int) : FV :=
  if e = 0 then .fin false 0 0
  else if e = 255 then
    if m = -Int.ofNat (2 ^ (width - 1)) then .nan false
    else if m = Int.ofNat (2 ^ (width - 1)) - 1 then .inf false
    else if m = -(Int.ofNat (2 ^ (width - 1)) - 1) then .inf true
    else .fin false 0 0
  else .fin (decide (m < 0)) m.natAbs (Int.ofNat e - 127 - (Int.ofNat width - 1))

/-- floor(log2 |x|) of a finite value that is not zero. -/
def fvExp : FV → Option Int
  | .fin _ m e => if m = 0 then none else some (Int.ofNat (Nat.log2 m) + e)
  | _ => none

/-- R95: one mantissa: rounded to an integer, saturated; and whether rounding changed it. -/
def bfpMant (mode : Rnd) (width : Nat) (e : Int) (x : FV) : Int × Bool :=
  match x with
  | .fin n m g =>
    let k := g + Int.ofNat width - 1 - (e - 127)
    let (q, nx) := if 0 ≤ k then (m * 2 ^ k.toNat, false) else roundShift mode n m false (-k).toNat
    let v : Int := if n then -Int.ofNat q else Int.ofNat q
    (min (max v (-Int.ofNat (2 ^ (width - 1)))) (Int.ofNat (2 ^ (width - 1)) - 1), nx)
  | _ => (0, false)

/-- R95: 16 elements into a block. -/
def bfpBlock (mode : Rnd) (width : Nat) (xs : List FV) : Nat × List Int × Fl :=
  let hi : Int := Int.ofNat (2 ^ (width - 1)) - 1
  if xs.any fun x => x.isNan || x.isInf then
    (255, xs.map fun x => if x.isNan then -Int.ofNat (2 ^ (width - 1)) else if x.isInf then (if x.neg? then -hi else hi) else 0,
      { Fl.none with nv := xs.any (·.isSig) })
  else
    match (xs.filterMap fvExp).foldl (fun m v => some (match m with | some a => max a v | none => v)) (none : Option Int) with
    | none => (0, xs.map fun _ => 0, Fl.none)
    | some emax =>
      let e := max (min (emax + 128) 254) 1
      let ms := xs.map (bfpMant mode width e)
      let fl := { Fl.none with of := decide (254 < emax + 128), nx := ms.any (·.2) }
      if ms.all (·.1 == 0) then (0, ms.map (·.1), { fl with uf := true }) else (e.toNat, ms.map (·.1), fl)

/-! ## Packed arrays (R94) -/

/-- Bytes of a row or column of so many blocks. -/
def packedBytes (width blocks : Nat) : Nat := ceilDiv blocks 8 * (8 + 16 * width)

/-- A block of a packed row or column. -/
def packedBlock (bs : List Byte) (width b : Nat) : Nat × List Int :=
  let at? := b / 8 * (8 + 16 * width)
  let v := bytesToNat ((bs.drop (at? + 8 + 2 * width * (b % 8))).take (2 * width))
  ((bs.getD (at? + b % 8) 0).toNat, (List.range 16).map fun i => signed width (v / 2 ^ (i * width)))

/-- The bytes of a packed row or column of blocks. -/
def packBlocks (width : Nat) (bs : List (Nat × List Int)) : List Byte :=
  (List.range (ceilDiv bs.length 8)).flatMap fun g =>
    let grp := (List.range 8).map fun j => bs.getD (8 * g + j) (0, [])
    grp.map (fun (b : Nat × List Int) => BitVec.ofNat 8 b.1) ++ grp.flatMap fun (b : Nat × List Int) =>
      natToBytes (2 * width) ((List.range 16).foldl (fun v i => v + wrapInt width (b.2.getD i 0) * 2 ^ (i * width)) 0)

/-! ## Rows and columns of the engine -/

/-- Elements of a list from a place on replaced, the list first filled up with a default. -/
def setRun {α : Type} (l : List α) (n at? : Nat) (d : α) (vs : List α) : List α :=
  (List.range n).map fun i => if i < at? then l.getD i d else if i < at? + vs.length then vs.getD (i - at?) d else l.getD i d

def Mtx.accRow (x : Mtx) (i : Nat) : List Word32 := SMap.getD x.acc i []
def Mtx.accAt (x : Mtx) (i c : Nat) : Word32 := (x.accRow i).getD c 0
def Mtx.setAcc (x : Mtx) (i c : Nat) (vs : List Word32) : Mtx := { x with acc := SMap.set x.acc i (setRun (x.accRow i) 256 c 0 vs) }
def Mtx.m (x : Mtx) (i : Nat) : Word32 := SMap.getD x.sideM i 0xFF800000#32
def Mtx.l (x : Mtx) (i : Nat) : Word32 := SMap.getD x.sideL i 0

/-- R323: a row of the row buffer: its blocks, exponents 0 beyond them; mantissas beyond keep what they held. -/
def Mtx.setRow (x : Mtx) (i : Nat) (bs : List (Nat × List Int)) : Mtx :=
  { x with
    aMant := SMap.set x.aMant i (setRun (SMap.getD x.aMant i []) 1024 0 0 (bs.flatMap fun b => b.2.map (BitVec.ofInt 16)))
    aExp := SMap.set x.aExp i (setRun [] 64 0 0 (bs.map fun b => BitVec.ofNat 8 b.1)) }

/-- R322, R330: a column of the macros: its blocks, exponents 0 beyond them; a B of 16 bits is split across two columns. -/
def Mtx.setCells (x : Mtx) (c : Nat) (bs : List (Nat × List Int)) (part : Int → BitVec 8) : Mtx :=
  { x with
    cells := SMap.set x.cells c (setRun (SMap.getD x.cells c []) 512 0 0 (bs.flatMap fun b => b.2.map part))
    bExp := SMap.set x.bExp c (setRun [] 32 0 0 (bs.map fun b => BitVec.ofNat 8 b.1)) }

def Mtx.setCol (x : Mtx) (w mb j : Nat) (bs : List (Nat × List Int)) : Mtx :=
  if mb = 16 then (x.setCells (w + 2 * j) bs (BitVec.ofInt 8)).setCells (w + 2 * j + 1) bs fun m => BitVec.ofInt 8 (m / 256)
  else x.setCells (w + j) bs (BitVec.ofInt 8)

/-- Block b of row i. -/
def Mtx.aBlk (x : Mtx) (i b : Nat) : Blk :=
  ⟨((SMap.getD x.aExp i []).getD b 0).toNat, (List.range 16).map fun k => some ((SMap.getD x.aMant i []).getD (16 * b + k) 0).toInt⟩

/-- Physical block b of logical column j of the window at w (R330). -/
def Mtx.bBlk (x : Mtx) (w mb j b : Nat) : Blk :=
  let cell (c k : Nat) : BitVec 8 := (SMap.getD x.cells c []).getD (16 * b + k) 0
  if mb = 16 then
    ⟨((SMap.getD x.bExp (w + 2 * j) []).getD b 0).toNat,
      (List.range 16).map fun k => some (Int.ofNat (cell (w + 2 * j) k).toNat + 256 * (cell (w + 2 * j + 1) k).toInt)⟩
  else ⟨((SMap.getD x.bExp (w + j) []).getD b 0).toNat, (List.range 16).map fun k => some (cell (w + j) k).toInt⟩

/-! ## Sparse operands (R337 to R339) -/

/-- The nibble of group g of a column whose metadata starts at a byte. -/
def nibbleAt (bs : List Byte) (at? g : Nat) : Nat := (bs.getD (at? + g / 2) 0).toNat / 2 ^ (4 * (g % 2)) % 16

/-- R339: i0 < i1. -/
def nibbleOk (n : Nat) : Bool := n % 4 < n / 4

/-- R338: logical block b of a column from its physical block b / 2 and the nibbles of the block's four groups. -/
def expandBlk (p : Blk) (b : Nat) (nib : Nat → Nat) : Blk :=
  ⟨p.e, (List.range 16).map fun k =>
    let n := nib (4 * b + k / 4)
    let r := 8 * (b % 2) + 2 * (k / 4)
    if !nibbleOk n then none
    else if k % 4 = n % 4 then p.m.getD r none
    else if k % 4 = n / 4 then p.m.getD (r + 1) none
    else none⟩

/-! ## A pass (R98, R99, R328) -/

/-- R99: the term of a block pair with an exponent 255. -/
def specialTerm (a b : Blk) (ma mb : Nat) : FV × Bool :=
  let ps := (a.m.zip b.m).filterMap fun p =>
    match p with
    | (some x, some y) => some (bfpValue a.e ma x, bfpValue b.e mb y)
    | _ => none
  let prods := ps.map fun (p : FV × FV) => mulExact p.1 p.2
  let present := ps.any fun (p : FV × FV) => p.1.isNan || p.2.isNan
  let pinf := prods.any fun (p : FV × Bool) => p.1.isInf && !p.1.neg?
  let ninf := prods.any fun (p : FV × Bool) => p.1.isInf && p.1.neg?
  if prods.any (fun (p : FV × Bool) => p.1.isNan) || (pinf && ninf) then (.nan false, !present)
  else if pinf || ninf then (.inf ninf, false)
  else (.fin false 0 0, false)

/-- The block integer sum. -/
def blockSum (a b : List (Option Int)) : Int :=
  (a.zip b).foldl (fun v p => match p with | (some x, some y) => v + x * y | _ => v) 0

/-- R98: one block onto an accumulator element. -/
def addBlock (ma mb : Nat) (acc : Nat × Fl) (p : Blk × Blk) : Nat × Fl :=
  let (a, b) := p
  if a.e = 255 ∨ b.e = 255 then
    let (t, nv) := specialTerm a b ma mb
    let (v, f) := F32.add .rne (F32.decode acc.1) t
    (v, (acc.2.or f).or { Fl.none with nv := nv })
  else
    let d := if a.e = 0 ∨ b.e = 0 then 0 else blockSum a.m b.m
    let t := FV.fin (decide (d < 0)) d.natAbs (Int.ofNat a.e - 127 - (Int.ofNat ma - 1) + (Int.ofNat b.e - 127 - (Int.ofNat mb - 1)))
    let (v, f) := F32.add .rne (F32.decode acc.1) t
    (v, acc.2.or f)

/-- What a pass computes with: its rows, its window, widths, block count and metadata. -/
structure Pass where
  row : Nat
  rows : Nat
  w : Nat
  nl : Nat
  ma : Nat
  mb : Nat
  blocks : Nat
  z : Bool
  sparse : Bool
  nibbles : List Byte
deriving DecidableEq, Repr

/-- B of logical column j, block by block. -/
def Pass.bCol (p : Pass) (x : Mtx) (j : Nat) : List Blk :=
  (List.range p.blocks).map fun b =>
    if p.sparse then expandBlk (x.bBlk p.w p.mb j (b / 2)) b (nibbleAt p.nibbles (j * (2 * p.blocks))) else x.bBlk p.w p.mb j b

def Pass.aRow (p : Pass) (x : Mtx) (i : Nat) : List Blk := (List.range p.blocks).map (x.aBlk i)

/-- acc before the blocks of a row (R328). -/
def Pass.baseRow (p : Pass) (x : Mtx) (i : Nat) : List Word32 :=
  if p.z then (List.range 256).map fun c => if p.w ≤ c ∧ c < p.w + p.nl then 0 else x.accAt i c else setRun (x.accRow i) 256 0 0 []

def Pass.elem (p : Pass) (base : Word32) (a b : List Blk) : Nat × Fl := (a.zip b).foldl (addBlock p.ma p.mb) (base.toNat, Fl.none)

/-- The rows of a pass, one after another, with the flags. -/
def Pass.run (p : Pass) (x : Mtx) (cols : List (List Blk)) : Mtx × Fl :=
  (List.range p.rows).foldl (fun (acc : Mtx × Fl) r =>
    let i := p.row + r
    let a := p.aRow x i
    let base := p.baseRow x i
    let es := ((List.range p.nl).zip cols).map fun (jb : Nat × List Blk) => p.elem (base.getD (p.w + jb.1) 0) a jb.2
    ({ acc.1 with acc := SMap.set acc.1.acc i (setRun base 256 p.w 0 (es.map fun (e : Nat × Fl) => BitVec.ofNat 32 e.1)) },
      acc.2.or (Fl.all (es.map fun (e : Nat × Fl) => e.2)))) (x, Fl.none)

/-! ## Residues (R340) -/

def resP : Nat := 65521

/-- Effective mantissas. -/
def Blk.eff (b : Blk) : List Int := b.m.map fun v => if 1 ≤ b.e ∧ b.e ≤ 254 then v.getD 0 else 0

def dot (a b : List Int) : Int := (a.zip b).foldl (fun v p => v + p.1 * p.2) 0
def addLists (a b : List Int) : List Int := (a.zip b).map fun p => p.1 + p.2
def effRow (bs : List Blk) : List Int := bs.flatMap (·.eff)
def sumLists (n : Nat) (ls : List (List Int)) : List Int := ls.foldl addLists (List.replicate n 0)
def addRes (m : SMap Nat) (k : Nat) (v : Int) : SMap Nat := SMap.set m k ((Int.ofNat (SMap.getD m k 0) + v) % Int.ofNat resP).toNat

/-- The residues of a pass: the sums as the macros form them, and the sums of the operands. -/
def Pass.residues (p : Pass) (x : Mtx) (cols : List (List Blk)) : Mtx :=
  let n := 16 * p.blocks
  let as := (List.range p.rows).map fun r => effRow (p.aRow x (p.row + r))
  let bs := cols.map effRow
  let sb := sumLists n bs
  let sa := sumLists n as
  let rows := (List.range p.rows).zip as
  let cs := (List.range p.nl).zip bs
  { x with
    rp := rows.foldl (fun m (r : Nat × List Int) => addRes m (p.row + r.1) ((bs.map (dot r.2)).foldl (· + ·) 0)) x.rp
    rq := rows.foldl (fun m (r : Nat × List Int) => addRes m (p.row + r.1) (dot r.2 sb)) x.rq
    cp := cs.foldl (fun m (c : Nat × List Int) => addRes m (p.w + c.1) ((as.map (dot c.2)).foldl (· + ·) 0)) x.cp
    cq := cs.foldl (fun m (c : Nat × List Int) => addRes m (p.w + c.1) (dot sa c.2)) x.cq }

/-- R342: the rows and columns whose residues disagree. -/
def Mtx.mismatch (x : Mtx) : List Nat × List Nat :=
  ((List.range 128).filter fun i => SMap.getD x.rp i 0 != SMap.getD x.rq i 0,
   (List.range 256).filter fun c => SMap.getD x.cp c 0 != SMap.getD x.cq c 0)

/-! ## The exp2 unit (R332) -/

/-- R332: one of the two neighbours of 2^x where it is not representable; no flags. -/
def exp2Unit (w : Nat) : Nat :=
  let mode : Rnd := if Config.exp2Up (BitVec.ofNat 32 w) then .ru else .rd
  match F32.decode w with
  | .nan _ => F32.canon
  | .inf n => if n then 0 else F32.infBits false
  | .fin n m e =>
    if m = 0 then 0x3F800000
    else if 12 ≤ Int.ofNat (Nat.log2 m) + e then (if n then (F32.ofExact mode false 1 (-2000) false).1 else F32.infBits false)
    else if Int.ofNat (Nat.log2 m) + e < -64 then (F32.ofExact mode false (if n then 2 ^ 80 - 1 else 2 ^ 80) (-80) true).1
    else
      let (q, g, sticky) := exp2Exact n m e
      if 128 ≤ Int.ofNat (Nat.log2 q) + g then F32.infBits false else (F32.ofExact mode false q g sticky).1

/-! ## Compression (R336) -/

/-- A magnitude rank: a NaN above every number. -/
def magLt (a b : FV) : Bool :=
  match a, b with
  | .nan _, _ => false
  | _, .nan _ => true
  | .inf _, _ => false
  | .fin _ _ _, .inf _ => true
  | .fin _ m e, .fin _ n g => decide (signedAt false m e (min e g) < signedAt false n g (min e g))

/-- The index of the highest rank among the indices given; the lower index ranks higher among equals. -/
def topOf (xs : List FV) (is : List Nat) : Nat :=
  match minBy (fun a b => magLt (xs.getD b (.fin false 0 0)) (xs.getD a (.fin false 0 0))) is with
  | some i => i
  | none => 0

/-- The kept indices of a group of four. -/
def keepTwo (xs : List FV) : Nat × Nat :=
  let a := topOf xs [0, 1, 2, 3]
  let b := topOf xs ([0, 1, 2, 3].filter (· != a))
  (min a b, max a b)

/-- A dense column: kept values and nibbles. -/
def compress (xs : List FV) : Nat → List FV × List Nat
  | 0 => ([], [])
  | n + 1 =>
    let g := xs.take 4
    let (i, j) := keepTwo g
    let (vs, ns) := compress (xs.drop 4) n
    (g.getD i (.fin false 0 0) :: g.getD j (.fin false 0 0) :: vs, (i + 4 * j) :: ns)

/-- Nibbles as bytes, the even group low. -/
def nibbleBytes : List Nat → List Byte
  | a :: b :: ns => BitVec.ofNat 8 (a + 16 * b) :: nibbleBytes ns
  | [a] => [BitVec.ofNat 8 a]
  | [] => []

/-- Values 16 at a time into blocks. -/
def toBlocks (mode : Rnd) (width : Nat) (xs : List FV) : Nat → List (Nat × List Int) × Fl
  | 0 => ([], Fl.none)
  | n + 1 =>
    let (e, ms, f) := bfpBlock mode width (xs.take 16)
    let (bs, g) := toBlocks mode width (xs.drop 16) n
    ((e, ms) :: bs, f.or g)

/-- A run of `.f32` values in bytes. -/
def f32Run (bs : List Byte) (n : Nat) : List Word32 := (List.range n).map fun i => BitVec.ofNat 32 (bytesToNat ((bs.drop (4 * i)).take 4))

end Sys2Proof.Machine
end

