-- ==== Sys2Proof/Machine/MatrixWords.lean ====
section
/-! DEFINITION. The issue of matrix words (R315, R316, R318, R320 to R326, R328, R331 to R339, R344, R350): opcodes 0xC0 to 0xD6. What a word does
is performed by the engine, in `MatrixEngine`. -/

namespace Sys2Proof.Machine

open Sys2Proof

/-! ## The records as the words not yet performed will leave them (R316) -/

/-- The macro columns of a window. -/
def winCols (half : Bool) : Nat := if half then 128 else 256

/-- R322, R330: logical columns of a window for a B width. -/
def winLogical (half : Bool) (mb : Nat) : Nat := if mb = 16 then winCols half / 2 else winCols half

def recB (half : Bool) (col : BitVec 8) (x : BRec) (r : MRecs) : MRecs :=
  { r with b0 := if !half || col == 0 then some x else r.b0, b1 := if !half || col != 0 then some x else r.b1 }

def recRows (row n : Nat) (x : ARec) (r : MRecs) : MRecs :=
  { r with rows := (List.range n).foldl (fun m i => SMap.set m (row + i) x) r.rows }

/-- What a word does to the records (R322 to R326, R331). -/
def recEffect (l : LaunchRec) (i : Instr) (r : MRecs) : MRecs :=
  let arec (fa : BitVec 3) (kb : Nat) : ARec := ⟨fa.toNat, slotMa (l.slot fa.toNat), kb⟩
  match i with
  | .mldb _ half fb col kb _ => recB half col ⟨fb.toNat, kb.toNat + 1⟩ r
  | .mldbPe _ half fb col kb _ _ => recB half col ⟨fb.toNat, kb.toNat + 1⟩ r
  | .mlda _ fa row rows kb _ => recRows row.toNat (rows.toNat + 1) (arec fa (kb.toNat + 1)) r
  | .mldaG _ fa row rows kb _ => recRows row.toNat (rows.toNat + 1) (arec fa (kb.toNat + 1)) r
  | .mldaV _ fa row kb _ => recRows row.toNat 1 (arec fa (kb.toNat + 1)) r
  | .mmas _ fa row _ rows => recRows row.toNat (rows.toNat + 1) (arec fa 8) r
  | .mgang _ log => { r with gn := 2 ^ log.toNat }
  | _ => r

/-- R316: the issue-side copy. -/
def Mtx.issueRecs (x : Mtx) (l : LaunchRec) : MRecs := (x.running.toList ++ x.queue).foldl (fun r (w : MWord) => recEffect l w.instr r) x.recs

/-! ## Checks (R316, R320, R328, R350) -/

/-- What a word takes with it from its issue. -/
structure MIssue where
  sx : Nat := 0
  sy : Nat := 0
  vals : List Word32 := []
  /-- The bytes of scratchpad it will read: rank, offset, count (R317, R319). -/
  reads : Option (Nat × Nat × Nat) := none

/-- R350: the first exception that applies. -/
def checks (operand align addr : Bool) (m : MIssue) : Except Nat MIssue :=
  if operand then .error cIllegalOperand else if align then .error cAlignFault else if addr then .error cAddrFault else .ok m

def bfpSlot (r : LaunchRec) (n : BitVec 3) : Bool := slotFmt (r.slot n.toNat) == 8

/-- R323: blocks of a row. -/
def rowBlocksOk (r : LaunchRec) (fa : BitVec 3) (kb : Nat) : Bool := decide (kb ≤ min 64 (256 / slotMa (r.slot fa.toNat)))

/-- R328: the window record that a pass uses. -/
def MRecs.window (m : MRecs) (half : Bool) (col : BitVec 8) : Option BRec :=
  if half then (if col == 0 then m.b0 else m.b1) else if m.b0 == m.b1 then m.b0 else Option.none

def MRecs.rowsOk (m : MRecs) (row n fa : Nat) : Bool :=
  (List.range n).all fun i => match SMap.get? m.rows (row + i) with | some a => a.slot == fa | Option.none => false

/-- R328: the slots and records of a pass. -/
def passOk (r : LaunchRec) (m : MRecs) (half : Bool) (fa fb : BitVec 3) (row n : Nat) (col : BitVec 8) : Bool :=
  bfpSlot r fa && bfpSlot r fb && m.rowsOk row n fa.toNat && (match m.window half col with | some b => b.slot == fb.toNat | Option.none => false)

def MRecs.kbB (m : MRecs) (half : Bool) (col : BitVec 8) : Nat := match m.window half col with | some b => b.kb | Option.none => 0

/-- Bytes of an element of a slot's format. -/
def fmtBytes (f : Nat) : Nat := (fmtOfCode f).bits / 8

/-- R319: the writes of the workgroup to bytes of a rank's scratchpad that have issued and are not performed. -/
def Wg.openWrites (w : Wg) (rank off n : Nat) : List Nat :=
  (w.ops.filter fun o => o.aop != .load && o.lanes.any fun l =>
    l.isOpen && l.space == .scratch rank && decide (l.off < off + n) && decide (off < l.off + o.bytes)).map (·.id)

/-! ## The issue (R315, R318) -/

def State.modMtx (s : State) (c : Nat) (f : Mtx → Mtx) : State := s.modWg c fun w => { w with mtx := f w.mtx }

/-- A word as it enters the queue. -/
def newWord (s : State) (x : Ctx) (i : Instr) (m : MIssue) (drain : Option Nat) : MWord :=
  { id := s.nextId, instr := i, uid := x.grp.uid, gslot := x.g, hdr := x.grp.hdr, wix := x.grp.wix, pc := x.pc, ct := x.h.ct.toNat, sx := m.sx, sy := m.sy,
    drain := drain, slots := x.grp.slots, vals := m.vals, fromQ0 := false, bad := false, reads := m.reads, nibbles := none,
    before := match m.reads with | some (r, off, n) => x.wg.openWrites r off n | none => [] }

def State.pushWord (s : State) (c : Nat) (w : MWord) : State := (s.modMtx c fun k => { k with queue := k.queue ++ [w] }).fresh

/-- R315, R346: a word waits, or finds that the engine performs nothing more, or may be checked. -/
def matrixGate (x : Ctx) (s : State) (k : Unit → Res) : Res :=
  if x.lanes.length < x.r.w then .exc cIllegalConvergence 0
  else if !(x.grp.port 0).isEmpty then .wait .q0Drain
  else if x.wg.mtx.dead then .done (s.advance x)
  else if Config.matrixQueue ≤ x.wg.mtx.queue.length then .wait .mtxFull
  else k ()

/-- A matrix word whose operands are legal, checked, joins the queue; `writes` are the registers that the engine will write. -/
def matrixWord (s : State) (h : Head) (op : Nat) (i : Instr) (illegal : Ctx → Bool) (reads writes : Ctx → List Loc)
    (chk : Ctx → MRecs → State → Except Nat MIssue) : Host.Outcome State Fault Refusal :=
  word s h op none illegal reads writes fun x s =>
    matrixGate x s fun _ =>
      match chk x (x.wg.mtx.issueRecs x.r) s with
      | .error c => .exc c 0
      | .ok m =>
        let w := newWord s x i m none
        .done ((((s.advance x).incCt x).pushWord x.c w).modWg x.c fun g => { g with pend := g.pend ++ (writes x).map fun p => (w.id, p) })

/-- A scalar register's value as an offset. -/
def scaVal (x : Ctx) (f : BitVec 8) : Nat := (x.read (.sca x.grp.uid f.toNat)).toNat
def scaLocs (x : Ctx) (fs : List (BitVec 8)) : List Loc := fs.map fun f => .sca x.grp.uid f.toNat

/-- Element j of a run of registers of the group: its lane's thread slot and register (R324, R335). -/
def runLoc (x : Ctx) (v : BitVec 8) (k : Nat) : Loc := .vec (x.grp.slots.getD (k % x.r.w) 0) (v.toNat + k / x.r.w)
def runLocs (x : Ctx) (v : BitVec 8) (n : Nat) : List Loc := (List.range n).map (runLoc x v)
def runOk (x : Ctx) (v : BitVec 8) (n : Nat) : Bool := decide (v.toNat + ceilDiv n x.r.w ≤ x.r.v)

/-- A word that names only scratchpad offsets in sx. -/
def matrixSx (s : State) (h : Head) (op : Nat) (i : Instr) (sx : BitVec 8) (chk : Ctx → MRecs → State → Nat → Except Nat MIssue) :
    Host.Outcome State Fault Refusal :=
  matrixWord s h op i (fun _ => !scaOk sx 1) (fun x => scaLocs x [sx]) (fun _ => []) fun x m s => chk x m s (scaVal x sx)

/-- A word with no register operand. -/
def matrixPlain (s : State) (h : Head) (op : Nat) (i : Instr) (chk : Ctx → MRecs → Bool) : Host.Outcome State Fault Refusal :=
  matrixWord s h op i (fun _ => false) (fun _ => []) (fun _ => []) fun x m _ => if chk x m then .ok {} else .error cIllegalOperand

/-! ## The words -/

/-- R322. -/
def execMldb (h : Head) (half : Bool) (fb : BitVec 3) (col : BitVec 8) (kb : BitVec 5) (sx : BitVec 8) (s : State) : Host.Outcome State Fault Refusal :=
  matrixSx s h 0xC0 (.mldb h half fb col kb sx) sx fun x _ _ off =>
    let mb := slotMb (x.r.slot fb.toNat)
    let n := winLogical half mb * packedBytes mb (kb.toNat + 1)
    checks (!bfpSlot x.r fb) (off % 8 != 0) (decide (x.r.scratch < off + n)) { sx := off, reads := some (x.wg.rank, off, n) }

/-- R322. -/
def execMldbPe (h : Head) (half : Bool) (fb : BitVec 3) (col : BitVec 8) (kb : BitVec 5) (sx sy : BitVec 8) (s : State) :
    Host.Outcome State Fault Refusal :=
  matrixWord s h 0xC1 (.mldbPe h half fb col kb sx sy) (fun _ => !scaOk sx 1 || !scaOk sy 1) (fun x => scaLocs x [sx, sy]) (fun _ => []) fun x _ s =>
    let off := scaVal x sx
    let rank := scaVal x sy
    let mb := slotMb (x.r.slot fb.toNat)
    let n := winLogical half mb * packedBytes mb (kb.toNat + 1)
    checks (!bfpSlot x.r fb) (off % 8 != 0)
      (decide (x.r.gangSize ≤ rank) || s.rankAt x.wg.launch x.wg.gang rank == .gone || decide (x.r.scratch < off + n))
      { sx := off, sy := rank, reads := some (rank, off, n) }

/-- R323: the checks of MLDA and MLDA.g. -/
def mldaCheck (x : Ctx) (fa : BitVec 3) (rows : BitVec 7) (kb : BitVec 6) (off : Nat) : Except Nat MIssue :=
  let n := (rows.toNat + 1) * packedBytes (slotMa (x.r.slot fa.toNat)) (kb.toNat + 1)
  checks (!bfpSlot x.r fa || !rowBlocksOk x.r fa (kb.toNat + 1)) (off % 8 != 0) (decide (x.r.scratch < off + n))
    { sx := off, reads := some (x.wg.rank, off, n) }

def execMlda (h : Head) (fa : BitVec 3) (row rows : BitVec 7) (kb : BitVec 6) (sx : BitVec 8) (s : State) : Host.Outcome State Fault Refusal :=
  matrixSx s h 0xC2 (.mlda h fa row rows kb sx) sx fun x _ _ off => mldaCheck x fa rows kb off

/-- R324. -/
def execMldaV (h : Head) (fa : BitVec 3) (row : BitVec 7) (kb : BitVec 6) (sy : BitVec 8) (s : State) : Host.Outcome State Fault Refusal :=
  matrixWord s h 0xC3 (.mldaV h fa row kb sy) (fun x => !runOk x sy (16 * (kb.toNat + 1))) (fun x => runLocs x sy (16 * (kb.toNat + 1))) (fun _ => [])
    fun x _ _ =>
      checks (!bfpSlot x.r fa || !rowBlocksOk x.r fa (kb.toNat + 1)) false false { vals := (runLocs x sy (16 * (kb.toNat + 1))).map x.read }

/-- R325: the ranks of the M set of a rank. -/
def mSet (gn rank : Nat) : List Nat := (List.range gn).map fun i => rank / gn * gn + i

/-- R326, R418. -/
def execMldaG (h : Head) (fa : BitVec 3) (row rows : BitVec 7) (kb : BitVec 6) (sx : BitVec 8) (s : State) : Host.Outcome State Fault Refusal :=
  matrixSx s h 0xC4 (.mldaG h fa row rows kb sx) sx fun x m s off =>
    if (mSet m.gn x.wg.rank).any fun r => s.rankAt x.wg.launch x.wg.gang r == .gone then .error cIllegalConvergence
    else mldaCheck x fa rows kb off

/-- R327. -/
def execMzero (h : Head) (side half : Bool) (row : BitVec 7) (col : BitVec 8) (rows : BitVec 7) (s : State) : Host.Outcome State Fault Refusal :=
  matrixPlain s h 0xC5 (.mzero h side half row col rows) fun _ _ => true

/-- R328. -/
def execMma (h : Head) (half : Bool) (fa fb : BitVec 3) (row : BitVec 7) (col : BitVec 8) (rows : BitVec 7) (s : State) : Host.Outcome State Fault Refusal :=
  matrixPlain s h 0xC6 (.mma h half fa fb row col rows) fun x m => passOk x.r m half fa fb row.toNat (rows.toNat + 1) col

def execMmaZ (h : Head) (half : Bool) (fa fb : BitVec 3) (row : BitVec 7) (col : BitVec 8) (rows : BitVec 7) (s : State) : Host.Outcome State Fault Refusal :=
  matrixPlain s h 0xC7 (.mmaZ h half fa fb row col rows) fun x m => passOk x.r m half fa fb row.toNat (rows.toNat + 1) col

/-- R331: the P slot holds a width of at most 8. -/
def execMmas (h : Head) (fa : BitVec 3) (row : BitVec 7) (col : BitVec 8) (rows : BitVec 7) (s : State) : Host.Outcome State Fault Refusal :=
  matrixPlain s h 0xC8 (.mmas h fa row col rows) fun x _ => bfpSlot x.r fa && decide (slotMa (x.r.slot fa.toNat) ≤ 8)

/-- R333. -/
def execMscale (h : Head) (half : Bool) (row : BitVec 7) (col : BitVec 8) (rows : BitVec 7) (sx : BitVec 8) (s : State) : Host.Outcome State Fault Refusal :=
  matrixSx s h 0xC9 (.mscale h half row col rows sx) sx fun x _ _ off =>
    let n := 4 * (rows.toNat + 1)
    checks false (off % 4 != 0) (decide (x.r.scratch < off + n)) { sx := off, reads := some (x.wg.rank, off, n) }

def execMscaleL (h : Head) (half : Bool) (row : BitVec 7) (col : BitVec 8) (rows : BitVec 7) (s : State) : Host.Outcome State Fault Refusal :=
  matrixPlain s h 0xC9 (.mscaleL h half row col rows) fun _ _ => true

/-- R334. -/
def execMside (h : Head) (row rows : BitVec 7) (sx : BitVec 8) (s : State) : Host.Outcome State Fault Refusal :=
  matrixSx s h 0xCA (.mside h row rows sx) sx fun x _ _ off =>
    checks false (off % 8 != 0) (decide (x.r.scratch < off + 8 * (rows.toNat + 1))) { sx := off }

def execMsideQ (h : Head) (row rows : BitVec 7) (s : State) : Host.Outcome State Fault Refusal :=
  matrixPlain s h 0xCA (.msideQ h row rows) fun _ _ => true

def execMsideW (h : Head) (row rows : BitVec 7) (sx : BitVec 8) (s : State) : Host.Outcome State Fault Refusal :=
  matrixSx s h 0xD6 (.msideW h row rows sx) sx fun x _ _ off =>
    let n := 8 * (rows.toNat + 1)
    checks false (off % 8 != 0) (decide (x.r.scratch < off + n)) { sx := off, reads := some (x.wg.rank, off, n) }

/-- R335. -/
def execMrdV (h : Head) (half : Bool) (row : BitVec 7) (col : BitVec 8) (sy : BitVec 8) (s : State) : Host.Outcome State Fault Refusal :=
  matrixWord s h 0xCB (.mrdV h half row col sy) (fun x => !runOk x sy (winCols half)) (fun _ => []) (fun x => runLocs x sy (winCols half)) fun _ _ _ =>
    .ok { sy := sy.toNat }

def execMwrV (h : Head) (half : Bool) (row : BitVec 7) (col : BitVec 8) (sy : BitVec 8) (s : State) : Host.Outcome State Fault Refusal :=
  matrixWord s h 0xCD (.mwrV h half row col sy) (fun x => !runOk x sy (winCols half)) (fun x => runLocs x sy (winCols half)) (fun _ => []) fun x _ _ =>
    .ok { vals := (runLocs x sy (winCols half)).map x.read }

/-- R335: the checks of the two transfers with scratchpad. -/
def spCheck (x : Ctx) (half : Bool) (fa : BitVec 3) (rows : BitVec 7) (off : Nat) (read : Bool) : Except Nat MIssue :=
  let f := slotFmt (x.r.slot fa.toNat)
  let n := (rows.toNat + 1) * winCols half * fmtBytes f
  checks (decide (2 < f)) (off % fmtBytes f != 0) (decide (x.r.scratch < off + n)) { sx := off, reads := if read then some (x.wg.rank, off, n) else none }

def execMrdSp (h : Head) (half : Bool) (fa : BitVec 3) (row : BitVec 7) (col : BitVec 8) (rows : BitVec 7) (sx : BitVec 8) (s : State) :
    Host.Outcome State Fault Refusal :=
  matrixSx s h 0xCC (.mrdSp h half fa row col rows sx) sx fun x _ _ off => spCheck x half fa rows off false

def execMwrSp (h : Head) (half : Bool) (fa : BitVec 3) (row : BitVec 7) (col : BitVec 8) (rows : BitVec 7) (sx : BitVec 8) (s : State) :
    Host.Outcome State Fault Refusal :=
  matrixSx s h 0xCE (.mwrSp h half fa row col rows sx) sx fun x _ _ off => spCheck x half fa rows off true

/-- R336: bytes of the compressed columns, before the metadata. -/
def compBytes (mb kb n : Nat) : Nat := n * packedBytes mb (kb / 2)

/-- R336. -/
def execMcomp (h : Head) (fb : BitVec 3) (n : BitVec 8) (kb : BitVec 6) (sx sy : BitVec 8) (s : State) : Host.Outcome State Fault Refusal :=
  matrixWord s h 0xCF (.mcomp h fb n kb sx sy) (fun _ => !scaOk sx 1 || !scaOk sy 1) (fun x => scaLocs x [sx, sy]) (fun _ => []) fun x _ _ =>
    let k := kb.toNat + 1
    let cols := n.toNat + 1
    let src := scaVal x sx
    let dst := scaVal x sy
    checks (!bfpSlot x.r fb) (src % 4 != 0 || dst % 8 != 0)
      (decide (x.r.scratch < src + 64 * k * cols) || decide (x.r.scratch < dst + compBytes (slotMb (x.r.slot fb.toNat)) k cols + 2 * k * cols))
      { sx := src, sy := dst, reads := some (x.wg.rank, src, 64 * k * cols) }

/-- R337 to R339: the group waits at the word until its metadata has been validated. -/
def mspmaWord (s : State) (h : Head) (op : Nat) (i : Instr) (half : Bool) (fa fb : BitVec 3) (row : BitVec 7) (col : BitVec 8) (rows : BitVec 7)
    (sx : BitVec 8) : Host.Outcome State Fault Refusal :=
  word s h op none (fun _ => !scaOk sx 1) (fun x => scaLocs x [sx]) (fun _ => []) fun x s =>
    if x.grp.mspmaId.isSome then .wait .validate
    else
      matrixGate x s fun _ =>
        let m := x.wg.mtx.issueRecs x.r
        let off := scaVal x sx
        let n := winLogical half (slotMb (x.r.slot fb.toNat)) * (4 * m.kbB half col)
        match checks (!passOk x.r m half fa fb row.toNat (rows.toNat + 1) col) false (decide (x.r.scratch < off + n))
            { sx := off, reads := some (x.wg.rank, off, n) } with
        | .error c => .exc c 0
        | .ok q =>
          let w := newWord s x i q none
          .hold (((s.advanceTo x.c x.now).pushWord x.c w).modGroup x.c x.g fun g => { g with mspmaId := some w.id }) .validate

def execMspma (h : Head) (half : Bool) (fa fb : BitVec 3) (row : BitVec 7) (col : BitVec 8) (rows : BitVec 7) (sx : BitVec 8) (s : State) :
    Host.Outcome State Fault Refusal :=
  mspmaWord s h 0xD0 (.mspma h half fa fb row col rows sx) half fa fb row col rows sx

def execMspmaZ (h : Head) (half : Bool) (fa fb : BitVec 3) (row : BitVec 7) (col : BitVec 8) (rows : BitVec 7) (sx : BitVec 8) (s : State) :
    Host.Outcome State Fault Refusal :=
  mspmaWord s h 0xD1 (.mspmaZ h half fa fb row col rows sx) half fa fb row col rows sx

/-- R344: a tensor shape record. -/
def drainDescOf (bs : List Byte) (add : Bool) (fmt : Nat) : DrainDesc :=
  { base := u64At bs 0, rs := signed 64 (u64At bs 8).toNat, cs := s32At bs 0x10, x0 := s32At bs 0x18, y0 := s32At bs 0x1C, xlo := s32At bs 0x20,
    xhi := s32At bs 0x24, ylo := s32At bs 0x28, yhi := s32At bs 0x2C, resv := u32At bs 0x14 == 0 && u64At bs 0x30 == 0 && u64At bs 0x38 == 0,
    add := add, fmt := fmt, elems := none }

/-- R344, R345: the record is read, the handle is pending and the word is complete for its counter. -/
def mdrainWord (s : State) (h : Head) (op : Nat) (i : Instr) (add : Bool) (fa : BitVec 3) (sx sy : BitVec 8) : Host.Outcome State Fault Refusal :=
  word s h op none (fun x => !scaOk sx 1 || !handleFree x sy) (fun x => scaLocs x [sx]) (fun _ => []) fun x s =>
    matrixGate x s fun _ =>
      let off := scaVal x sx
      let f := slotFmt (x.r.slot fa.toNat)
      match checks (decide ((if add then 2 else 4) < f)) (off % 32 != 0) (decide (x.r.scratch < off + 64)) { sx := off } with
      | .error c => .exc c 0
      | .ok q =>
        if x.wg.writesOpen x.grp.slots off 64 then .wait .reply
        else
        let d := drainDescOf (s.scratchBytes x.c off 64) add f
        let refused := if s.isPoisoned (scratchKey x.c off) 64 then some cMemUncorrectable
          else if !d.resv || d.rs % Int.ofNat (fmtBytes f) != 0 || d.cs % Int.ofNat (fmtBytes f) != 0 then some cIllegalOperand
          else none
        let d := if refused.isSome then { d with xlo := 0, xhi := 0 } else d
        let e := newEng s x (some (handleNo sy)) (.mdrain d) refused
        let s := ((s.draw.advance x).addEng x.c e).setHandle x (handleNo sy) (if add then .mdrainAdd else .mdrain) e.id
        .done (s.pushWord x.c (newWord s x i q (some e.id)))

def execMdrain (h : Head) (half : Bool) (fa : BitVec 3) (row : BitVec 7) (col : BitVec 8) (rows : BitVec 7) (sx sy : BitVec 8) (s : State) :
    Host.Outcome State Fault Refusal :=
  mdrainWord s h 0xD2 (.mdrain h half fa row col rows sx sy) false fa sx sy

def execMdrainAdd (h : Head) (half : Bool) (fa : BitVec 3) (row : BitVec 7) (col : BitVec 8) (rows : BitVec 7) (sx sy : BitVec 8) (s : State) :
    Host.Outcome State Fault Refusal :=
  mdrainWord s h 0xD3 (.mdrainAdd h half fa row col rows sx sy) true fa sx sy

/-- R325. -/
def execMgang (h : Head) (log : BitVec 2) (s : State) : Host.Outcome State Fault Refusal :=
  matrixPlain s h 0xD4 (.mgang h log) fun x _ => decide (2 ^ log.toNat ≤ x.r.gangSize)

/-- R343. -/
def execMchk (h : Head) (s : State) : Host.Outcome State Fault Refusal := matrixPlain s h 0xD5 (.mchk h) fun _ _ => true

end Sys2Proof.Machine
end

