-- ==== Sys2Proof/Machine/MatrixEngine.lean ====
section
/-! DEFINITION. What the matrix engine performs (R317 to R349): the effect of each word, the comparison of a pass, permits of the Tollgate (R347, R456,
R457), commands through q0 (R346), the gang's A broadcast (R326) and the drains (R345): MATRIX_WORD_START, MATRIX_WORD_END, MLDA_G_TRANSFER,
MDRAIN_COMPLETE, MATRIX_Q0_COMMAND, Q0_COMMAND_ENQUEUE and TOLLGATE_WINDOW. -/

namespace Sys2Proof.Machine

open Sys2Proof

/-! ## The effect of a word on the engine -/

/-- What a word leaves: the engine, its flags, what it writes to scratchpad, to registers, to q1, and what a drain has read. -/
structure MOut where
  mtx : Mtx
  fl : Fl := Fl.none
  scr : List (Nat × List Byte) := []
  regs : List Word32 := []
  port : List Word32 := []
  elems : List (Nat × Nat × Nat) := []

/-- The pass of a word with records and launch (R328). -/
def passOf (l : LaunchRec) (m : MRecs) (q : MWord) : Option Pass :=
  let mk (half : Bool) (fa fb : BitVec 3) (row : BitVec 7) (col : BitVec 8) (rows : BitVec 7) (z sparse : Bool) : Pass :=
    let mb := slotMb (l.slot fb.toNat)
    { row := row.toNat, rows := rows.toNat + 1, w := col.toNat, nl := winLogical half mb, ma := slotMa (l.slot fa.toNat), mb := mb,
      blocks := (if sparse then 2 else 1) * m.kbB half col, z := z, sparse := sparse, nibbles := q.nibbles.getD [] }
  match q.instr with
  | .mma _ half fa fb row col rows => some (mk half fa fb row col rows false false)
  | .mmaZ _ half fa fb row col rows => some (mk half fa fb row col rows true false)
  | .mspma _ half fa fb row col rows _ => some (mk half fa fb row col rows false true)
  | .mspmaZ _ half fa fb row col rows _ => some (mk half fa fb row col rows true true)
  | _ => none

/-- R322. -/
def Mtx.loadB (x : Mtx) (mb w nl kb : Nat) (bs : List Byte) : Mtx :=
  (List.range nl).foldl (fun x j =>
    let col := (bs.drop (j * packedBytes mb kb)).take (packedBytes mb kb)
    x.setCol w mb j ((List.range kb).map (packedBlock col mb))) x

/-- R323. -/
def Mtx.loadA (x : Mtx) (ma row m kb : Nat) (bs : List Byte) : Mtx :=
  (List.range m).foldl (fun x r =>
    let one := (bs.drop (r * packedBytes ma kb)).take (packedBytes ma kb)
    x.setRow (row + r) ((List.range kb).map (packedBlock one ma))) x

/-- The columns of a row, each changed with its flags. -/
def Mtx.mapRow (x : Mtx) (i c n : Nat) (f : Word32 → Nat × Fl) : Mtx × Fl :=
  let vs := (List.range n).map fun j => f (x.accAt i (c + j))
  (x.setAcc i c (vs.map fun (v : Nat × Fl) => BitVec.ofNat 32 v.1), Fl.all (vs.map fun (v : Nat × Fl) => v.2))

/-- Rows one after another, with flags. -/
def Mtx.eachRow (x : Mtx) (row m : Nat) (f : Mtx → Nat → Mtx × Fl) : Mtx × Fl :=
  (List.range m).foldl (fun (a : Mtx × Fl) r => let (x, g) := f a.1 (row + r); (x, a.2.or g)) (x, Fl.none)

/-- R331: one row of MMAS. -/
def Mtx.softmaxRow (x : Mtx) (width : Nat) (rnd : Rnd) (col i : Nat) : Mtx × Fl :=
  let sc := (List.range 128).map fun j => (x.accAt i (col + j)).toNat
  let (mx, f1) : Nat × Fl := (sc.drop 1).foldl (fun (a : Nat × Fl) v => let (w, g) := F32.minMax true a.1 v; (w, a.2.or g)) (sc.headD 0, Fl.none)
  let mi := (x.m i).toNat
  let (mn, f2) := F32.minMax true mi mx
  let low := mn = 0xFF800000
  let minus (a : Nat) : Nat × Fl := F32.add .rne (F32.decode a) (F32.decode mn).negate
  let (scale, f3) : Nat × Fl := if low then (0x3F800000, Fl.none) else let (d, g) := minus mi; (exp2Unit d, g)
  let ps : List (Nat × Fl) := if low then sc.map fun _ => (0, Fl.none) else sc.map fun v => let (d, g) := minus v; (exp2Unit d, g)
  let (x, f4) := x.mapRow i (128 - col) 128 fun v => F32.mul .rne (F32.decode v.toNat) (F32.decode scale)
  let (blocks, f5) := toBlocks rnd width (ps.map fun (p : Nat × Fl) => F32.decode p.1) 8
  let (t0, f6) := F32.mul .rne (F32.decode (x.l i).toNat) (F32.decode scale)
  let dec := blocks.flatMap fun (b : Nat × List Int) => b.2.map (bfpValue b.1 width)
  let (t, f7) : Nat × Fl := dec.foldl (fun (a : Nat × Fl) v => let (w, g) := F32.add .rne (F32.decode a.1) v; (w, a.2.or g)) (t0, Fl.none)
  let x := x.setRow i blocks
  ({ x with sideM := SMap.set x.sideM i (BitVec.ofNat 32 mn), sideL := SMap.set x.sideL i (BitVec.ofNat 32 t) },
    Fl.all ([f1, f2, f3, f4, f5, f6, f7] ++ ps.map fun (p : Nat × Fl) => p.2))

/-- R334: m_i and l_i of the rows. -/
def Mtx.sides (x : Mtx) (row m : Nat) : List Word32 := (List.range m).flatMap fun r => [x.m (row + r), x.l (row + r)]

/-- R335: a row of the window as elements. -/
def Mtx.window (x : Mtx) (half : Bool) (row : Nat) (col : BitVec 8) : List Word32 := (List.range (winCols half)).map fun j => x.accAt row (col.toNat + j)

/-- R336. -/
def compOut (l : LaunchRec) (fb : BitVec 3) (kb n dst : Nat) (bs : List Byte) : List (Nat × List Byte) × Fl :=
  let mb := slotMb (l.slot fb.toNat)
  let cols := (List.range n).map fun c =>
    let (vs, ns) := compress ((f32Run ((bs.drop (64 * kb * c)).take (64 * kb)) (16 * kb)).map fun v => F32.decode v.toNat) (4 * kb)
    let (blocks, f) := toBlocks (slotRnd (l.slot fb.toNat)) mb vs (kb / 2)
    (packBlocks mb blocks, nibbleBytes ns, f)
  ([(dst, cols.flatMap fun c => c.1), (dst + compBytes mb kb n, cols.flatMap fun c => c.2.1)], Fl.all (cols.map fun c => c.2.2))

/-- R345: the elements in the clipping box, converted, with the flags of the conversions of MDRAIN. -/
def drainElems (x : Mtx) (d : DrainDesc) (rnd : Rnd) (saturate half : Bool) (row : Nat) (col : BitVec 8) (m : Nat) : List (Nat × Nat × Nat) × Fl :=
  let es := (List.range m).flatMap fun i => (List.range (winCols half)).filterMap fun j =>
    let tx := d.x0 + Int.ofNat j
    let ty := d.y0 + Int.ofNat i
    if d.xlo ≤ tx ∧ tx < d.xhi ∧ d.ylo ≤ ty ∧ ty < d.yhi then some (i, j, (x.accAt (row + i) (col.toNat + j)).toNat) else none
  if d.add then (es, Fl.none)
  else
    let rs := es.map fun e => (e.1, e.2.1, (fmtOfCode d.fmt).convert rnd saturate (F32.decode e.2.2))
    (rs.map fun r => (r.1, r.2.1, r.2.2.1), Fl.all (rs.map fun r => r.2.2.2))

/-- The effect of a word (R322 to R345) with the bytes of scratchpad it reads, and, of a drain, its record. -/
def mtxEffect (l : LaunchRec) (q : MWord) (x : Mtx) (bs : List Byte) (d : Option DrainDesc) : MOut :=
  let slotA (fa : BitVec 3) : Nat := slotMa (l.slot fa.toNat)
  let out (r : Mtx × Fl) : MOut := { mtx := r.1, fl := r.2 }
  let pass : MOut :=
    match passOf l x.recs q with
    | none => { mtx := x }
    | some p =>
      let cols := (List.range p.nl).map (p.bCol x)
      let base : SMap (List Word32) := (List.range p.rows).map fun r => (p.row + r, p.baseRow x (p.row + r))
      let (y, f) := p.run x cols
      let y := (p.residues y cols)
      let lenient := p.sparse && !((List.range p.nl).all fun j => (List.range (4 * p.blocks)).all fun g => nibbleOk (nibbleAt p.nibbles (j * (2 * p.blocks)) g))
      { mtx := { y with passOpen := some ⟨q, base, p.nibbles⟩ }, fl := { f with sm := lenient } }
  match q.instr with
  | .mldb _ half fb col kb _ => { mtx := x.loadB (slotMb (l.slot fb.toNat)) col.toNat (winLogical half (slotMb (l.slot fb.toNat))) (kb.toNat + 1) bs }
  | .mldbPe _ half fb col kb _ _ => { mtx := x.loadB (slotMb (l.slot fb.toNat)) col.toNat (winLogical half (slotMb (l.slot fb.toNat))) (kb.toNat + 1) bs }
  | .mlda _ fa row rows kb _ => { mtx := x.loadA (slotA fa) row.toNat (rows.toNat + 1) (kb.toNat + 1) bs }
  | .mldaG _ fa row rows kb _ => { mtx := x.loadA (slotA fa) row.toNat (rows.toNat + 1) (kb.toNat + 1) bs }
  | .mldaV _ fa row kb _ =>
    let (blocks, f) := toBlocks (slotRnd (l.slot fa.toNat)) (slotA fa) (q.vals.map fun v => F32.decode v.toNat) (kb.toNat + 1)
    { mtx := x.setRow row.toNat blocks, fl := f }
  | .mzero _ side half row col rows =>
    let (x, _) := x.eachRow row.toNat (rows.toNat + 1) fun x i => x.mapRow i col.toNat (winCols half) fun _ => (0, Fl.none)
    let rs := (List.range (rows.toNat + 1)).map (row.toNat + ·)
    { mtx := if side then { x with sideM := rs.foldl SMap.del x.sideM, sideL := rs.foldl SMap.del x.sideL } else x }
  | .mma _ _ _ _ _ _ _ => pass
  | .mmaZ _ _ _ _ _ _ _ => pass
  | .mspma _ _ _ _ _ _ _ _ => pass
  | .mspmaZ _ _ _ _ _ _ _ _ => pass
  | .mmas _ fa row col rows =>
    out (x.eachRow row.toNat (rows.toNat + 1) fun x i => x.softmaxRow (slotA fa) (slotRnd (l.slot fa.toNat)) col.toNat i)
  | .mscale _ half row col rows _ =>
    out (x.eachRow row.toNat (rows.toNat + 1) fun x i =>
      let f := bytesToNat ((bs.drop (4 * (i - row.toNat))).take 4)
      x.mapRow i col.toNat (winCols half) fun v => F32.mul .rne (F32.decode v.toNat) (F32.decode f))
  | .mscaleL _ half row col rows =>
    out (x.eachRow row.toNat (rows.toNat + 1) fun x i =>
      x.mapRow i col.toNat (winCols half) fun v => F32.div (F32.decode v.toNat) (F32.decode (x.l i).toNat))
  | .mside _ row rows _ => { mtx := x, scr := [(q.sx, (x.sides row.toNat (rows.toNat + 1)).flatMap fun v => natToBytes 4 v.toNat)] }
  | .msideQ _ row rows => { mtx := x, port := x.sides row.toNat (rows.toNat + 1) }
  | .msideW _ row rows _ =>
    let vs := f32Run bs (2 * (rows.toNat + 1))
    { mtx := (List.range (rows.toNat + 1)).foldl (fun x r =>
        { x with sideM := SMap.set x.sideM (row.toNat + r) (vs.getD (2 * r) 0), sideL := SMap.set x.sideL (row.toNat + r) (vs.getD (2 * r + 1) 0) }) x }
  | .mrdV _ half row col _ => { mtx := x, regs := x.window half row.toNat col }
  | .mwrV _ half row col _ => { mtx := x.setAcc row.toNat col.toNat (q.vals.take (winCols half)) }
  | .mrdSp _ half fa row col rows _ =>
    let es := (List.range (rows.toNat + 1)).flatMap fun r => (x.window half (row.toNat + r) col).map fun v =>
      (fmtOfCode (slotFmt (l.slot fa.toNat))).convert (slotRnd (l.slot fa.toNat)) (slotSaturate (l.slot fa.toNat)) (F32.decode v.toNat)
    { mtx := x, fl := Fl.all (es.map fun (e : Nat × Fl) => e.2),
      scr := [(q.sx, es.flatMap fun (e : Nat × Fl) => natToBytes (fmtBytes (slotFmt (l.slot fa.toNat))) e.1)] }
  | .mwrSp _ half fa row col rows _ =>
    let f := slotFmt (l.slot fa.toNat)
    let n := winCols half
    let one (k : Nat) : Nat × Fl := F32.convert .rne false ((fmtOfCode f).decode (bytesToNat ((bs.drop (k * fmtBytes f)).take (fmtBytes f))))
    out (x.eachRow row.toNat (rows.toNat + 1) fun x i =>
      let es := (List.range n).map fun j => one ((i - row.toNat) * n + j)
      (x.setAcc i col.toNat (es.map fun (e : Nat × Fl) => BitVec.ofNat 32 e.1), Fl.all (es.map fun (e : Nat × Fl) => e.2)))
  | .mcomp _ fb n kb _ _ =>
    let (scr, f) := compOut l fb (kb.toNat + 1) (n.toNat + 1) q.sy bs
    { mtx := x, fl := f, scr := scr }
  | .mdrain _ half fa row col rows _ _ =>
    match d with
    | none => { mtx := x }
    | some d =>
      let (es, f) := drainElems x d (slotRnd (l.slot fa.toNat)) (slotSaturate (l.slot fa.toNat)) half row.toNat col (rows.toNat + 1)
      { mtx := x, fl := f, elems := es }
  | .mdrainAdd _ half _ row col rows _ _ =>
    match d with
    | none => { mtx := x }
    | some d => { mtx := x, elems := (drainElems x d .rne false half row.toNat col (rows.toNat + 1)).1 }
  | _ => { mtx := x }

/-! ## Flags of matrix words (R91, R346) -/

/-- R91: the flags of a word that the engine has performed, and FP_TRAP: at the word for a group that still has its slot, else at the workgroup. -/
def State.matrixFlags (s : State) (c : Nat) (q : MWord) (f : Fl) : State :=
  match s.wg? c with
  | none => s
  | some w =>
    let trap := trapped f.word (s.recOf c).tmask
    match w.groupByUid q.uid with
    | some (g, _) =>
      let s := s.modGroup c g fun x => { x with flags := x.flags ||| f.word }
      if !trap then s
      else if q.fromQ0 then s.raise c ⟨cFpTrap, 2, 0, 0, 0⟩
      else s.raise c ⟨cFpTrap, 0, g, (2 ^ q.slots.length - 1) % 2 ^ 32, q.pc⟩
    | none =>
      let s := s.orWgFlags c f.word
      if trap then s.raise c ⟨cFpTrap, 2, 0, 0, 0⟩ else s

/-! ## The comparison (R341, R342) -/

/-- A 32-bit saturating count. -/
def satInc (v : Word32) : Word32 := if v = 0xFFFFFFFF then v else v + 1

/-- R342: the element of the open pass recomputed from its base. -/
def Mtx.recompute (x : Mtx) (l : LaunchRec) (o : OpenPass) (i c : Nat) : Nat × Fl :=
  match passOf l x.recs { o.word with nibbles := some o.nibbles } with
  | none => ((x.accAt i c).toNat, Fl.none)
  | some p => p.elem ((SMap.getD o.base i []).getD c 0) (p.aRow x i) (p.bCol x (c - p.w))

/-- R341, R342: the comparison of the open pass of a core's workgroup. -/
def State.comparePass (s : State) (c : Nat) : State :=
  match s.wg? c with
  | none => s
  | some w =>
    match w.mtx.passOpen with
    | none => s
    | some o =>
      let clear (x : Mtx) : Mtx := { x with passOpen := none, rp := [], rq := [], cp := [], cq := [] }
      match w.mtx.mismatch with
      | ([], []) => s.modMtx c clear
      | ([i], [k]) =>
        let (v, f) := w.mtx.recompute (s.recOf c) o i k
        let s := s.modMtx c fun x => (clear x).setAcc i k [BitVec.ofNat 32 v]
        let s := { s with corrected := SMap.set s.corrected c (satInc (SMap.getD s.corrected c 0)) }
        s.matrixFlags c o.word f
      | _ => (s.modMtx c fun x => { clear x with dead := true, queue := [], running := none }).machineCheck c cAbft

/-- R341: the words whose start does not close a pass. -/
def keepsPass : Instr → Bool
  | .mgang _ _ => true | .mside _ _ _ _ => true | .msideQ _ _ _ => true | .msideW _ _ _ _ => true | .mcomp _ _ _ _ _ _ => true
  | _ => false

/-! ## Permits (R347, R456, R457) -/

/-- R457: the effective budget of an island: halved at or above 95 degrees (0.125 degree units, R459). -/
def Island.effective (i : Island) : Nat := if 95 * 8 ≤ i.temp.toNat then i.budget.toNat / 2 else i.budget.toNat

/-- R347: the traffic of a pass in bytes. -/
def Pass.traffic (p : Pass) : Nat := p.rows * p.blocks * (2 * p.ma)

/-- R347: the word needs a permit. -/
def needsPermit (l : LaunchRec) (x : Mtx) (q : MWord) : Bool :=
  match passOf l x.recs q with
  | some p => decide (max 1 (ceilDiv x.burst 65536) < ceilDiv (x.burst + p.traffic) 65536)
  | none =>
    match q.instr with
    | .mldb _ _ _ _ _ _ => (match q.reads with | some r => decide (65536 < r.2.2) | none => false)
    | .mldbPe _ _ _ _ _ _ _ => (match q.reads with | some r => decide (65536 < r.2.2) | none => false)
    | _ => false

/-- R456: a request's place among those that wait: by its ck; those that have waited for a window before new ones of its first ck, in their order; of new ones of one ck, the
lowest core first. -/
def Ask.before (a b : Ask) : Bool := decide (a.ck < b.ck) || (a.ck == b.ck && (a.waited || (!b.waited && decide (a.core < b.core))))

/-- R456: the requests that are decided by a ck, in their order: with a permit left in its window one is granted 2 ck after it is made, else it asks again with the next
window. Gives the grants: core and ck. `fuel` bounds the decisions. -/
def Island.serve (i : Island) (ck : Nat) : Nat → Island × List (Nat × Nat)
  | 0 => (i, [])
  | fuel + 1 =>
    match i.waiters with
    | [] => (i, [])
    | a :: rest =>
      if ck < a.ck + 2 then (i, [])
      else
        let win := a.ck / 1024
        let got := if i.win < win then 0 else i.granted
        if got < i.effective then
          let r := Island.serve { i with waiters := rest, win := win, granted := got + 1 } ck fuel
          (r.1, (a.core, a.ck + 2) :: r.2)
        else
          let next := if i.effective = 0 then ck / 1024 + 1 else win + 1
          Island.serve { i with waiters := insertBy Ask.before ⟨1024 * next, true, a.core⟩ rest, win := win, granted := got } ck fuel

/-- R456: an island's time passes to a ck of its clock: its requests are served, and a core that is granted a permit has come to the ck of the grant. -/
def State.passIsland (s : State) (n ck : Nat) : State :=
  let i := s.island n
  let live := i.waiters.filter fun a => match s.wg? a.core with | some w => w.mtx.waitsPermit | none => false
  let i := { i with ck := max i.ck ck, waiters := live }
  let r := i.serve i.ck ((live.length + 1) * (live.length + 1))
  r.2.foldl (fun s g => (s.advanceTo g.1 (i.epoch + g.2)).modMtx g.1 fun x => { x with permit := true, waitsPermit := false }) (s.setIsland n r.1)

/-- R347, R456: a request to the island's Tollgate, in the ck in which the core stands, or in which the island does if that is later. -/
def State.askPermit (s : State) (c : Nat) : State :=
  let n := islandOf c
  let i := s.island n
  let t := max i.ck ((s.core c).ck - i.epoch)
  let s := (s.advanceTo c (i.epoch + t)).passIsland n t
  (s.modIsland n fun i => { i with waiters := insertBy Ask.before ⟨t, false, c⟩ i.waiters }).modMtx c fun x => { x with waitsPermit := true }

/-- R456: the decision on a core's request: the island's time passes to 2 ck behind it. -/
def State.awaitPermit (s : State) (c : Nat) : State :=
  match (s.island (islandOf c)).waiters.find? fun a => a.core == c with
  | some a => if a.waited then s else s.passIsland (islandOf c) (a.ck + 2)
  | none => s

/-- R456: TOLLGATE_WINDOW: the island's next window has begun, and its ck 2, in which the waiting requests are granted as far as the budget goes. -/
def execTollgateWindow (island : Nat) (s : State) : Host.Outcome State Fault Refusal :=
  let i := s.island island
  if i.cur = 4 then .next s else .next (s.passIsland island (1024 * (i.ck / 1024 + 1) + 2))

/-! ## MATRIX_WORD_START -/

/-- The word at the head leaves the queue unperformed. -/
def State.dropWord (s : State) (c : Nat) : State := s.modMtx c fun x => { x with queue := x.queue.drop 1, permit := false, waitsPermit := false }

/-- R346: a command that R316, R321 or R346 forbids when the engine reaches it. -/
def commandOk (l : LaunchRec) (m : MRecs) (q : MWord) : Bool :=
  !q.bad && match q.instr with
    | .mma _ half fa fb row col rows => passOk l m half fa fb row.toNat (rows.toNat + 1) col
    | .mmaZ _ half fa fb row col rows => passOk l m half fa fb row.toNat (rows.toNat + 1) col
    | _ => true

/-- R319: bytes of a source: those that a turn of its own has read, else as they stand now. -/
def MWord.taken (q : MWord) (bs : List Byte) : List Byte :=
  (List.range bs.length).map fun i => match q.early.find? (·.1 == i) with | some (_, b) => b | none => bs.getD i 0

/-- R339: the metadata is read and judged: under TRAP an illegal group ends the word precisely; else the group goes on. -/
def State.validate (s : State) (c : Nat) (w : Wg) (l : LaunchRec) (q : MWord) (fb : BitVec 3) : State × Bool :=
  match q.reads with
  | none => (s, true)
  | some (_, off, n) =>
    if s.isPoisoned (scratchKey c off) n then ((s.dropWord c).machineCheck c cMemUncorrectable q.pc (2 ^ q.slots.length - 1), false)
    else
      let bs := q.taken (s.scratchBytes c off n)
      let s := s.draw
      let good := (List.range (2 * n)).all fun g => nibbleOk (nibbleAt bs 0 g)
      if !good && !slotLenient (l.slot fb.toNat) then
        let s := (s.dropWord c).modWg c fun w => w.modUid q.uid fun g => { g with mspmaId := none }
        match w.groupByUid q.uid with
        | some (g, _) => (s.raise c ⟨cSparseMeta, 0, g, (2 ^ q.slots.length - 1) % 2 ^ 32, q.pc⟩, false)
        | none => (s, false)
      else
        let s := s.modMtx c fun x => { x with queue := match x.queue with | h :: t => { h with nibbles := some bs, early := [] } :: t | [] => [] }
        let ck := (s.core c).ck
        let s := s.modWg c fun w => w.modUid q.uid fun g =>
          let g := if q.ct = 0 then g else { g with cts := SMap.set g.cts q.ct (g.ct q.ct + 1) }
          { g.unblock ck with mspmaId := none }
        (s, true)

/-- R325, R326: the gang split by which the M set of a workgroup at MLDA.g forms: the largest among its own and those of the cores at MLDA.g whose own M set has its rank, so
that members with different splits meet and fail together (log entry 89). -/
def State.jointGn (s : State) (w : Wg) : Nat :=
  (mSet 4 w.rank).foldl (fun m r =>
    match (s.rankCore w.launch w.gang r).bind s.wg? with
    | some v => if v.mtx.gather && (mSet v.mtx.recs.gn r).contains w.rank then max m v.mtx.recs.gn else m
    | none => m) w.mtx.recs.gn

/-- The engine takes the word at the head: the comparison of an open pass first. An MLDA.g of a core that is its own M set is an MLDA (R326). -/
def State.beginWord (s : State) (c : Nat) (l : LaunchRec) (q : MWord) : State :=
  let s := if keepsPass q.instr then s else s.comparePass c
  s.modMtx c fun x =>
    if x.dead then x
    else
      { x with
        queue := x.queue.drop 1, running := some q, permit := false
        gather := (match q.instr with | .mldaG _ _ _ _ _ _ => decide (1 < x.recs.gn) | _ => false)
        burst := match passOf l x.recs q with | some p => x.burst + p.traffic | none => 0 }

/-- The word at the head may start: a permit is there or not needed. Else the engine asks for one, and then waits for it. -/
def State.permitThenBegin (s : State) (c : Nat) (l : LaunchRec) (q : MWord) (x : Mtx) : State :=
  if !needsPermit l x q || x.permit then s.beginWord c l q
  else if x.waitsPermit then
    let s := s.awaitPermit c
    if ((s.wg? c).any fun w => w.mtx.permit) then s.beginWord c l q else s
  else s.askPermit c

def execMatrixWordStart (core : Nat) (s : State) : Host.Outcome State Fault Refusal :=
  match s.wg? core with
  | none => .next s
  | some w =>
    let l := s.recOf core
    match w.mtx.queue with
    | [] => .next s
    | q :: _ =>
      if w.mtx.running.isSome || w.mtx.dead || !s.coreOn core || s.alive w.launch w.wgno q.before then .next s
      else if q.fromQ0 && !commandOk l w.mtx.recs q then .next ((s.dropWord core).raise core ⟨cIllegalOperand, 2, 0, 0, 0⟩)
      else
        let fb? : Option (BitVec 3) := match q.instr with | .mspma _ _ _ fb _ _ _ _ => some fb | .mspmaZ _ _ _ fb _ _ _ _ => some fb | _ => none
        match fb?, q.nibbles with
        | some fb, none =>
          match s.validate core w l q fb with
          | (s, false) => .next s
          | (s, true) =>
            match (s.wg? core).map (·.mtx) with
            | some x => (match x.queue with | q :: _ => .next (s.permitThenBegin core l q x) | [] => .next s)
            | none => .next s
        | _, _ =>
          let room := match q.instr with
            | .msideQ _ _ rows => (match w.anyByUid q.uid with | some g => decide ((g.port 1).length + 2 * (rows.toNat + 1) ≤ 4) | none => true)
            | _ => true
          if !room then .next s else .next (s.permitThenBegin core l q w.mtx)

/-! ## MATRIX_WORD_END -/

/-- R335: the places of the elements that MRD.v writes: a lane of the group as it issued, and a register of the run. -/
def MWord.dests (q : MWord) (width n : Nat) : List Loc := (List.range n).map fun j => .vec (q.slots.getD (j % width) 0) (q.sy + j / width)

/-- The outcome of a word reaches the workgroup. -/
def State.applyOut (s : State) (c : Nat) (l : LaunchRec) (q : MWord) (o : MOut) : State :=
  let s := s.modMtx c fun _ => { o.mtx with recs := recEffect l q.instr o.mtx.recs, running := none }
  let s := o.scr.foldl (fun s p => s.scratchPut c p.1 p.2) s
  let s := s.modWg c fun w => w.deliver (s.core c).ck q.id ((q.dests l.w o.regs.length).zip o.regs)
  let s := s.modWg c fun w => w.modUid q.uid fun g => if o.port.isEmpty then g else { g with ports := SMap.set g.ports 1 (g.port 1 ++ o.port) }
  let s := match q.drain with
    | some id => s.modEng id fun e => match e.kind with
      | .mdrain d => { e with kind := .mdrain { d with elems := some o.elems } }
      | _ => e
    | none => s.decCt c q.uid q.ct
  s.matrixFlags c q o.fl

def execMatrixWordEnd (core : Nat) (s : State) : Host.Outcome State Fault Refusal :=
  match s.wg? core with
  | none => .next s
  | some w =>
    match w.mtx.running with
    | none => .next s
    | some q =>
      let l := s.recOf core
      let moved := match q.instr with | .mldaG _ _ _ _ _ _ => decide (1 < w.mtx.recs.gn) | _ => false
      if w.mtx.gather then .next s
      else if moved then .next ((s.modMtx core fun x => { x with running := none }).decCt core q.uid q.ct)
      else
        let d := (q.drain.bind s.eng?).bind fun p => match p.2.kind with | .mdrain d => some d | _ => none
        match q.reads, q.nibbles with
        | some (rank, off, n), none =>
          match s.rankBytes w.launch w.gang rank off n with
          | .error (.status k) =>
            let s := s.modMtx core fun x => { x with running := none }
            if k = cMemUncorrectable then .next (s.machineCheck core k q.pc (2 ^ q.slots.length - 1)) else .next (s.raise core ⟨k, 0, q.gslot, 0, q.pc⟩)
          | .error _ => .next s
          | .ok bs => .next (s.draw.applyOut core l q (mtxEffect l q w.mtx (q.taken bs) d))
        | _, _ => .next (s.applyOut core l q (mtxEffect l q w.mtx [] d))

/-- R319: one byte of the scratchpad that the engine's word reads is read before the others: of the word it performs, or of a sparse word at the head of its queue. -/
def State.readMtxByte (s : State) (core i : Nat) : State :=
  match s.wg? core with
  | none => s
  | some w =>
    let ready (q : MWord) : Bool := q.nibbles.isNone && !s.alive w.launch w.wgno q.before && !q.early.any fun p => p.1 == i
    let read (q : MWord) : MWord :=
      if !ready q then q
      else match q.reads with
        | some (rank, off, n) =>
          if i < n then (match s.rankBytes w.launch w.gang rank (off + i) 1 with | .ok bs => { q with early := q.early ++ [(i, bs.headD 0)] } | .error _ => q) else q
        | none => q
    s.draw.modMtx core fun x => match x.running, x.queue with
      | some q, _ => { x with running := some (read q) }
      | none, q :: qs => { x with queue := read q :: qs }
      | none, [] => x

/-! ## MLDA_G_TRANSFER (R326) -/

/-- What the members of an M set must agree on. -/
def gFields (x : Mtx) : Option (BitVec 3 × BitVec 7 × BitVec 7 × BitVec 6 × Nat) :=
  match (x.running.map fun (q : MWord) => q.instr) with
  | some (.mldaG _ fa row rows kb _) => if x.gather then some (fa, row, rows, kb, x.recs.gn) else none
  | _ => none

def execMldaGTransfer (core : Nat) (s : State) : Host.Outcome State Fault Refusal :=
  match s.wg? core with
  | none => .next s
  | some w =>
    let cores := (mSet (s.jointGn w) w.rank).map (s.rankCore w.launch w.gang)
    let mtxOf (c : Nat) : Option Mtx := (s.wg? c).map (·.mtx)
    if (gFields w.mtx).isNone || !(cores.all fun c => ((c.bind mtxOf).bind gFields).isSome) then .next s
    else if s.jointGn w ≤ 1 then .next (s.modMtx core fun x => { x with gather := false })
    else
      let ms := cores.filterMap id
      let src := ms.headD core
      let want := (mtxOf src).bind gFields
      let each (s : State) (f : State → Nat → Mtx → MWord → State) : State :=
        ms.foldl (fun s c => match mtxOf c with
          | some x => (match x.running with | some q => f s c x q | none => s)
          | none => s) s
      if ms.any fun c => (mtxOf c).bind gFields != want then
        .next (each s fun s c _ q =>
          ((s.modMtx c fun x => { x with running := none, gather := false }).decCt c q.uid q.ct).raise c
            ⟨cIllegalConvergence, 0, q.gslot, (2 ^ q.slots.length - 1) % 2 ^ 32, q.pc⟩)
      else
        match ((mtxOf src).bind (·.running)).bind fun (q : MWord) => q.reads.map fun r => (q, r) with
        | none => .next s
        | some (q0, _, off, n) =>
          if s.isPoisoned (scratchKey src off) n then .next (s.machineCheck src cMemUncorrectable)
          else
            let bs := q0.taken (s.scratchBytes src off n)
            .next (each s.draw fun s c x q =>
              let l := s.recOf c
              let y := (mtxEffect l q x bs none).mtx
              s.modMtx c fun _ => { y with recs := recEffect l q.instr y.recs, gather := false })

/-! ## Commands through q0 (R346) -/

def execMatrixQ0Command (core grp : Nat) (cmd : BitVec 32) (s : State) : Host.Outcome State Fault Refusal :=
  match s.group? core grp with
  | some g => if (g.port 0).length < 4 then .next (s.pushPort core grp 0 cmd) else .next s
  | none => .next s

/-- The word of a command, and whether its bits are legal. -/
def q0Word (v : Nat) : Instr × Bool :=
  let h : Head := { stall := 0, ct := 0, pred := 7, neg := false }
  let half := bits v 29 29 == 1
  let fa := BitVec.ofNat 3 (bits v 28 26)
  let fb := BitVec.ofNat 3 (bits v 25 23)
  let row := BitVec.ofNat 7 (bits v 22 16)
  let rows := BitVec.ofNat 7 (bits v 15 9)
  let col := BitVec.ofNat 8 (128 * bits v 8 8)
  let ok := bits v 7 0 == 0 && (half || col == 0) && decide (row.toNat + rows.toNat + 1 ≤ 128)
  match bits v 31 30 with
  | 0 => (.mma h half fa fb row col rows, ok)
  | 1 => (.mmaZ h half fa fb row col rows, ok)
  | 2 => (.mzero h false half row col rows, ok && fa == 0 && fb == 0)
  | _ => (.mchk h, false)

def execQ0CommandEnqueue (core grp : Nat) (s : State) : Host.Outcome State Fault Refusal :=
  match s.wg? core, s.group? core grp with
  | some w, some g =>
    match g.port 0 with
    | [] => .next s
    | cmd :: _ =>
      if Config.matrixQueue ≤ w.mtx.queue.length then .next s
      else
        let (i, ok) := q0Word cmd.toNat
        let s := s.popPort core grp 0
        if w.mtx.dead then .next s
        else
          .next (s.pushWord core
            { id := s.nextId, instr := i, uid := g.uid, gslot := grp, hdr := g.hdr, wix := g.wix, pc := 0, ct := 0, sx := 0, sy := 0, drain := none,
              slots := g.slots, vals := [cmd], fromQ0 := true, bad := !ok, reads := none, before := [], nibbles := none })
  | _, _ => .next s

/-! ## MDRAIN_COMPLETE (R345) -/

/-- R105, R345: RED.fadd of an FP32 value into an element of the slot's format, at its home. -/
def State.reduceAt (s : State) (e : EngOp) (va fmt x : Nat) : State × Option EngStop :=
  let asid := s.asidOfLaunch e.launch
  let n := fmtBytes fmt
  let f := fmtOfCode fmt
  match s.peerOf asid va with
  | some d =>
    if s.cutOffPeers then (s, some .wait) else
    let old := bytesToNat ((List.range n).map fun i => Config.peerByte s.free (va + i))
    let (v, fl) := f.add .rne (f.decode old) (F32.decode x)
    (((s.emit (.peerWrite d va (natToBytes n v))).draw).modOwner e.launch e.wgno fun w => { w with flags := w.flags ||| fl.word }, none)
  | none =>
    match s.place asid va needRmw with
    | (s, .fault c) => (s, some (.fault va c))
    | (s, .held) => (s, some .wait)
    | (s, .at k) =>
      if s.isPoisoned k n then (s, some (.status cMemUncorrectable))
      else
        let (v, fl) := f.add .rne (f.decode (s.rmwRead asid va k n e.gen)) (F32.decode x)
        match s.homeWrite asid va k (natToBytes n v) e.gen false with
        | none => (s, some (.fault va 4))
        | some s => (s.modOwner e.launch e.wgno fun w => { w with flags := w.flags ||| fl.word }, none)

/-- R345: one element: its number, its row and column of the tile and its value. -/
def State.drainElem (s : State) (e : EngOp) (d : DrainDesc) (p : Nat × Nat × Nat × Nat) : State × Option EngStop :=
  let n := fmtBytes d.fmt
  let a := d.base + BitVec.ofInt 64 (Int.ofNat p.2.1 * d.rs + Int.ofNat p.2.2.1 * d.cs)
  if a.toNat % n != 0 then (s, some (.status cAlignFault))
  else if !vaOk a || isWindow a.toNat then (s, some (.status cAddrFault))
  else
    match (if d.add then (if s.chanOpen e a.toNat n then (s, some .wait) else (s.engHear e a.toNat).reduceAt e a.toNat d.fmt p.2.2.2)
      else s.engWrite e a (natToBytes n p.2.2.2)) with
    | (s, some k) => (s, some k)
    | (s, none) => (s.engDone e.id [p.1], none)

/-- R345: the elements that are left, one after another. -/
def State.runDrain (s : State) (e : EngOp) (d : DrainDesc) : List (Nat × Nat × Nat × Nat) → EngRun
  | [] => (s, none)
  | p :: ps =>
    match s.drainElem e d p with
    | (s, some k) => (s, some (k, true))
    | (s, none) => State.runDrain s e d ps

def execMdrainComplete (core op : Nat) (s : State) : Host.Outcome State Fault Refusal :=
  match (s.core core).eng.find? (·.id == op) with
  | some e =>
    match e.kind with
    | .mdrain d =>
      match d.elems with
      | none => .next s
      | some es =>
        if e.fault.isSome then .next s
        else
          match e.refused with
          | some code => .next (s.engComplete e code)
          | none =>
            if !s.engReady e then .next s
            else .next (State.engFinish core e (s.runDrain e d (e.left es)) fun s => s.engComplete e 0)
    | _ => .next s
  | none => .next s

/-- R345: one element in a turn of its own: the writes become visible in no fixed order. -/
def State.drainPut (s : State) (core op i : Nat) : State :=
  match s.elemOf core op i with
  | none => s
  | some e =>
    match e.kind with
    | .mdrain d =>
      (match (d.elems.getD [])[i]? with
      | none => s
      | some p =>
        match s.drainElem e d (i, p) with
        | (s, none) => s
        | (s, some (.status k)) => s.engError e.id k
        | (s, some (.fault va k)) => s.engFault core e va k true
        | (s, some .wait) => s)
    | _ => s

end Sys2Proof.Machine
end

