-- ==== Sys2Proof/Machine/Resample.lean ====
section
/-! DEFINITION. Weighted populations (R351 to R374): RESAMPLE.L and RESAMPLE.G (opcodes 0x7D, 0x7E), and the steps RESAMPLE_STEP_BEGIN,
RESAMPLE_STEP_END and RESAMPLE_STALL_TIMEOUT. -/

namespace Sys2Proof.Machine

open Sys2Proof

/-! ## Arrival (R352 to R357) -/

/-- The groups of a workgroup, in slots and parked. -/
def Wg.allGroups (w : Wg) : List Group := w.groups.map (·.2) ++ w.parked.map (·.group)

/-- R354: the gang holds an arrival at a form. -/
def State.gangArrived (s : State) (u gang : Nat) (gangForm : Bool) : Bool :=
  (s.wgsOf u).any fun w => w.gang == gang && w.allGroups.any fun g => match g.resN with | some a => a.gangForm == gangForm | none => false

/-- R357: steps of a form are in progress. -/
def Launch.stepping (l : Launch) (gangForm : Bool) : Bool := l.step.any fun p => p.gangForm == gangForm

/-- R353: the weight of a lane. -/
def weightOf (s : State) (x : Ctx) (a : Src) (slot : Nat) : Word32 := lo32 (srcVal s x .i32 slot a)

/-- A source of the weight: a register, a constant or a literal (R351). -/
def weightSrcOk (x : Ctx) (a : Src) : Bool := match a with | .vec r => vecOk x.r.v r 1 | a => plainSrcOk x a

def resampleWord (s : State) (op : Nat) (gangForm : Bool) (pz : BitVec 3) (a b : Src) (lit : Lit) : Host.Outcome State Fault Refusal :=
  word s { stall := 0, ct := 0, pred := 7, neg := false } op lit (fun x => !weightSrcOk x a || !plainSrcOk x b)
    (fun x => srcLocs x .i32 a ++ srcLocs x .i32 b) (fun _ => []) fun x s =>
    if x.grp.resN.isSome then .wait .resample
    else if x.grp.slots.any fun t => (mrRec (((SMap.get? x.wg.threads t).map (·.mr)).getD 0)).isSome then .exc cIllegalConvergence 0
    else if s.gangArrived x.wg.launch x.wg.gang (!gangForm) then .exc cIllegalConvergence 0
    else if (srcVal s x .i32 0 b).toNat % 2 ^ 32 = 0 then .exc cIllegalOperand 0
    else if x.l.stepping (!gangForm) then .wait .resample
    else
      releaseGate x s fun s =>
        let n := x.grp.next lit.isSome
        let s := s.advanceTo x.c x.now
        let s := s.modWg x.c fun w =>
          { (x.lanes.foldl (fun w l => w.modThread l.2 fun th => { th with weight := some (weightOf s x a l.2) }) w) with lastIssue := x.now }
        .hold ((s.modGroup x.c x.g fun g => { g with resN := some ⟨gangForm, lo32 (srcVal s x .i32 0 b), pz, n.pc, n.wix, false⟩ }).draw) .resample

def execResampleL (pz : BitVec 3) (a b : Src) (lit : Lit) (s : State) : Host.Outcome State Fault Refusal := resampleWord s 0x7D false pz a b lit

def execResampleG (pz : BitVec 3) (a b : Src) (lit : Lit) (s : State) : Host.Outcome State Fault Refusal := resampleWord s 0x7E true pz a b lit

/-! ## The population (R352, R359) -/

/-- A thread of the population: where it is, what it is, and the arrival of its group. -/
structure Member where
  core : Nat
  slot : Nat
  th : Thread
  arr : Option ResArr
deriving DecidableEq, Repr

/-- The arrival of the group that holds a thread slot. -/
def Wg.arrivalOf (w : Wg) (slot : Nat) : Option ResArr := (w.allGroups.find? fun g => g.slots.contains slot).bind (·.resN)

/-- The live threads of a workgroup. -/
def Wg.liveSlots (w : Wg) : List (Nat × Thread) := w.threads.filter fun p => p.2.live

/-- The cores of the population's scope. -/
def State.popCores (s : State) (u : Nat) (gangForm : Bool) (gang : Nat) : List Nat := if gangForm then s.gangCores u gang else s.coresOf u

/-- R359: the population, by thread id, then core, then slot. -/
def State.population (s : State) (u : Nat) (gangForm : Bool) (gang : Nat) : List Member :=
  let all := (s.popCores u gangForm gang).flatMap fun c => match s.wg? c with
    | some w => w.liveSlots.map fun p => (⟨c, p.1, p.2, w.arrivalOf p.1⟩ : Member)
    | none => []
  sortBy (fun (a b : Member) => decide (a.th.tid.toNat < b.th.tid.toNat) || (a.th.tid == b.th.tid && (decide (a.core < b.core) ||
    (a.core == b.core && decide (a.slot < b.slot))))) all

/-- R355: every workgroup of the scope that holds a thread of the population is resident. -/
def State.popResident (s : State) (u : Nat) (gangForm : Bool) (gang : Nat) : Bool :=
  match s.launch? u with
  | some l => l.saved.all fun v => (gangForm && v.wg.gang != gang) || v.wg.liveSlots.isEmpty
  | none => false

def arrivedAt (gangForm : Bool) (m : Member) : Bool := m.th.weight.isSome && (match m.arr with | some a => a.gangForm == gangForm | none => false)

/-- R359: the mix of the key. -/
def resampleRnd (k : Word64) (g : Word32) : Word32 :=
  let x : Word64 := k ^^^ (BitVec.ofNat 64 g.toNat * 0x9E3779B97F4A7C15)
  let x := (x ^^^ (x >>> 30)) * 0xBF58476D1CE4E5B9
  let x := (x ^^^ (x >>> 27)) * 0x94D049BB133111EB
  let x := x ^^^ (x >>> 31)
  BitVec.ofNat 32 (x.toNat / 2 ^ 32)

/-- R359: the number of positions below y. -/
def positionsBelow (n rnd t y : Nat) : Nat := min n (ceilDiv (y * n * 2 ^ 32 - rnd * t) (t * 2 ^ 32))

/-- R359: the offspring counts of weights in population order, from a prefix sum on. -/
def offspring (n rnd t : Nat) : Nat → List Nat → List Nat
  | _, [] => []
  | s, w :: ws => (positionsBelow n rnd t (s + w) - positionsBelow n rnd t s) :: offspring n rnd t (s + w) ws

/-- R367: the slots of a core that the step can use, for its threads at TAIL. -/
def Wg.tailSlots (w : Wg) : List Nat := (w.threads.filter fun p => !p.2.live).map (·.1)
def availableSlots (r : LaunchRec) (w : Wg) : List Nat := (List.range r.usable).filter fun t => !w.tailSlots.contains t

/-! ## RESAMPLE_STEP_BEGIN (R355, R358) -/

/-- R358: the arrivals of the groups of a core have been refused. -/
def Wg.refuseArrivals (w : Wg) : Wg :=
  let f (g : Group) : Group := { g with resN := g.resN.map fun a => { a with refused := true } }
  { w with groups := w.groups.map fun p => (p.1, f p.2), parked := w.parked.map fun p => { p with group := f p.group } }

/-- R358: an exception at each arrived group of the population, once. -/
def State.refuseStep (s : State) (cores : List Nat) (code : Nat) : State :=
  cores.foldl (fun s c => match s.wg? c with
    | none => s
    | some w =>
      let s := s.modWg c Wg.refuseArrivals
      let s := w.groups.foldl (fun s p => if p.2.resN.isSome then s.raise c ⟨code, 0, p.1, (2 ^ p.2.slots.length - 1) % 2 ^ 32, p.2.pc⟩ else s) s
      w.parked.foldl (fun s p => if p.group.resN.isSome then s.raise c ⟨code, 0, p.wasSlot, (2 ^ p.group.slots.length - 1) % 2 ^ 32, p.group.pc⟩ else s) s) s

def execResampleStepBegin (launch : Nat) (gangForm : Bool) (gang : Nat) (s : State) : Host.Outcome State Fault Refusal :=
  match s.launch? launch with
  | none => .next s
  | some l =>
    let pop := s.population launch gangForm gang
    if pop.isEmpty || !pop.all (arrivedAt gangForm) || pop.any (fun m => m.arr.any (·.refused)) || !s.popResident launch gangForm gang ||
        l.step.any (fun p => p.gangForm == gangForm && (!gangForm || p.gang == gang)) then .next s
    else
      let cores := dedup (pop.map fun (m : Member) => m.core)
      let ns := dedup (pop.filterMap fun (m : Member) => m.arr.map fun a => a.n.toNat)
      let cap := (cores.filterMap s.wg?).foldl (fun v w => v + (availableSlots l.rcd w).length) 0
      let n := ns.headD 0
      if 1 < ns.length then .next (s.refuseStep cores cResampleMismatch)
      else if cap < n then .next (s.refuseStep cores cResampleCapacity)
      else
        let ws := pop.map fun (m : Member) => (m.th.weight.getD 0).toNat
        let total := ws.foldl (· + ·) 0
        let zero := total = 0
        let ws := if zero then ws.map fun _ => 1 else ws
        let t := if zero then pop.length else total
        let g := (cores.filterMap s.wg?).foldl (fun v w => if v.toNat < w.gen.toNat then w.gen else v) (0 : Word32)
        let rnd := resampleRnd l.rcd.key g
        let cs := offspring n rnd.toNat t 0 ws
        let step : ResStep := ⟨gangForm, gang, total, rnd, zero, g, (pop.zip cs).map fun (p : Member × Nat) => (p.1.core, p.1.slot, p.2)⟩
        .next (s.modLaunch launch fun l => { l with step := l.step ++ [step] })

/-! ## RESAMPLE_STEP_END (R360 to R370) -/

/-- A thread of the new population: its parent and its copy number. -/
structure Child where
  core : Nat
  slot : Nat
  copy : Nat
  rank : Nat
deriving DecidableEq, Repr

/-- R360: the new population, in order. -/
def childrenOf : List (Nat × Nat × Nat) → Nat → List Child
  | [], _ => []
  | (c, t, n) :: ps, r => ((List.range n).map fun k => ⟨c, t, k, r + k⟩) ++ childrenOf ps (r + n)

/-- The image of a parent (R363). -/
structure Image where
  th : Thread
  arr : ResArr
  regs : List Word32
  priv : List Byte
deriving DecidableEq, Repr

def imageOf (r : LaunchRec) (w : Wg) (slot : Nat) : Option Image :=
  match SMap.get? w.threads slot, w.arrivalOf slot with
  | some th, some a => some ⟨th, a, (List.range r.v).map (w.vreg slot), Mem.readBytes w.priv (privKey slot 0) r.priv⟩
  | _, _ => none

/-- R196, R363: the arrivals of a new thread on core `dst` whose parent stands on core `src`: in the parent's phase where the two share the barrier, else in the current phase
of the barrier that counts the new thread. -/
def State.arrivalsAt (s : State) (u src dst : Nat) (arr : SMap Nat) : SMap Nat :=
  match s.wg? src, s.wg? dst, s.launch? u with
  | some v, some w, some l =>
    if src = dst then arr
    else arr.map fun a => (a.1, if a.1 < 5 then w.phase a.1 else if a.1 = 5 ∧ v.gang ≠ w.gang then l.plazaPhase w.gang else a.2)
  | _, _, _ => arr

/-- R361 to R363: a new thread with an image in a slot, ready for formation. -/
def Wg.place (w : Wg) (slot : Nat) (im : Image) (k : Child) (base : Nat) (zero : Bool) (ck first : Nat) (q5 : List Word32) : Wg :=
  let preds := if im.arr.pz = 7 then im.th.preds
    else (im.th.setPred im.arr.pz.toNat zero).preds
  let th : Thread := { im.th with
    tid := BitVec.ofNat 32 (base + k.rank), par := im.th.tid, copy := BitVec.ofNat 32 k.copy, mr := 0, preds := preds, stat := .ready,
    lease := if k.copy = 0 then im.th.lease else none, weight := none }
  let e : Spawn := { pc := im.arr.pc, pred := preds, mr := 0, stage := th.stage, held := false, aged := 0, written := ck, wix := im.arr.wix, first := some first, q5 := q5 }
  let w := { w with threads := SMap.set w.threads slot th, spawn := SMap.set w.spawn slot e }
  if k.copy = 0 then w
  else
    let w := (List.range im.regs.length).foldl (fun (w : Wg) i => w.setVreg slot i (im.regs.getD i 0)) w
    { w with priv := Mem.writeBytes w.priv (privKey slot 0) im.priv }

/-- R368: slots for the clones: on the parents' cores first, then in ascending core number. `free` lists each core's free slots. -/
def placeClones : List Child → SMap (List Nat) → List (Child × Option (Nat × Nat)) × SMap (List Nat)
  | [], free => ([], free)
  | k :: ks, free =>
    match SMap.getD free k.core [] with
    | t :: ts =>
      let (ps, free) := placeClones ks (SMap.set free k.core ts)
      ((k, some (k.core, t)) :: ps, free)
    | [] =>
      let (ps, free) := placeClones ks free
      ((k, none) :: ps, free)

def placeRest : List (Child × Option (Nat × Nat)) → List (Nat × Nat) → List (Child × Nat × Nat)
  | [], _ => []
  | (k, some p) :: ks, rest => (k, p) :: placeRest ks rest
  | (k, none) :: ks, p :: rest => (k, p) :: placeRest ks rest
  | (_, none) :: ks, [] => placeRest ks []

/-- R364: the groups of the population on a core end, in slots and parked. -/
def State.endArrived (s : State) (c : Nat) : State :=
  match s.wg? c with
  | none => s
  | some w =>
    let s := w.groups.foldl (fun s p => if p.2.resN.isSome then s.freeGroup c p.1 else s) s
    let gone := w.parked.filter fun p => p.group.resN.isSome
    let s := gone.foldl (fun s p => ((s.orWgFlags c p.group.flags).orphanHandles c p.group.uid).raiseStatuses c p.group) s
    s.modWg c fun w => { w with parked := w.parked.filter fun p => p.group.resN.isNone }

/-- R264: what a clone's program order has from its parent, still to be acknowledged: the parent's operations of channels, and those that it has from its own parent. -/
def State.legacy (s : State) (w : Wg) (parent clone : Nat) : List (Nat × Nat × Nat × Nat) :=
  let mine (o : ChanOp) : Bool := o.launch == w.launch && o.wgno == w.wgno && decide (o.kind ≤ 3) &&
    match w.op? o.op with | some m => m.sca || (m.lanes.any fun l => l.lane == o.lane && l.slot == parent) | none => false
  ((s.cores.flatMap fun p => p.2.chanOps.filter mine).map fun o => (o.id, clone, o.va, o.bytes)) ++
    (w.inherited.filter fun i => i.2.1 == parent).map fun i => (i.1, clone, i.2.2)

/-- R373, R425, R462: the registers or the private memory of a parent of clones hold an uncorrectable error. -/
def State.badImage (s : State) (r : LaunchRec) (counts : List (Nat × Nat × Nat)) : Option (Nat × Nat × Nat) :=
  counts.find? fun p => decide (1 < p.2.2) && (s.isPoisoned (privUnitKey p.1 p.2.1 0) r.priv || s.isPoisoned (vregUnitKey p.1 p.2.1 0) (4 * r.v))

/-- R425: an image written over the registers and the private memory of a slot leaves none of their units poisoned. -/
def State.cleanSlot (s : State) (r : LaunchRec) (c slot : Nat) : State :=
  { s with poisoned := s.poisoned.filter fun u =>
      !(coveredUnits (privUnitKey c slot 0) r.priv).contains u && !(coveredUnits (vregUnitKey c slot 0) (4 * r.v)).contains u }

/-- The PC at which the group of a thread slot stands. -/
def State.pcOfSlot (s : State) (c slot : Nat) : Word64 :=
  (((s.wg? c).bind fun w => w.allGroups.find? fun g => g.slots.contains slot).map (·.pc)).getD 0

/-- R360 to R363: the threads of the new population in their slots: each with its image, its arrivals, its part in the program order, and a clean private memory. -/
def State.placeOne (s : State) (u : Nat) (r : LaunchRec) (im : Image) (legacy : List (Nat × Nat × Nat × Nat)) (p : Child × Nat × Nat) (base : Nat) (zero : Bool) (first : Nat)
    (q5 : List Word32) : State :=
  let arr := s.arrivalsAt u p.1.core p.2.1 im.th.arr
  let s := s.modWg p.2.1 fun w =>
    let w := w.place p.2.2 { im with th := { im.th with arr := arr } } p.1 base zero (s.core p.2.1).ck first q5
    { w with inherited := w.inherited ++ if p.1.copy = 0 then [] else legacy }
  if p.1.copy = 0 then s else s.cleanSlot r p.2.1 p.2.2

/-- R360: the threads of a core that have no offspring end. -/
def State.endLight (s : State) (c : Nat) (counts : List (Nat × Nat × Nat)) : State :=
  match s.wg? c with
  | none => s
  | some w => (s.modWg c fun w => (counts.filter fun p => p.1 == c && p.2.2 == 0).foldl (fun w p => w.endThread p.2.1) w).emptied c w

/-- R363, R130: a write to a register of the population is outstanding. -/
def State.popBusy (s : State) (counts : List (Nat × Nat × Nat)) : Bool :=
  counts.any fun p => match s.wg? p.1 with | some w => w.slotBusy (s.core p.1).ck p.2.1 | none => false

/-- R362: the generation of every workgroup of the scope. -/
def State.setGen (s : State) (u : Nat) (gangForm : Bool) (gang : Nat) (g : Word32) : State :=
  let s := (s.popCores u gangForm gang).foldl (fun s c => s.modWg c fun w => { w with gen := g }) s
  s.modLaunch u fun l => { l with saved := l.saved.map fun v => if gangForm && v.wg.gang != gang then v else { v with wg := { v.wg with gen := g } } }

/-- R360 to R363: RESAMPLE_STEP_END. The ends and the arrivals of a step fall in one ck, and R196 and R360 give them no order: the model completes the phase of a barrier
that the ends leave without a thread before the clones count, and judges every other barrier once they have arrived (log entry 34). -/
def execResampleStepEnd (launch : Nat) (gangForm : Bool) (gang : Nat) (s : State) : Host.Outcome State Fault Refusal :=
  match s.launch? launch with
  | none => .next s
  | some l =>
    match l.step.find? fun p => p.gangForm == gangForm && (!gangForm || p.gang == gang) with
    | none => .next s
    | some st =>
      if s.popBusy st.counts then .next s
      else match s.badImage l.rcd st.counts with
      | some p => .next (s.machineCheck p.1 cMemUncorrectable (s.pcOfSlot p.1 p.2.1))
      | none =>
        let cores := dedup (st.counts.map (·.1))
        let gangNo := (((cores.filterMap s.wg?).head?).map (·.gangNo)).getD gang
        let base := if gangForm then gangNo * l.rcd.gangSize * 2048 else 0
        let images := st.counts.filterMap fun p => ((s.wg? p.1).bind fun w => imageOf l.rcd w p.2.1).map fun im => ((p.1, p.2.1), im)
        let image? (c t : Nat) : Option Image := (images.find? fun p => p.1 == (c, t)).map (·.2)
        let kids := childrenOf st.counts 0
        let stay := st.counts.filter fun p => p.2.2 != 0
        let free : SMap (List Nat) := (sortBy (fun (a b : Nat) => decide (a < b)) cores).map fun c => (c, match s.wg? c with
          | some w => (availableSlots l.rcd w).filter fun t => !stay.any fun p => p.1 == c && p.2.1 == t
          | none => [])
        let (placed, free) := placeClones (kids.filter fun k => k.copy != 0) free
        let rest := free.flatMap fun p => p.2.map fun t => (p.1, t)
        let places := (kids.filter fun k => k.copy = 0).map (fun k => (k, k.core, k.slot)) ++ placeRest placed rest
        let legacyOf (k : Child) (slot : Nat) : List (Nat × Nat × Nat × Nat) := match s.wg? k.core with | some w => s.legacy w k.slot slot | none => []
        let legacies := places.map fun p => legacyOf p.1 p.2.2
        let q5 : List Word32 := [BitVec.ofNat 32 st.total, BitVec.ofNat 32 (st.total / 2 ^ 32), st.rnd]
        let first := s.nextId
        let s := cores.foldl State.endArrived s
        let s := cores.foldl (fun s c => s.endLight c st.counts) s
        let s := (places.zip legacies).foldl (fun s p => match image? p.1.1.core p.1.1.slot with
          | some im => s.placeOne launch l.rcd im p.2 p.1 base st.zero first q5
          | none => s) s
        let s := (s.setGen launch gangForm gang (st.g + 1)).modLaunch launch fun l =>
          { l with step := l.step.filter (· != st), lStepDone := l.lStepDone || !gangForm }
        let s := cores.foldl (fun s c => s.acquireAt c (if gangForm then .gang else .dev)) s.fresh
        .next (cores.foldl (fun s c => (s.settle c).checkRetire c) s)

/-! ## RESAMPLE_STALL_TIMEOUT (R356) -/

def execResampleStallTimeout (core : Nat) (s : State) : Host.Outcome State Fault Refusal :=
  match s.wg? core with
  | none => .next s
  | some w =>
    let held (p : Nat × Thread) : Bool := p.2.stat == .held
    let waited := (s.wgsOf w.launch).any fun v => v.allGroups.any fun g => match g.resN with | some a => !a.gangForm || v.gang == w.gang | none => false
    if w.halt.isNone && !w.saving && !w.retired && waited && w.liveSlots.any held && w.liveSlots.all fun p => held p || p.2.weight.isSome then
      .next ((s.advanceTo core (w.lastIssue + 4096)).raise core ⟨cIllegalConvergence, 2, 0, 0, 0⟩)
    else .next s

end Sys2Proof.Machine
end

