-- ==== Sys2Proof/Machine/Image.lean ====
section
/-! DEFINITION. The layouts in which the state of a workgroup is written to memory: the dump header and sections (R430, R431), the arrays (R474), the small
state (R475), and the context image (R419). -/

namespace Sys2Proof.Machine

open Sys2Proof

/-! ## Blocks of bytes -/

/-- Bytes up to `size` from `at_` on: parts at rising offsets, zero between them. -/
def partsFrom (size at_ : Nat) : List (Nat × List Byte) → List Byte
  | [] => List.replicate (size - at_) 0
  | (o, bs) :: ps => List.replicate (o - at_) 0 ++ bs ++ partsFrom size (o + bs.length) ps

/-- A block of a size with parts at rising offsets. -/
def blockOf (size : Nat) (ps : List (Nat × List Byte)) : List Byte := (partsFrom size 0 ps).take size

/-- A list of bytes, cut or filled up with zeros to a length. -/
def fixed (n : Nat) (bs : List Byte) : List Byte := (bs ++ List.replicate (n - bs.length) 0).take n

def b1 (n : Nat) : List Byte := natToBytes 1 n
def b2 (n : Nat) : List Byte := natToBytes 2 n
def b4 (n : Nat) : List Byte := natToBytes 4 n
def b8 (n : Nat) : List Byte := natToBytes 8 n
def w4 (w : Word32) : List Byte := natToBytes 4 w.toNat
def w8 (w : Word64) : List Byte := natToBytes 8 w.toNat

/-! ## Barriers, meetings, arrivals (R431, R475) -/

/-- R194: arrivals, live count and phase of a barrier within the workgroup. -/
def Wg.barRec (w : Wg) (b : Nat) : List Byte :=
  let ts := w.counted b
  b4 (ts.countP fun t => SMap.get? t.arr b == some (w.phase b)) ++ b4 ts.length ++ b4 (w.phase b)

def Wg.barRecs (w : Wg) (plaza : List Byte) : List Byte := (List.range 5).flatMap w.barRec ++ plaza

/-- R194: the records of the gang and launch barriers: the threads of the whole gang and the whole launch, as the Plaza counts them. -/
def State.plazaRecs (s : State) (w : Wg) : List Byte :=
  [w.gang, 64].flatMap fun key =>
    let ts := s.plazaThreads w.launch key
    let ph := ((s.launch? w.launch).map (·.plazaPhase key)).getD 0
    b4 (ts.countP fun t => SMap.get? t.arr (plazaBar key) == some ph) ++ b4 ts.length ++ b4 ph

def Thread.arrBits (t : Thread) : Nat := (List.range 7).foldl (fun n b => if (SMap.get? t.arr b).isSome then n + 2 ^ b else n) 0
def Thread.arrPhases (t : Thread) : List Byte := (List.range 7).flatMap fun b => b4 (SMap.getD t.arr b 0)

/-- R64: the 32 meeting records. -/
def Wg.meetTable (w : Wg) : List Byte :=
  (List.range Config.meetRecords).flatMap fun i => match SMap.get? w.meet i with
    | some m => w8 m.label ++ b2 m.expected ++ b2 m.held ++ b1 (m.saved.toNat % 64) ++ b1 1 ++ b2 0
    | none => b8 0 ++ b8 0

/-- R353: the threads that have arrived at a RESAMPLE: slot, form, weight; and N. -/
def Wg.arrived (w : Wg) : List (Nat × Bool × Word32) :=
  w.liveSlots.filterMap fun p => match w.arrivalOf p.1, p.2.weight with
    | some a, some x => some (p.1, a.gangForm, x)
    | _, _ => none
def Wg.arrivedN (w : Wg) : Nat := ((w.liveSlots.filterMap fun p => w.arrivalOf p.1).map fun a => a.n.toNat).headD 0

/-! ## Where a thread is -/

/-- The group slot and lane of a thread in a resident group. -/
def Wg.seatOf (w : Wg) (slot : Nat) : Option (Nat × Group × Nat) :=
  (w.groups.find? fun p => p.2.slots.contains slot).map fun p => (p.1, p.2, p.2.slots.idxOf slot)

def Wg.parkedOf (w : Wg) (slot : Nat) : Option (Group × Nat) :=
  (w.parked.find? fun p => p.group.slots.contains slot).map fun p => (p.group, p.group.slots.idxOf slot)

/-- The PC of a thread's next word. -/
def Wg.pcOf (w : Wg) (slot : Nat) (t : Thread) : Word64 :=
  if t.stat == .stopped then t.stopPc
  else
    match SMap.get? w.spawn slot, w.seatOf slot, w.parkedOf slot with
    | some e, _, _ => e.pc
    | none, some q, _ => q.2.1.pc
    | none, none, some q => q.1.pc
    | none, none, none => 0

/-- R431: the status codes of a dump. -/
def TStat.dumpCode : TStat → Nat | .running => 0 | .ready => 1 | .held => 2 | .parked => 3 | .stopped => 4 | .atTail => 5
/-- R475: the states of a thread record; a thread that its own exception stopped counts with the running ones. -/
def TStat.imageCode : TStat → Nat | .running => 1 | .ready => 2 | .held => 3 | .parked => 4 | .stopped => 1 | .atTail => 5

/-! ## The small state (R475) -/

/-- R293: a session word. -/
def Session.word (x : Session) : Nat :=
  (match x.state with | .closed => 0 | .opened => 1 | .resync => 2 | .severed => 3) * 2 ^ 62 + x.dev % 2 ^ 16 * 2 ^ 46 + x.die % 4 * 2 ^ 44 +
    x.epoch % 8 * 2 ^ 41 + x.next % 2 ^ 16 * 2 ^ 16 + x.acked % 2 ^ 16

def HOp.code : HOp → Nat
  | .copy => 1 | .copyT => 2 | .hgather => 3 | .drain => 4 | .subscribe => 5 | .snap => 6 | .mdrain => 7 | .mdrainAdd => 8

/-- Four entries and a count. -/
def portBytes (n : Nat) (p : List Word32) : List Byte := fixed n (fixed 16 (p.flatMap w4) ++ b1 p.length)

def Group.handleBytes (g : Group) : List Byte :=
  (List.range 16).flatMap fun i => match SMap.get? g.handles i with
    | some h => b1 (if h.done then 2 else 1) ++ b1 h.op.code ++ b2 0 ++ w4 h.status
    | none => b8 0

/-- R475: a group slot record. -/
def Group.record (g : Group) : List Byte :=
  blockOf 1024
    [(0x000, (List.range 64).flatMap fun r => w4 (g.sreg r)), (0x100, g.handleBytes), (0x180, (List.range 6).flatMap fun n => portBytes 32 (g.port n)),
      (0x240, ((List.range 7).flatMap fun n => b1 (g.ct (n + 1))) ++ b1 1), (0x248, w4 g.flags ++ b4 g.slots.length), (0x250, w8 g.pc ++ b1 g.wix ++ b1 g.stage),
      (0x260, w4 (g.lease.getD 0) ++ b4 (if g.lease.isSome then 1 else 0)), (0x280, (List.range 64).flatMap fun i => b2 (g.slots.getD i 0xFFFF))]

/-- R475: a thread record. -/
def Thread.record (t : Thread) : List Byte :=
  w4 t.tid ++ w4 t.par ++ w4 t.root ++ w4 t.copy ++ w4 t.mr ++ b1 t.preds.toNat ++ b1 t.stage ++ b1 t.arrBits ++ b1 t.stat.imageCode ++
    w4 (t.lease.getD 0) ++ b4 (if t.lease.isSome then 1 else 0) ++ t.arrPhases ++ w4 (t.weight.getD 0)

/-- Values for the lanes of a mask, in a list over all 64 lanes. -/
def spread (n : Nat) (mask : Nat) : Nat → Nat → List Nat → List Byte
  | 0, _, _ => []
  | k + 1, lane, vs =>
    if mask / 2 ^ lane % 2 = 1 then natToBytes n (vs.headD 0) ++ spread n mask k (lane + 1) vs.tail else natToBytes n 0 ++ spread n mask k (lane + 1) vs

/-- R475: an operand-log entry. -/
def LogEntry.record (e : LogEntry) : List Byte :=
  blockOf 2048
    [(0x000, w8 e.word ++ w8 e.pc ++ w8 e.mask ++ b1 (if e.parkedWrite then 3 else 1) ++ b1 e.gslot),
      (0x040, spread 8 e.mask.toNat 64 0 (e.addrs.map (·.toNat)) ++ spread 16 e.mask.toNat 64 0 e.datas)]

def CBuf.record (b : CBuf) : List Byte :=
  fixed 48 (b4 b.off ++ b4 b.esize ++ b4 b.count ++ w4 b.putRes ++ w4 b.putDone ++ w4 b.getRes ++ w4 b.getDone ++ b2 b.pPutRes ++ b2 b.pPutDone ++
    b2 b.pGetRes ++ b2 b.pGetDone ++ b4 1)

def brecBytes (r : Option BRec) : List Byte := match r with | some r => b1 r.slot ++ b1 r.kb ++ b1 1 ++ b1 0 | none => b4 0

/-- R475: the side registers. -/
def Mtx.sideBytes (x : Mtx) : List Byte := (List.range 128).flatMap fun i => w4 (x.m i) ++ w4 (x.l i)

/-- R475: the workgroup block, with the chain masks in force (R293). -/
def Wg.block (w : Wg) (plaza : List Byte) (chains : List Chain) : List Byte :=
  let arr := w.arrived
  let mask (k : Nat) : BitVec 17 := chains.foldl (fun m c => if c.later == k then m ||| c.mask else m) 0
  blockOf 0x2000
    [(0x000, w4 w.flags ++ w4 w.gen), (0x008, b8 (w.groups.foldl (fun n p => n + 2 ^ p.1) 0)), (0x010, w.barRecs plaza),
      (0x080, b4 (if arr.isEmpty then 0 else w.arrivedN) ++ b4 arr.length ++ b1 (match arr with | (_, true, _) :: _ => 1 | _ => 0)), (0x100, w.meetTable),
      (0x300, (List.range 6).flatMap fun i => portBytes 24 (SMap.getD w.stageQ i [])),
      (0x400, (List.range 16).flatMap fun k => (List.range 4).flatMap fun n => b8 (w.session k n).word),
      (0x600, (List.range 16).flatMap fun k => b4 (mask k).toNat),
      (0x680, (List.range 8).flatMap fun n => match SMap.get? w.cbs n with | some b => b.record | none => List.replicate 48 0),
      (0x800, (List.range 16).flatMap fun n => match SMap.get? w.subs n with
        | some u => b8 u.va ++ b4 u.off ++ b2 (u.len / 128) ++ b1 1 ++ b1 0
        | none => b8 0 ++ b8 0),
      (0x900, brecBytes w.mtx.recs.b0 ++ brecBytes w.mtx.recs.b1 ++ b4 w.mtx.recs.gn),
      (0x910, (List.range 128).flatMap fun i => match SMap.get? w.mtx.recs.rows i with | some r => b1 r.slot ++ b1 r.ma ++ b1 r.kb ++ b1 1 | none => b4 0),
      (0xC00, w.mtx.sideBytes),
      (0x1000, let es := w.replay.flatMap fun id => (w.log.filter fun p => p.2.op == id && p.2.parkedWrite).map (·.1)
               b4 es.length ++ es.flatMap b1),
      (0x1100, (List.range 65).flatMap (fun i => b8 (SMap.getD w.hist i 0)) ++ (List.range 12).flatMap fun i => b8 (SMap.getD w.reasons i 0))]

/-- R475: the small state. -/
def Wg.smallState (w : Wg) (r : LaunchRec) (plaza : List Byte) (chains : List Chain) : List Byte :=
  w.block plaza chains ++ fixed 0x2000 ((List.range (r.scratch / 128)).flatMap fun n => b1 (w.writerOf (128 * n))) ++
    (List.range 64).flatMap (fun g => match SMap.get? w.groups g with | some x => x.record | none => List.replicate 1024 0) ++
    (List.range 2048).flatMap (fun t => match SMap.get? w.threads t with | some x => x.record | none => List.replicate 64 0) ++
    (List.range 64).flatMap fun e => match SMap.get? w.log e with | some x => x.record | none => List.replicate 2048 0

/-- The lowest thread slot of a group. -/
def Group.lowSlot (g : Group) : Nat := g.slots.foldl min 2048

/-- R62: the park record of a parked group, in the workgroup's park area. -/
def Wg.parkRecord (w : Wg) (p : Parked) : List Byte := (SMap.get? w.parkArea p.group.lowSlot).getD (List.replicate 512 0)

/-! ## The arrays (R474) -/

/-- R57: the age of an entry at a ck, before it saturates. -/
def Spawn.age (e : Spawn) (ck : Nat) : Nat := e.aged + (ck - e.written)

/-- R57: the 128 bits of a spawn entry at a ck. The field [31:28] has four bits for a position of up to 16: position 16, of a branch in word 15 that falls
through, keeps its low four bits, which are 0 (a choice of the model's: log entry 78). -/
def Spawn.entry (e : Spawn) (slot ck : Nat) : Nat :=
  slot * 2 ^ 117 + bits e.pc.toNat 56 3 * 2 ^ 63 + e.pred.toNat * 2 ^ 56 + e.mr.toNat * 2 ^ 50 + e.stage * 2 ^ 48 + (if e.held then 1 else 0) * 2 ^ 44 +
    min 4095 (e.age ck) * 2 ^ 32 + e.wix % 16 * 2 ^ 28

def Wg.spawnBytes (w : Wg) (r : LaunchRec) (ck : Nat) : List Byte :=
  (List.range r.usable).flatMap fun t => natToBytes 16 (match SMap.get? w.spawn t with | some e => e.entry t ck | none => 15 * 2 ^ 44)

/-- R474: a row of the row buffer; mantissas beyond the recorded blocks are zero. -/
def Mtx.rowBytes (x : Mtx) (i : Nat) : List Byte :=
  let man := SMap.getD x.aMant i []
  let mant : List Byte := match SMap.get? x.recs.rows i with
    | none => []
    | some r => (List.range r.kb).flatMap fun b =>
        natToBytes (2 * r.ma) ((List.range 16).foldl (fun v k => v + (man.getD (16 * b + k) 0).toNat % 2 ^ r.ma * 2 ^ (r.ma * k)) 0)
  fixed 512 mant ++ (List.range 64).flatMap fun b => b1 ((SMap.getD x.aExp i []).getD b 0).toNat

def Mtx.rowBuffer (x : Mtx) : List Byte := (List.range 128).flatMap x.rowBytes
def Mtx.accBytes (x : Mtx) : List Byte := (List.range 128).flatMap fun i => (List.range 256).flatMap fun c => w4 (x.accAt i c)
def Mtx.macroBytes (x : Mtx) : List Byte :=
  (List.range 256).flatMap (fun c => fixed 512 ((SMap.getD x.cells c []).map fun b => b)) ++
    (List.range 256).flatMap fun c => fixed 32 (SMap.getD x.bExp c [])

def Wg.vregBytes (w : Wg) (r : LaunchRec) : List Byte :=
  (List.range r.usable).flatMap fun t => (List.range r.v).flatMap fun v => w4 (w.vreg t v)

def Wg.scratchImage (w : Wg) (r : LaunchRec) : List Byte := Mem.readBytes w.scratch 0 r.scratch

def Wg.privBytes (w : Wg) (r : LaunchRec) : List Byte := (SMap.keys w.threads).flatMap fun t => Mem.readBytes w.priv (privKey t 0) r.priv

/-! ## The dump (R430, R431) -/

/-- R431: an exception. -/
def Exc.record (e : Exc) : List Byte := b1 e.code ++ b1 e.kind ++ b2 e.slot ++ b4 e.aux ++ w8 e.pc

/-- R431: the PC of the exception that stopped a thread: its own, or one of its group's. -/
def Wg.excPc (w : Wg) (slot : Nat) (t : Thread) : Option Word64 :=
  if t.stat == .stopped then some t.stopPc
  else
    match w.seatOf slot with
    | some q => (w.excs.find? fun e => e.kind == 0 && e.slot == q.1).map (·.pc)
    | none => Option.none

/-- R431: a thread. -/
def Wg.threadRecord (w : Wg) (slot : Nat) (t : Thread) : List Byte :=
  let seat := w.seatOf slot
  let lane := match seat, w.parkedOf slot with | some q, _ => q.2.2 | none, some q => q.2 | none, none => 0
  w4 t.tid ++ b2 slot ++ b1 ((seat.map (·.1)).getD 0xFF) ++ b1 (if (w.excPc slot t).isSome then 4 else t.stat.dumpCode) ++
    w8 ((w.excPc slot t).getD (w.pcOf slot t)) ++ w4 t.mr ++ b1 t.preds.toNat ++ b1 t.stage ++
    b1 lane ++ b1 0 ++ w4 t.par ++ w4 t.root

/-- R431: the barriers section: the records, the occupied slots, the meetings, the arrivals at a RESAMPLE. -/
def Wg.barrierSection (w : Wg) (plaza : List Byte) : List Byte :=
  let arr := w.arrived
  w.barRecs plaza ++ w.threads.flatMap (fun p => b1 p.2.arrBits ++ natToBytes 3 0 ++ p.2.arrPhases) ++
    w.meetTable ++ b4 arr.length ++ b4 (if arr.isEmpty then 0 else w.arrivedN) ++
    arr.flatMap fun a => b2 a.1 ++ b1 (if a.2.1 then 1 else 0) ++ b1 0 ++ w4 a.2.2

/-- R431: the exceptions and the threads. -/
def Wg.excSections (w : Wg) : List (List Byte) := [w.excs.flatMap Exc.record, w.threads.flatMap fun p => w.threadRecord p.1 p.2]

/-- R431: the eleven sections. -/
def Wg.sections (w : Wg) (r : LaunchRec) (ck : Nat) (plaza : List Byte) (chains : List Chain) : List (List Byte) :=
  w.excSections ++ [w.barrierSection plaza,
    w.smallState r plaza chains ++ (sortBy (fun (a b : Parked) => decide (a.group.lowSlot < b.group.lowSlot)) w.parked).flatMap w.parkRecord,
    w.spawnBytes r ck, w.vregBytes r, w.scratchImage r, w.mtx.accBytes ++ w.mtx.sideBytes, w.mtx.rowBuffer, w.mtx.macroBytes, w.privBytes r]

/-- Where the sections lie, each from a 4 KiB boundary on: offset, length and whether the section fits in the slot (R429). -/
def placeSections (size : Nat) : Nat → List Nat → List (Nat × Nat × Bool)
  | _, [] => []
  | at_, n :: ns => if at_ + n ≤ size then (at_, n, true) :: placeSections size ((at_ + n + 4095) / 4096 * 4096) ns else (0, n, false) :: placeSections size at_ ns

/-- R430: the state of a section. -/
def Halt.sectionState (h : Halt) (fits : Bool) (i : Nat) : Nat :=
  match h.place with
  | none => 0
  | some (n, _) => if i < n then (if fits then 1 else 3) else if i = n && h.stopped then 2 else 0

/-- R430: the header. -/
def dumpHeader (l : Launch) (w : Wg) (size code : Nat) (h : Halt) : List Byte :=
  let secs := placeSections size 4096 (h.image.map fun p => p.2.length)
  let stop := match h.place with | some (n, o) => if h.stopped && decide (n < 11) then (n, o) else (0xFF, 0) | none => (0xFF, 0)
  blockOf 4096
    [(0x00, b4 0x4F4E4455 ++ b2 h.reason ++ b2 h.nested ++ w8 l.lid ++ b4 w.wgno ++ b2 h.core ++ b1 w.rank ++ b1 0 ++ b4 code ++ b4 w.excs.length ++
        b4 h.ms ++ w4 w.gen ++ b4 (w.phase 0) ++ b1 stop.1 ++ natToBytes 3 0 ++ b8 stop.2 ++ b8 h.fva ++ b4 (h.dseq.getD 0)),
      (0x80, ((List.range secs.length).zip secs).flatMap fun p =>
        b4 p.2.1 ++ b4 p.2.2.1 ++ b1 (h.sectionState p.2.2.2 p.1) ++ natToBytes 7 0)]

/-! ## The context image (R419) -/

/-- R419: the sections of a context image after its header, at their offsets. -/
def Saved.imageSections (v : Saved) (r : LaunchRec) (ck : Nat) (plaza : List Byte) (chains : List Chain) : List (Nat × List Byte) :=
  [(0x1000, v.wg.smallState r plaza chains), (0x55000, v.wg.spawnBytes r ck), (0x5D000, v.wg.mtx.rowBuffer), (0x6F000, v.wg.mtx.accBytes),
    (0x8F000, v.wg.mtx.macroBytes), (0xB1000, v.wg.vregBytes r), (0x131000, v.wg.scratchImage r)]

/-- R419: the header of a context image. The manual gives its fields no offsets: they follow each other here, each aligned to its size, and the checksum is a free value
(log entry 27). -/
def Saved.imageHeader (v : Saved) (lid : Word64) (sections : List (Nat × List Byte)) : List Byte :=
  let fields := b4 0x4F4E4358 ++ b4 0 ++ w8 lid ++ b4 v.wg.wgno ++ b2 v.core ++ b2 v.wg.rank ++ b4 v.ms ++ b4 v.reason
  fixed 4096 (fields ++ w4 (Config.checksum (fields ++ sections.flatMap (·.2))))

/-- R419: a context image: its header and its sections, at their offsets. The saved workgroup itself stands in `Saved`, and the image of it lies in the pinned memory of
the launch (R411). -/
def Saved.contextImage (v : Saved) (lid : Word64) (r : LaunchRec) (ck : Nat) (plaza : List Byte) (chains : List Chain) : List (Nat × List Byte) :=
  let ss := v.imageSections r ck plaza chains
  (0, v.imageHeader lid ss) :: ss

/-- R411, R419, R62: the bytes of a context image and of a park area: a 512-byte record for each thread slot that can be the lowest of a parked group. -/
def imageSize : Nat := 0x131000 + 2 ^ 20
def parkAreaSize : Nat := 512 * Config.threadSlots

/-- R419: a byte of the image of a saved workgroup. -/
def State.imageByte (s : State) (l : Launch) (v : Saved) (o : Nat) : Option Byte :=
  ((v.contextImage l.lid l.rcd (s.core v.core).ck (s.plazaRecs v.wg) v.wg.chains).find? fun p => decide (p.1 ≤ o) && decide (o < p.1 + p.2.length)).map fun p => p.2.getD (o - p.1) 0

/-- R411: the pinned memory of one workgroup of a launch. -/
def LaunchRec.pinBytes (r : LaunchRec) : Nat := imageSize + parkAreaSize + r.priv * r.usable + Config.spillBytes

end Sys2Proof.Machine
end

