-- ==== Sys2Proof/Machine/Queue.lean ====
section
/-! DEFINITION. Queues (R401 to R407): the packet that a queue stands at, its fields, halting, starting and completing; token slots. -/

namespace Sys2Proof.Machine

open Sys2Proof

/-! ## Packets (R404, R406) -/

/-- The word of a packet at byte 8 i. -/
def Pkt.word (p : Pkt) (i : Nat) : Word64 := p.f.getD i 0
def hdrType (h : Word64) : Nat := bits h.toNat 63 56
def hdrSeq (h : Word64) : Bool := bits h.toNat 55 55 == 1
def hdrResv (h : Word64) : Bool := bits h.toNat 53 44 == 0 && bits h.toNat 31 0 == 0

/-- A packet from its eight words. -/
def pktOf (num : Nat) (ws : List Word64) : Pkt :=
  let h := ws.getD 0 0
  { num := num, ty := hdrType h, tok := bits h.toNat 43 32, tval := if hdrType h = 1 then ws.getD 3 0 else ws.getD 7 0,
    irq := bits h.toNat 54 54 == 1, started := false, f := ws, fault := none, refused := none }

/-- The words of a packet from `lo` to `hi` are zero. -/
def Pkt.zeros (p : Pkt) (lo hi : Nat) : Bool := (List.range (hi + 1 - lo)).all fun i => p.word (lo + i) == 0
def Pkt.low (p : Pkt) (i : Nat) : Nat := bits (p.word i).toNat 31 0
def Pkt.high (p : Pkt) (i : Nat) : Nat := bits (p.word i).toNat 63 32

/-! ## The queue (R401 to R403) -/

/-- R401: the address of a packet. -/
def Queue.slotVa (q : Queue) (num : Nat) : Nat := q.base + 64 * (num % 2 ^ q.log)

/-- R450: the device is ready. -/
def State.ready (s : State) : Bool := bits s.status.toNat 3 0 == 3

/-- R403: the queue halts, with its error record on its way to the tenant's ring. -/
def State.haltQueue (s : State) (qi cause va id : Nat) : State :=
  let ti := (s.queue qi).tenant
  let r : FRec := { id := some (BitVec.ofNat 16 id), va := va, asid := (s.tenant ti).cfg.asid, core := qi, kind := 0xFF, cause := cause, uid := s.nextId }
  ((s.modQueue qi fun q => { q with halted := true }).modTenant ti fun t => { t with arriving := t.arriving ++ [r] }).fresh

/-- R403: the queue halts at the packet it stands at. -/
def State.haltAt (s : State) (qi cause : Nat) : State :=
  let q := s.queue qi
  (s.modQueue qi fun q => { q with pkts := q.pkts.filter (·.started) }).haltQueue qi cause (q.slotVa q.readIx) q.readIx

/-- The packet that a queue stands at and that may start now (R402): not yet waiting to start, and behind every earlier one if its seq bit says so; a fault
on its address is an error. -/
def State.headPkt (s : State) (qi : Nat) : Option (Except Nat Pkt) :=
  let q := s.queue qi
  if !q.mapped || q.halted || q.unmapping || q.resetting || decide (q.writeIx ≤ q.readIx) || q.pkts.any (fun p => !p.started) || !s.ready then none
  else
    match s.readVa ((s.tenant q.tenant).cfg.asid) (q.slotVa q.readIx) 64 with
    | .error _ => some (.error 3)
    | .ok bs =>
      let p := pktOf q.readIx ((List.range 8).map fun i => BitVec.ofNat 64 (bytesToNat ((bs.drop (8 * i)).take 8)))
      if hdrSeq (p.word 0) && !q.pkts.isEmpty then none else some (.ok p)

/-- R401, R402: the packet starts: the read index goes on. -/
def State.startPkt (s : State) (qi : Nat) (p : Pkt) : State :=
  s.modQueue qi fun q => { q with readIx := p.num + 1, pkts := (q.pkts.filter fun k => k.num != p.num) ++ [{ p with started := true }] }

/-- The packet waits at the head of its queue. -/
def State.holdPkt (s : State) (qi : Nat) (p : Pkt) : State := s.modQueue qi fun q => { q with pkts := q.pkts ++ [p] }

/-- R405: the value of a token slot. -/
def State.token (s : State) (ti n : Nat) : Word64 := SMap.getD (s.tenant ti).tokens n 0
def State.setToken (s : State) (ti n : Nat) (v : Word64) : State := s.modTenant ti fun t => { t with tokens := SMap.set t.tokens n v }

/-- R405, R404: the token slot and the interrupt of a packet that completes. -/
def State.tokenOf (s : State) (ti tok : Nat) (tval : Word64) (irq : Bool) : State :=
  let s := if tok = 0xFFF then s else s.setToken ti tok (if (s.token ti tok).toNat < tval.toNat then tval else s.token ti tok)
  if irq then s.interrupt ti else s

/-- R453: with its last packet, a queue that is being unmapped is released, and one that is being reset goes on at its write index. -/
def State.settleUnmap (s : State) (qi : Nat) : State :=
  if !(s.queue qi).pkts.isEmpty then s
  else if (s.queue qi).unmapping then s.setQueue qi Queue.none
  else if (s.queue qi).resetting then s.modQueue qi fun q => { q with resetting := false, readIx := q.writeIx }
  else s

/-- R402, R405: the packet completes. -/
def State.completePkt (s : State) (qi : Nat) (p : Pkt) : State :=
  let s := s.modQueue qi fun q => { q with pkts := q.pkts.filter fun k => k.num != p.num }
  (s.tokenOf (s.queue qi).tenant p.tok p.tval p.irq).settleUnmap qi

/-- A packet that starts and completes at once. -/
def State.runPkt (s : State) (qi : Nat) (p : Pkt) : State := (s.startPkt qi p).completePkt qi p

/-- R407: a u32 status at an address that a packet names; 0 is none. A fault on that address halts the queue (R403). -/
def State.writeStat (s : State) (qi : Nat) (p : Pkt) (addr : Word64) (code : Nat) : State :=
  if addr = 0 then s
  else
    match s.hubWrite (s.queue qi).tenant addr.toNat (natToBytes 4 code) with
    | (s, none) => s
    | (s, some _) => s.haltQueue qi 3 ((s.queue qi).slotVa p.num) p.num

/-- The frame of a packet of a type: its own address (cause 3), reserved fields (cause 1), illegal values (cause 2), then its effect. -/
def packet (s : State) (qi ty : Nat) (resv legal : Pkt → Bool) (eff : Pkt → State → State) : Host.Outcome State Fault Refusal :=
  match s.headPkt qi with
  | none => .next s
  | some (.error c) => .next (s.haltAt qi c)
  | some (.ok p) =>
    if p.ty != ty then .next s
    else if !hdrResv (p.word 0) || !resv p then .next (s.haltAt qi 1)
    else if !legal p then .next (s.haltAt qi 2)
    else .next (eff p s)

end Sys2Proof.Machine
end

