-- ==== Sys2Proof/Machine/Milestone.lean ====
section
/-! DEFINITION. Home map changes, shoot-downs and migrations (R376, R387 to R391), and milestones (R393 to R400): cuts, markers, drains, reverts, with the
packets SNAP and REVERT. -/

namespace Sys2Proof.Machine

open Sys2Proof

/-! ## Cuts (R394 to R398) -/

/-- R394: generations that exist: the live one and the frozen ones not drained. -/
def Tenant.generations (t : Tenant) : Nat := 1 + t.frozen.countP fun f => !f.done

/-- R391: a migration of the address space is running. -/
def State.migrating (s : State) (asid : Nat) : Bool := s.dies.any fun p => p.2.slots.any fun m => m.2.asid == asid

/-- The leaves of a table at a level, in ascending VA: virtual address and leaf; host frames are left out (R393), and entry 511 of level 3 is never read
(R378). -/
def tableLeaves (mem : Mem) : Nat → Nat → Nat → List (Nat × Leaf)
  | 0, table, va =>
    (List.range 32).filterMap fun i =>
      let e := Mem.readNat mem (memKey 0 (table + 8 * i)) 8
      if pteV e && pteLeaf e && pteResvOk e false && ptePa e % 2 ^ 16 == 0 && !(leafOf e (2 ^ 16)).host then some (va + i * 2 ^ 16, leafOf e (2 ^ 16)) else none
  | n + 1, table, va =>
    (List.range (if n = 3 then 511 else 512)).flatMap fun i =>
      let e := Mem.readNat mem (memKey 0 (table + 8 * i)) 8
      let size := 2 ^ (12 + 9 * (n + 1))
      if pteV e && pteResvOk e (n == 0) then
        if pteLeaf e then (if n < 2 && ptePa e % size == 0 && !(leafOf e size).host then [(va + i * size, leafOf e size)] else [])
        else tableLeaves mem n (ptePa e + (if n = 0 then bits e 11 8 * 256 else 0)) (va + i * size)
      else []

/-- R393, R398: the 64 KiB pages that a tenant has mapped in the two tiers, with their frames. -/
def State.mappedPages (s : State) (t : Tenant) : List (Nat × Nat) :=
  (tableLeaves s.mem 4 t.cfg.root 0).flatMap fun p =>
    (List.range (p.2.size / 2 ^ 16)).map fun i =>
      let va := p.1 + i * 2 ^ 16
      let l := s.movedLeaf t.cfg.asid va p.2
      (pageOf va, memKey l.tier (l.pa + va % l.size))

/-- R469, R381: the runs of frames for which a writable mapping of an address-space id is recorded; first key and bytes. -/
def State.recordedFrames (s : State) (asid : Nat) : List (Nat × Nat) :=
  let runs (tier : Nat) (ms : List WMap) : List (Nat × Nat) := (ms.filter fun m => m.asid == asid).map fun m => (memKey tier (m.frame * 2 ^ 16), m.frames * 2 ^ 16)
  (s.dies.flatMap fun p => runs 0 p.2.wmaps) ++ runs 1 s.hubWmaps

/-- R469: the frames of a tenant: its mapped pages, those of mappings that have not been shot down, its milestone pool, and what images have taken of its milestone area;
first key and bytes. -/
def State.framesOf (s : State) (t : Tenant) : List (Nat × Nat) :=
  (memKey 0 t.cfg.pool, t.cfg.frames * 2 ^ 16) :: (memKey 1 t.cfg.area, t.areaUsed) :: s.recordedFrames t.cfg.asid ++ (s.mappedPages t).map fun p => (p.2, 2 ^ 16)

/-- The key lies in one of the runs. -/
def inRuns (fs : List (Nat × Nat)) (k : Nat) : Bool := fs.any fun f => decide (f.1 ≤ k) && decide (k < f.1 + f.2)

/-- R469, R103: frames are zeroed, and their shadows go. -/
def State.zeroFrames (s : State) (fs : List (Nat × Nat)) : State :=
  { s with mem := s.mem.filter fun c => !inRuns fs c.1
           poisoned := s.poisoned.filter fun u => !inRuns fs (32 * u)
           latent := s.latent.filter fun p => !inRuns fs (32 * p.1)
           dies := s.dies.map fun (p : Nat × Die) => (p.1, { p.2 with shadows := p.2.shadows.filter fun (h : Shadow) => !inRuns fs h.key }) }

/-- R469: of the runs that a confidential tenant's mappings had, the 64 KiB frames that none of its mappings has now are free, and are zeroed (log entry 71). -/
def State.freeFrames (s : State) (asid : Nat) (runs : List (Nat × Nat)) : State :=
  match s.tenantOfAsid asid with
  | none => s
  | some ti =>
    let t := s.tenant ti
    if !t.cfg.conf then s
    else
      let kept := s.framesOf t
      s.zeroFrames ((runs.flatMap fun r => (List.range (r.2 / 2 ^ 16)).map fun i => (r.1 + i * 2 ^ 16, 2 ^ 16)).filter fun f => !inRuns kept f.1)

/-- The core holds a workgroup of a tenant. -/
def State.holds (s : State) (ti c : Nat) : Bool := (s.wg? c).isSome && s.tenantOf c == ti

/-- R395: the cores that hold a workgroup or an orphan session of a tenant. -/
def State.tenantCores (s : State) (ti : Nat) : List Nat :=
  (SMap.keys s.cores).filter fun c => s.holds ti c || (s.core c).orphans.any fun (o : Orphan) => s.tenantOfLaunch o.launch == ti

/-- R397: the cores whose memory port has work of a tenant: those above, and those whose engines still perform operations of the tenant, or where a workgroup
was saved that has accesses outstanding. -/
def State.tenantPorts (s : State) (ti : Nat) : List Nat :=
  let away (c : Nat) : Bool := s.launches.any fun l => l.tenant == ti && l.saved.any fun v => v.core == c && !v.wg.ops.isEmpty
  let engines (c : Nat) : Bool :=
    ((s.core c).eng.any fun e => s.tenantOfLaunch e.launch == ti) || ((s.core c).chanOps.any fun o => s.tenantOfLaunch o.launch == ti)
  (SMap.keys s.cores).filter fun c => (s.tenantCores ti).contains c || away c || engines c

def dieList : List Nat := [0, 1, 2, 3]

/-- R395, R391: the hub serves the oldest SNAP that waits, when no window is open and no migration runs: it moves, and the cut is on its way to every core
and die. -/
def State.serveSnap (s : State) (ti : Nat) : State :=
  let t := s.tenant ti
  match t.cut, t.snaps with
  | none, r :: rest =>
    if s.migrating t.cfg.asid then s
    else
      let srcs := ((s.tenantPorts ti).map fun c => (false, c)) ++ [(true, 0)]
      let cut : Cut := { gen := t.gen + 1, op := r.1, pkt := r.2, coresToMove := (s.tenantCores ti).filter fun c => !s.holds ti c || decide ((s.core c).ms ≤ t.gen),
                         diesToMove := dieList.filter fun d => decide (t.genAt d ≤ t.gen),
                         owe := srcs.flatMap fun p => dieList.map fun d => (p.1, p.2, d), sent := [] }
      s.modTenant ti fun t =>
        { t with gen := t.gen + 1, maxGen := max t.maxGen (t.gen + 1), dieGen := dieList.map fun d => (d, t.genAt d), cut := some cut, snaps := rest }
  | _, _ => s

/-- R394, R395: a SNAP reaches the hub: the generation it closes is frozen from then on. -/
def State.requestSnap (s : State) (ti : Nat) (op pkt : Option (Nat × Nat)) : State :=
  let t := s.tenant ti
  let f : Frozen := { gen := t.gen + t.snaps.length, copies := [], drained := [], done := false, pages := s.mappedPages t, base := none }
  (s.modTenant ti fun t => { t with frozen := t.frozen ++ [f], snaps := t.snaps ++ [(op, pkt)] }).serveSnap ti

/-- R387 step 3: messages to the cores that hold a workgroup of the tenant, and their number. -/
def State.tellCores (s : State) (asid va len : Nat) : State × Nat :=
  let cores := (SMap.keys s.cores).filter fun c => (s.wg? c).isSome && s.asidOf c == asid
  ((cores.foldl (fun s c => s.modCore c fun k => { k with shoots := k.shoots ++ [(s.nextId, asid, va, len)] }) s).fresh, s.nextId)

/-- A home map entry of a migrating region, and of one that has moved. -/
def migEntry (home tier nhome ntier slot : Nat) : Word32 :=
  BitVec.ofNat 32 (2 ^ 31 + 2 ^ 30 + home * 2 ^ 28 + tier * 2 ^ 27 + nhome * 2 ^ 25 + ntier * 2 ^ 24 + slot * 2 ^ 22)
def homedEntry (home tier : Nat) : Word32 := BitVec.ofNat 32 (2 ^ 31 + home * 2 ^ 28 + tier * 2 ^ 27)

/-- R389, R391: a migration may start: its region has a home and does not migrate, no cut window of the tenant is open, and the old home has a slot. -/
def State.migSlot (s : State) (asid region : Nat) : Option Nat :=
  let e := s.homeEntry asid (region * 2 ^ 21)
  let cutting := match s.tenantOfAsid asid with | some ti => (s.tenant ti).cut.isSome | none => false
  if !hmOk e || hmHost e || hmMig e || cutting then none else SMap.lowestFree (s.die (hmHome e)).slots 4

/-- R389 step 1: the entry with mig = 1, the slot, and the messages to the cores, whose acknowledgements the first move awaits. -/
def State.startMigration (s : State) (asid region newHome newTier frame slot : Nat) : State :=
  let va := region * 2 ^ 21
  let e := s.homeEntry asid va
  let (s, told) := s.tellCores asid va (2 ^ 21)
  let s := s.modDie (hmHome e) fun d => { d with slots := SMap.set d.slots slot ⟨asid, region, newHome % 4, newTier % 2, frame, 0, told⟩ }
  { s with homeMap := SMap.set s.homeMap (homeKey asid va) (migEntry (hmHome e) (hmTier e) (newHome % 4) (newTier % 2) slot) }

/-- R391: the migrations that wait at the hub, oldest first: each starts that may. -/
def State.startWaiting (s : State) : State :=
  s.migWait.foldl (fun s r =>
    match s.migSlot r.1 r.2.1 with
    | some k => { s.startMigration r.1 r.2.1 r.2.2.1 r.2.2.2.1 r.2.2.2.2 k with migWait := s.migWait.erase r }
    | none => s) s

/-- R397: the window has closed everywhere: the SNAP completes, and the next one, or a migration, may start. -/
def State.closeCut (s : State) (ti : Nat) : State :=
  match (s.tenant ti).cut with
  | none => s
  | some k =>
    if !k.owe.isEmpty || !k.sent.isEmpty || !k.diesToMove.isEmpty then s
    else
      let s := s.modTenant ti fun t => { t with cut := none, masks := if t.snaps.isEmpty then [] else t.masks }
      let s := match k.op.bind fun p => s.eng? p.2 with
        | some p => s.engComplete p.2 0
        | none => s
      let s := match k.pkt with
        | some (qi, n) =>
          match (s.queue qi).pkts.find? fun (p : Pkt) => p.num == n with
          | some p => (s.writeStat qi p (p.word 1) 0).completePkt qi p
          | none => s
        | none => s
      (s.serveSnap ti).startWaiting

/-- R395, R396: CUT_BROADCAST_RECEIVE. A core that holds only orphan sessions of the tenant has no %ms of it to move. -/
def execCutBroadcastReceive (tenant : Nat) (atDie : Bool) (n : Nat) (s : State) : Host.Outcome State Fault Refusal :=
  match (s.tenant tenant).cut with
  | none => .next s
  | some k =>
    if atDie then (if k.diesToMove.contains n then .next (s.modTenant tenant (·.advance n k.gen)) else .next s)
    else if k.coresToMove.contains n then
      .next ((if s.holds tenant n then s.modCore n fun x => { x with ms := max x.ms k.gen } else s).modTenant tenant fun t =>
        { t with cut := t.cut.map fun k => { k with coresToMove := k.coresToMove.filter (· != n) } })
    else .next s

/-- An access that is a write not yet acknowledged, tagged below a generation, to a die. -/
def State.owedOp (s : State) (asid gen die : Nat) (o : MemOp) : Bool :=
  o.aop != .load && !o.acked && decide (o.gen < gen) && o.lanes.any fun l => l.space == .trans && (s.homeDie asid l.off == die || !hmOk (s.homeEntry asid l.off))

/-- R254, R393: a copy that was written to a q2 at a generation below one is still to start. -/
def Wg.copiesBelow (w : Wg) (gen : Nat) : Bool := (w.groups.map (·.2) ++ w.parked.map (·.group)).any fun g => g.q2Gens.any fun n => decide (n < gen)

/-- R397: the source has moved and has had every write of the earlier generations to the die acknowledged. Parked writes and unanswered faults hold it back. A workgroup
that has come from elsewhere, to a core that owes no marker, holds back every source that does. -/
def State.markerReady (s : State) (ti gen src die : Nat) : Bool :=
  let asid := (s.tenant ti).cfg.asid
  let mine (w : Wg) : Bool := (w.ops.any (s.owedOp asid gen die)) || w.copiesBelow gen
  let cut := (s.tenant ti).cut
  let moved := !(cut.any fun k => k.coresToMove.contains src)
  let owes (c : Nat) : Bool := cut.any fun k => k.owe.contains (false, c, die)
  let here := s.cores.any fun p => (p.1 == src || !owes p.1) && s.tenantOf p.1 == ti && p.2.wg.any mine
  let saved := s.launches.any fun l => l.tenant == ti && l.saved.any fun v => v.core == src && mine v.wg
  let chan := (s.core src).chanOps.any fun o => o.asid == asid && decide (o.gen < gen) && (o.die == die || s.homeDie asid o.va == die)
  let eng := (s.core src).eng.any fun e => s.tenantOfLaunch e.launch == ti && decide (e.gen < gen) && match e.kind with
    | .copy _ _ => true
    | .mdrain _ => true
    | _ => false
  moved && !here && !saved && !chan && !eng

/-- R397: the hub has had every write of the earlier generations to the die performed: no write of the host or of a peer is held, no operation of a peer's channel waits
there, and no copy of the tenant's queues waits for an answer to a fault. -/
def State.hubMarkerReady (s : State) (ti gen die : Nat) : Bool :=
  let asid := (s.tenant ti).cfg.asid
  let held := s.heldWrites.any fun h => h.asid == asid && decide (h.gen < gen) && s.homeDie asid h.va == die
  let chan := (s.die die).reseq.any fun e => streamDev e.stream != s.devNum.toNat && e.held.any fun p => p.2.any fun o => o.asid == asid && decide (o.gen < gen)
  let copy := s.queues.any fun q => q.2.tenant == ti && q.2.pkts.any fun p => p.fault.isSome
  !held && !chan && !copy

/-- R397: MILESTONE_MARKER_SEND. -/
def execMilestoneMarkerSend (tenant : Nat) (fromHub : Bool) (src die : Nat) (s : State) : Host.Outcome State Fault Refusal :=
  match (s.tenant tenant).cut with
  | none => .next s
  | some k =>
    if k.owe.contains (fromHub, src, die) && (if fromHub then s.hubMarkerReady tenant k.gen die else s.markerReady tenant k.gen src die) then
      .next (s.modTenant tenant fun t => { t with cut := t.cut.map fun k =>
        { k with owe := k.owe.filter (· != (fromHub, src, die)), sent := k.sent ++ [(fromHub, src, die)] } })
    else .next s

/-- R397, R396: MILESTONE_MARKER_RECEIVE. -/
def execMilestoneMarkerReceive (tenant : Nat) (fromHub : Bool) (src die : Nat) (s : State) : Host.Outcome State Fault Refusal :=
  match (s.tenant tenant).cut with
  | none => .next s
  | some k =>
    if k.sent.contains (fromHub, src, die) then
      let s := s.modTenant tenant (·.advance die k.gen)
      .next ((s.modTenant tenant fun t => { t with cut := t.cut.map fun k => { k with sent := k.sent.filter (· != (fromHub, src, die)) } }).closeCut tenant)
    else .next s

/-- R402, R407: SNAP_PACKET. -/
def execSnapPacket (queue : Nat) (s : State) : Host.Outcome State Fault Refusal :=
  packet s queue 5 (fun p => p.zeros 2 6) (fun p => (p.word 1).toNat % 4 == 0) fun p s =>
    let ti := (s.queue queue).tenant
    if 4 ≤ (s.tenant ti).generations then ((s.startPkt queue p).writeStat queue p (p.word 1) cBusy).completePkt queue p
    else (s.startPkt queue p).requestSnap ti none (some (queue, p.num))

/-! ## Drains and reverts (R399, R400) -/

/-- Where byte `off` of a page stands now, and where it was at the cut if the page is mapped no more. -/
def State.byteNow (s : State) (t : Tenant) (page key off : Nat) : Nat :=
  let va := page * 2 ^ 16 + off
  match s.leafAt t.cfg.asid t.cfg.root va with
  | some l => if l.host then key + off else s.keyNow t.cfg.asid va l
  | none => key + off

/-- The live bytes of a page, line by line: a line of a migrating region may stand in the new frame. -/
def State.livePage (s : State) (t : Tenant) (page key : Nat) : List Byte :=
  (List.range 512).flatMap fun i => Mem.readBytes s.mem (s.byteNow t page key (128 * i)) 128

/-- R400: the bytes of an image written over the live ones of a page. -/
def State.putPage (s : State) (t : Tenant) (page key : Nat) (bs : List Byte) : State :=
  ((List.range 512).map fun i => (i, s.byteNow t page key (128 * i))).foldl (fun s p => s.memWrite p.2 ((bs.drop (128 * p.1)).take 128)) s

/-- R399: where page number `n` of an image lies. -/
def imagePage (base n : Nat) : Nat := base + 0x40 + n * 65552

/-- The generation to drain: the oldest one frozen whose window has closed. -/
def Tenant.toDrain (t : Tenant) : Option Frozen :=
  t.frozen.find? fun f => !f.done && decide (f.gen < t.gen) && (match t.cut with | some k => f.gen + 1 != k.gen | Option.none => true)

/-- R399: the header of an image. -/
def Frozen.header (f : Frozen) (asid : Nat) : List Byte := natToBytes 4 f.gen ++ natToBytes 2 asid ++ natToBytes 2 0 ++ natToBytes 8 f.pages.length ++ natToBytes 48 0

def Tenant.modFrozen (t : Tenant) (gen : Nat) (f : Frozen → Frozen) : Tenant :=
  { t with frozen := t.frozen.map fun x => if x.gen == gen then f x else x }

/-- The 65,536 bytes of a page of an image: from the milestone area once drained, from the frozen copy, or from the live frame. -/
def State.imageBytes (s : State) (t : Tenant) (f : Frozen) (n page key : Nat) : List Byte :=
  match f.base, f.drained.contains page, SMap.get? f.copies page with
  | some b, true, _ => Mem.readBytes s.mem (memKey 1 (imagePage b n + 16)) (2 ^ 16)
  | _, _, some m => Mem.readBytes m 0 (2 ^ 16)
  | _, _, Option.none => s.livePage t page key

/-- R399: MILESTONE_DRAIN_PAGE: one page of the oldest frozen generation; with the last one the generation is drained. -/
def execMilestoneDrainPage (tenant : Nat) (s : State) : Host.Outcome State Fault Refusal :=
  let t := s.tenant tenant
  match t.toDrain with
  | none => .next s
  | some f =>
    let base := f.base.getD (t.cfg.area + t.areaUsed)
    let s := if f.base.isSome then s
      else (s.memWrite (memKey 1 base) (f.header t.cfg.asid)).modTenant tenant fun t =>
        { (t.modFrozen f.gen fun x => { x with base := some base }) with areaUsed := t.areaUsed + 0x40 + f.pages.length * 65552 }
    let n := f.drained.length
    match f.pages[n]? with
    | none => .next (s.modTenant tenant fun t => t.modFrozen f.gen fun x => { x with done := true })
    | some (page, key) =>
      let frame := s.byteNow t page key 0
      let flags := if memKey 1 0 ≤ frame then 1 else 0
      let s := s.memWrite (memKey 1 (imagePage base n)) (natToBytes 8 (page * 2 ^ 16) ++ natToBytes 8 flags ++ s.imageBytes t f n page key)
      let freed := if (SMap.get? f.copies page).isSome then 1 else 0
      .next (s.modTenant tenant fun t =>
        { (t.modFrozen f.gen fun x => { x with copies := SMap.del x.copies page, drained := x.drained ++ [page], done := decide (x.pages.length ≤ n + 1) }) with
          poolUsed := t.poolUsed - freed })

/-- R402, R407: REVERT_PACKET: the Depot accepts a generation that is frozen or drained. -/
def execRevertPacket (queue : Nat) (s : State) : Host.Outcome State Fault Refusal :=
  packet s queue 6 (fun p => p.zeros 3 6 && p.high 2 == 0) (fun p => (p.word 1).toNat % 4 == 0) fun p s =>
    let t := s.tenant (s.queue queue).tenant
    if t.frozen.any fun f => f.gen == p.low 2 then s.startPkt queue p
    else ((s.startPkt queue p).writeStat queue p (p.word 1) cIllegalOperand).completePkt queue p

/-- R400: every cached line and reduction shadow of a tenant is dropped. -/
def State.dropTenantLines (s : State) (asid : Nat) : State :=
  let s := { s with dies := s.dies.map fun (p : Nat × Die) => (p.1, { (p.2.l2Keep fun (l : L2Line) => l.asid != asid) with
    shadows := p.2.shadows.filter fun (h : Shadow) => h.asid != asid
    icache := p.2.icache.filter fun l => l.2.1 != asid }) }
  { s with cores := s.cores.map fun (p : Nat × Core) => (p.1, { p.2 with l1 := p.2.l1.filter fun l => l.asid != asid, loop := p.2.loop.filter fun l => l.asid != asid }) }

/-- R400: REVERT_EXECUTE. -/
def execRevertExecute (queue : Nat) (s : State) : Host.Outcome State Fault Refusal :=
  let ti := (s.queue queue).tenant
  let t := s.tenant ti
  match (s.queue queue).pkts.find? fun p => p.ty == 6 && p.started with
  | none => .next s
  | some p =>
    if s.launches.any (fun l => l.tenant == ti && l.stat == .resident) || t.cut.isSome || !t.snaps.isEmpty then .next s
    else
      match t.frozen.find? fun f => f.gen == p.low 2 with
      | none => .next ((s.writeStat queue p (p.word 1) cIllegalOperand).completePkt queue p)
      | some f =>
        let put (s : State) (q : Nat × Nat × Nat) : State := s.putPage t q.2.1 q.2.2 (s.imageBytes t f q.1 q.2.1 q.2.2)
        let live := ((List.range f.pages.length).zip f.pages)
        let s := live.foldl put s
        let s := s.dropTenantLines t.cfg.asid
        let s := s.modTenant ti fun t =>
          let kept := t.frozen.filter fun x => decide (x.gen ≤ f.gen)
          { t with frozen := kept, poolUsed := kept.foldl (fun n x => n + x.copies.length) 0, gen := max t.maxGen t.heard + 1, maxGen := max t.maxGen t.heard + 1, dieGen := [] }
        .next ((s.writeStat queue p (p.word 1) 0).completePkt queue p)

/-! ## The home map and shoot-downs (R376, R387, R388) -/

/-- R376, R450: HOME_MAP_CHANGE. While the region migrates, the entry is the Depot's. -/
def execHomeMapChange (asid region : Nat) (entry : BitVec 32) (s : State) : Host.Outcome State Fault Refusal :=
  if !s.ready then .next s
  else if s.dies.any fun p => p.2.slots.any fun m => m.2.asid == asid && m.2.region == region then .next (s.emit (.refusedHomeMap asid region))
  else .next { s with homeMap := SMap.set s.homeMap (homeKey asid (region * 2 ^ 21)) entry }

/-- The address lies in a range. -/
def inRange (lo n va len : Nat) : Bool := decide (lo < va + len) && decide (va < lo + n)

/-- R387 steps 1 and 2 at one die or at the hub. -/
def dropTlb (t : List TlbEntry) (asid va len : Nat) : List TlbEntry := t.filter fun e => !(e.asid == asid && inRange e.va e.size va len)
def dropWmaps (m : List WMap) (asid va len : Nat) : List WMap := m.flatMap fun e => e.without asid va len

def Die.shoot (d : Die) (asid va len : Nat) : Die :=
  { (d.l2Keep fun (l : L2Line) => !(l.asid == asid && inRange (128 * l.line) 128 va len)) with
    tlb := d.tlb.map fun p => (p.1, dropTlb p.2 asid va len)
    wmaps := dropWmaps d.wmaps asid va len
    shadows := d.shadows.filter fun (h : Shadow) => !(h.asid == asid && inRange (128 * lineOf h.va) 128 va len) }

/-- R387 step 3: the messages to the cores that hold a workgroup of the tenant; with none the Depot reports at once. -/
def State.shootCores (s : State) (asid va len : Nat) : State :=
  let cores := (SMap.keys s.cores).filter fun c => (s.wg? c).isSome && s.asidOf c == asid
  if cores.isEmpty then s.emit (.shootDone asid) else (s.tellCores asid va len).1

/-- R170: the places of the pages of constant banks as they are now, where they differ from those of another state: from then on the values of the new place count. -/
def State.bankChanged (s old : State) (asid : Nat) : State :=
  let place (s : State) (pg : Nat) : Except Nat Nat := s.placeOf asid (pg * 2 ^ 16) needPlace
  { s with launches := s.launches.map fun (l : Launch) =>
      if (s.tenant l.tenant).cfg.asid == asid then
        { l with bankSince := (SMap.keys l.bankAt).foldl (fun m pg =>
            match place old pg, place s pg with
            | .ok a, .ok b => if a = b then m else SMap.set m pg l.undo.length
            | _, _ => SMap.set m pg l.undo.length) l.bankSince }
      else l }

/-- R387, R469: SHOOT_DOWN_REQUEST. The frames that a confidential tenant's mappings lose are free from then on. The host's tables then hold for a region that had moved away from under a larger leaf (log entry 25). -/
def execShootDownRequest (asid va len : Nat) (s : State) : Host.Outcome State Fault Refusal :=
  if !s.ready then .next s else
  let s0 := s
  let s := { s with regionAt := s.regionAt.filter fun p => !(p.1 / 2 ^ 36 == asid && inRange (p.1 % 2 ^ 36 * 2 ^ 21) (2 ^ 21) va len) }
  let s := { s with dies := s.dies.map fun (p : Nat × Die) => (p.1, p.2.shoot asid va len), hubTlb := dropTlb s.hubTlb asid va len, hubWmaps := dropWmaps s.hubWmaps asid va len }
  .next (((s.bankChanged s0 asid).freeFrames asid (s0.recordedFrames asid)).shootCores asid va len)

/-- R387, R388: SHOOTDOWN_RECEIVE: the core drops its lines and home map entries of the range and acknowledges; the last acknowledgement is reported, but for that of a
migration's new entry (R389 step 1). -/
def execShootdownReceive (core : Nat) (s : State) : Host.Outcome State Fault Refusal :=
  match (s.core core).shoots with
  | [] => .next s
  | (id, asid, va, len) :: rest =>
    let s := s.modCore core fun k =>
      { k with shoots := rest
               l1 := k.l1.filter fun l => !(l.asid == asid && inRange (128 * l.line) 128 va len)
               home := k.home.filter fun h => !(h.1 == asid && inRange (h.2.1 * 2 ^ 21) (2 ^ 21) va len) }
    if s.cores.any (fun p => p.2.shoots.any fun q => q.1 == id) || s.dies.any (fun p => p.2.slots.any fun m => m.2.told == id) then .next s
    else .next (s.emit (.shootDone asid))

/-! ## Migration (R389 to R391) -/

/-- R389, R391, R477: MIGRATION_REQUEST: a host region is refused; without a slot, or behind a cut window, the request waits at the hub. R389 gives no fate to a request
whose new frame lies beyond the second tier's bytes, or outside the stacks of the new home: the model starts it and moves the lines there as if memory stood there, its
own choice (log entry 83). -/
def execMigrationRequest (asid region newHome newTier frame : Nat) (s : State) : Host.Outcome State Fault Refusal :=
  let e := s.homeEntry asid (region * 2 ^ 21)
  if !s.ready then .next s
  else if !hmOk e || hmHost e || hmMig e then .next (s.emit (.refusedHomeMap asid region))
  else
    match s.migSlot asid region with
    | some k => .next (s.startMigration asid region newHome newTier frame k)
    | none => .next { s with migWait := s.migWait ++ [(asid, region, newHome, newTier, frame)] }

/-- The address of the level-0 entry of a virtual address, if a walk comes to one. -/
def level0At (mem : Mem) (va : Nat) : Nat → Nat → Option Nat
  | 0, table => some (table + 8 * (va / 2 ^ 21 % 512))
  | n + 1, table =>
    let e := Mem.readNat mem (memKey 0 (table + 8 * (va / 2 ^ (12 + 9 * (n + 2)) % 512))) 8
    if pteV e && pteResvOk e false && !pteLeaf e then level0At mem va n (ptePa e) else none

/-- A leaf entry with another frame. -/
def retargetPte (e frame tier : Nat) : Nat := e - bits e 51 12 * 2 ^ 12 - bits e 58 58 * 2 ^ 58 + frame / 4096 % 2 ^ 40 * 2 ^ 12 + tier * 2 ^ 58

/-- R389 (log entry 25): the leaves of a region that has moved name its new frames; under a larger leaf the region's place is kept beside the tables. -/
def State.retarget (s : State) (ti : Nat) (m : Migration) : State :=
  let va := m.region * 2 ^ 21
  let put (s : State) (a e frame : Nat) : State := { s with mem := Mem.writeBytes s.mem (memKey 0 a) (natToBytes 8 (retargetPte e frame m.newTier)) }
  match level0At s.mem va 3 (s.tenant ti).cfg.root with
  | none => { s with regionAt := SMap.set s.regionAt (homeKey m.asid va) (m.newTier, m.newFrame) }
  | some a =>
    let e := Mem.readNat s.mem (memKey 0 a) 8
    if !pteV e then s
    else if pteLeaf e then put s a e m.newFrame
    else (List.range 32).foldl (fun s i =>
      let a' := ptePa e + bits e 11 8 * 256 + 8 * i
      let e' := Mem.readNat s.mem (memKey 0 a') 8
      if pteV e' && pteLeaf e' then put s a' e' (m.newFrame + i * 2 ^ 16) else s) s

/-- R381: a record is of a mapping to the new frames of a migration. -/
def Migration.maps (m : Migration) (w : WMap) : Bool :=
  w.asid == m.asid && w.va / 2 ^ 21 == m.region && decide (m.newFrame / 2 ^ 16 ≤ w.frame) && decide (w.frame + w.frames ≤ m.newFrame / 2 ^ 16 + 32)

/-- The frames of the pages of a 2 MiB region, by the tables; first key and bytes. -/
def State.regionFrames (s : State) (asid va : Nat) : List (Nat × Nat) :=
  match s.tenantOfAsid asid with
  | none => []
  | some ti => (List.range 32).filterMap fun i =>
    let a := va + i * 2 ^ 16
    (s.leafAt asid (s.tenant ti).cfg.root a).bind fun l => if l.host then none else some (memKey l.tier (l.pa + a % l.size), 2 ^ 16)

/-- The last line has moved: the entry names the new home, the old TLB entries go, and with them the records of the old mapping, while those of the new one stand (R389,
R381); a SNAP or a migration that waits may start (R391). -/
def State.endMigration (s : State) (die slot : Nat) (m : Migration) : State :=
  let va := m.region * 2 ^ 21
  let old := s.regionFrames m.asid va
  let s := s.modDie die fun d => { d with slots := SMap.del d.slots slot }
  let s := { s with homeMap := SMap.set s.homeMap (homeKey m.asid va) (homedEntry m.newHome m.newTier) }
  let s := match s.tenantOfAsid m.asid with | some ti => s.retarget ti m | none => s
  let drop (t : List TlbEntry) : List TlbEntry := dropTlb t m.asid va (2 ^ 21)
  let wmaps (here : Bool) (ws : List WMap) : List WMap := (if here then ws.filter m.maps else []) ++ dropWmaps ws m.asid va (2 ^ 21)
  let s := { s with
    dies := s.dies.map fun (p : Nat × Die) => (p.1, { p.2 with
      tlb := p.2.tlb.map fun (q : Nat × List TlbEntry) => (q.1, drop q.2), wmaps := wmaps (m.newTier == 0 && p.1 == m.newHome) p.2.wmaps })
    hubTlb := drop s.hubTlb
    hubWmaps := wmaps (m.newTier == 1) s.hubWmaps }
  let s := (s.freeFrames m.asid old).shootCores m.asid va (2 ^ 21)
  (match s.tenantOfAsid m.asid with | some ti => s.serveSnap ti | none => s).startWaiting

/-- R389, R390: MIGRATION_LINE_MOVE: once the cores have the entry, one line, with its bytes, its L2 state and its shadow; the boundary goes on. -/
def execMigrationLineMove (die slot : Nat) (s : State) : Host.Outcome State Fault Refusal :=
  match SMap.get? (s.die die).slots slot with
  | none => .next s
  | some m =>
    if s.telling m then .next s
    else
      let s := if m.line < 2 ^ 14 then s.moveLine die slot m else s
      let s := if m.line + 1 < 2 ^ 14 then s else s.endMigration die slot m
      .next s.applyAll

end Sys2Proof.Machine
end

