-- ==== Sys2Proof/Machine/Launch.lean ====
section
/-! DEFINITION. The life of a launch (R408 to R421, R434 to R436): its record and admission, how a workgroup starts, the retirement tracker and the
completion, pre-emption and the save, the resume, gang kills and relaunches. Steps RETIREMENT_TRACKER_EMPTY, LAUNCH_PACKET, LAUNCH_ADMISSION, PREEMPTION,
CONTEXT_SAVE, LAUNCH_RESUME, FAULT_RESUME, HALT_BROADCAST_RECEIVE, GANG_KILL and GANG_RELAUNCH. -/

namespace Sys2Proof.Machine

open Sys2Proof

/-! ## The launch record (R408 to R410) -/

def u8At (bs : List Byte) (o : Nat) : Nat := (bs.getD o 0).toNat
def u16At (bs : List Byte) (o : Nat) : Nat := bytesToNat ((bs.drop o).take 2)
def n64At (bs : List Byte) (o : Nat) : Nat := (u64At bs o).toNat

/-- The reserved fields of a record are zero: those of R408, R409 and the trap mask (R89). -/
def recResv (bs : List Byte) : Bool :=
  let ctl := u32At bs 0x1C
  u16At bs 0x72 == 0 && ((bs.drop 0xE0).take 32).all (· == 0) && bits ctl 31 9 == 0 && bits ctl 2 2 == 0 && bits (u32At bs 0x74) 31 5 == 0

/-- R408: the fields of the 256 bytes. -/
def recordOf (bs : List Byte) : LaunchRec :=
  { entry := u64At bs 0, w := u16At bs 8, t := u16At bs 0xA, v := u16At bs 0xC, gangLog := u8At bs 0xE, stages := u8At bs 0xF,
    sg := (List.range 4).map fun i => u8At bs (0x10 + i), scratch := u32At bs 0x14, priv := u32At bs 0x18, ctl := BitVec.ofNat 32 (u32At bs 0x1C),
    part := (List.range Config.cores).filter fun c => (u8At bs (0x20 + c / 8)) / 2 ^ (c % 8) % 2 == 1,
    x := u32At bs 0x60, y := u32At bs 0x64, z := u32At bs 0x68, gx := u16At bs 0x6C, gy := u16At bs 0x6E, gz := u16At bs 0x70,
    tmask := BitVec.ofNat 32 (u32At bs 0x74), key := u64At bs 0x78, fs := (List.range 8).map fun i => BitVec.ofNat 32 (u32At bs (0x80 + 4 * i)),
    cbp := (List.range 4).map fun i => u64At bs (0xA0 + 8 * i), cbl := (List.range 4).map fun i => u32At bs (0xC0 + 4 * i),
    dbg := u64At bs 0xD0, trc := u64At bs 0xD8, resv := recResv bs }

/-- R44, R47. -/
def LaunchRec.shapeOk (r : LaunchRec) : Bool :=
  [8, 16, 32, 64].contains r.w && r.t % max r.w 1 == 0 && decide (r.t ≤ Config.threadSlots) && decide (r.t / max r.w 1 ≤ Config.groupSlots) &&
    decide (8 ≤ r.v) && decide (r.v ≤ 256) && r.v % 8 == 0 && decide (r.t * r.v ≤ Config.vregsPerCore) && decide (1 ≤ r.stages) && decide (r.stages ≤ 4) &&
    (r.sg.take r.stages).foldl (· + ·) 0 == r.t / max r.w 1 && (r.sg.drop r.stages).all (· == 0) && decide (r.gangLog ≤ 6)

/-- R97. -/
def slotOk (f : Word32) : Bool :=
  decide (slotFmt f ≤ 8) && bits f.toNat 19 18 == 0 && bits f.toNat 13 8 == 0 &&
    (slotFmt f != 8 || (decide (2 ≤ slotMa f) && decide (slotMa f ≤ 16) && ((decide (2 ≤ slotMb f) && decide (slotMb f ≤ 8)) || slotMb f == 16)))

/-- R24: the cores of an aligned gang position. -/
def gangAt (size base : Nat) : List Nat := (List.range size).map (base + ·)

/-- R24, R176: the partition is a union of whole gangs, and the grid has its size. -/
def LaunchRec.partOk (r : LaunchRec) : Bool :=
  !r.part.isEmpty && (r.part.all fun c => (gangAt r.gangSize (c / r.gangSize * r.gangSize)).all r.part.contains) && r.gx * r.gy * r.gz == r.part.length

/-- R70, R72, R408: the extents. -/
def LaunchRec.extentsOk (r : LaunchRec) : Bool :=
  if r.dims = 0 then r.x == 0 && r.y == 0 && r.z == 0 && !r.stream && !r.morton
  else
    (decide (1 ≤ r.x) || r.stream) && decide (1 ≤ r.y) && decide (1 ≤ r.z) && decide (r.x * r.y * r.z ≤ 2 ^ 32 - 1) && (decide (2 ≤ r.dims) || r.y == 1) &&
      (decide (3 ≤ r.dims) || r.z == 1) && (!r.stream || (r.dims == 1 && !r.morton))

/-- R408: the entry and the constant banks. -/
def LaunchRec.basesOk (r : LaunchRec) : Bool :=
  r.entry.toNat % 8 == 0 && !isWindow r.entry.toNat && (List.range 4).all fun i =>
    let b := (r.cbp.getD i 0).toNat
    let n := r.cbl.getD i 0
    b % 4 == 0 && !isWindow b && n % 4 == 0 && !(b == 0 && n != 0)

def LaunchRec.sizesOk (r : LaunchRec) : Bool := r.scratch % 128 == 0 && decide (r.scratch ≤ 1048576) && r.priv % 16 == 0 && decide (r.priv ≤ 2 ^ 24)

/-- R410: the codes of the rules that a record breaks, but for the launch `self` itself. -/
def State.refusals (s : State) (ti : Nat) (lid : Word64) (self : Option Nat) (r : LaunchRec) : List Nat :=
  (if r.resv then [] else [1]) ++ (if r.shapeOk then [] else [2]) ++ (if r.fs.all slotOk then [] else [3]) ++
    (if r.partOk || decide (6 < r.gangLog) then [] else [4]) ++
    (if r.extentsOk then [] else [5]) ++ (if r.basesOk then [] else [6]) ++ (if (s.tenant ti).tight && Config.reservationFails s.free then [7] else []) ++
    (if s.launches.any fun l => l.tenant == ti && l.lid == lid && some l.uid != self then [8] else []) ++ (if r.sizesOk then [] else [9])

/-- The reason code of a refusal: where several rules are broken the manual does not say which code is reported (log entry 26). -/
def refusalCode (ctr : Nat) (cs : List Nat) : Nat := cs.getD (Config.pick ctr 410 % max cs.length 1) 0

/-! ## Completion (R420, R422, R443) -/

/-- R420: the 32 bytes of a completion record. -/
def completionBytes (status code : Nat) (flags : Word32) (kills : Nat) (lid : Word64) (pre nodump : Nat) : List Byte :=
  natToBytes 4 status ++ natToBytes 4 code ++ natToBytes 4 flags.toNat ++ natToBytes 4 kills ++ natToBytes 8 lid.toNat ++ natToBytes 4 pre ++ natToBytes 4 nodump

/-- The completion of a launch whose packet is given: the record, then the token, then the interrupt. -/
def State.finishLaunch (s : State) (qi : Nat) (p : Pkt) (done : Word64) (bytes : List Byte) : State :=
  let s := if done = 0 then s
    else match s.hubWrite (s.queue qi).tenant done.toNat bytes with
      | (s, none) => s
      | (s, some _) => s.haltQueue qi 3 ((s.queue qi).slotVa p.num) p.num
  s.completePkt qi p

/-- R443: one entry of a profile buffer. -/
def profileEntry (v : LeftWg) : List Byte := natToBytes 4 v.wgno ++ natToBytes 2 v.core ++ natToBytes 2 0 ++ v.hist.flatMap (natToBytes 8) ++ natToBytes 16 0

/-- R443: the entries of a launch, in ascending workgroup number, while its reference has prof rights; a fault ends them with a record of kind 5. -/
def State.writeProfile (s : State) (l : Launch) : State :=
  if !s.profOk l then s
  else
    match s.capSlot? (capSlotNo l.rcd.trc) with
    | none => s
    | some k =>
      let vs := sortBy (fun (a b : LeftWg) => decide (a.wgno < b.wgno)) l.left
      let bytes := vs.flatMap profileEntry
      match s.hubWrite l.tenant k.profBuf bytes with
      | (s, none) => s
      | (s, some (va, c)) => s.reportDepot l.tenant va ((vs.headD ⟨0, 0, []⟩).core) c

/-- The bins and counters of a workgroup's histogram (R422). -/
def Wg.histogram (w : Wg) : List Nat := (List.range 65).map (fun i => SMap.getD w.hist i 0) ++ (List.range 12).map fun i => SMap.getD w.reasons i 0

/-- R444: the busy cycles that a histogram holds: the ck in which a group was eligible. -/
def busyOf (hist : List Nat) : Nat := ((hist.take 65).drop 1).foldl (· + ·) 0

/-- Whether operations that a workgroup has started are still outstanding somewhere: engines, channel operations, orphans. -/
def State.outstanding (s : State) (u n : Nat) (killed : Bool) : Bool :=
  s.cores.any fun p =>
    (p.2.eng.any fun e => e.launch == u && e.wgno == n && e.killed == killed) ||
      (p.2.chanOps.any fun o => o.launch == (if killed then 2 ^ 64 + u else u) && o.wgno == n) ||
      p.2.orphans.any fun (o : Orphan) => o.launch == u && o.wgno == n && o.killed == killed

/-- R442: a launch completes while its trace is suspended, or before the gap record: the count waits for the next launch under the reference (log entry 102). -/
def State.keepDropped (s : State) (l : Launch) : State :=
  if s.trcOk l && (l.traceOff || l.gapDue) then
    { s with caps := s.caps.map fun k => if k.slot == capSlotNo l.rcd.trc then { k with lost := k.lost + l.dropped } else k }
  else s

/-- R427, R433: the workgroup has no dump still to be written. -/
def Wg.dumped (w : Wg) : Bool := match w.halt with | some h => !h.dumps || h.dumpDone || h.noSlot | none => true

/-- R420, R427, R433: a launch none of whose trackers holds anything completes; in a halting launch, saved workgroups whose dumps are written have nothing left to run
for. -/
def State.checkComplete (s : State) (u : Nat) : State :=
  match s.launch? u with
  | none => s
  | some l =>
    let savedDone := l.saved.all fun v => l.halting && !s.outstanding u v.wg.wgno false && v.wg.dumped
    if !(s.coresOf u).isEmpty || !savedDone || !l.killed.isEmpty || l.stat == .pending then s
    else
      let flags := l.saved.foldl (fun f v => v.wg.allGroups.foldl (fun f g => f ||| g.flags) (f ||| v.wg.flags)) l.flags
      let bytes := completionBytes (if l.code.isSome then 2 else 0) ((l.code.map (·.1)).getD 0) flags l.kills l.lid (if l.preDone then 1 else 0) l.nodump
      let left := l.left ++ l.saved.map fun v => ⟨v.wg.wgno, v.core, v.wg.histogram⟩
      let s := (s.keepDropped l).writeProfile { l with left := left }
      let s := s.modTenant l.tenant fun t => { t with busy := left.foldl (fun n v => n + busyOf v.hist) t.busy }
      let s := { s with launches := s.launches.filter fun q => q.uid != u }
      match (s.queue l.queue).pkts.find? fun (p : Pkt) => p.num == l.num with
      | some p => s.finishLaunch l.queue p l.done bytes
      | none => s

/-! ## How a workgroup starts (R45 to R47, R314, R293) -/

/-- R47: the stage of an initial group. -/
def stageOf : List Nat → Nat → Nat
  | [], _ => 0
  | n :: ns, g => if g < n then 0 else 1 + stageOf ns (g - n)

/-- R45, R46: thread slot j of workgroup w. -/
def startThread (r : LaunchRec) (w j : Nat) : Thread :=
  let tid := BitVec.ofNat 32 (w * r.t + j)
  { tid := tid, par := tid, root := tid, copy := 0, mr := 0, preds := 0, stage := stageOf r.sg (j / max r.w 1), stat := .running, arr := [], lease := none,
    weight := none, stopPc := 0 }

/-- R46: initial group g, with its uid. -/
def startGroup (r : LaunchRec) (uid g ck : Nat) : Group :=
  newGroup uid (stageOf r.sg g) ((List.range r.w).map fun i => g * r.w + i) r.entry 0 ck []

/-- R45 to R47, R314: a workgroup at launch start. -/
def startWg (l : Launch) (wgno gang gangNo rank uid0 ck : Nat) : Wg :=
  let r := l.rcd
  { launch := l.uid, wgno := wgno, gang := gang, gangNo := gangNo, rank := rank, gangSize := r.gangSize,
    threads := (List.range r.t).map fun j => (j, startThread r wgno j),
    groups := (List.range (r.t / max r.w 1)).map fun g => (g, startGroup r (uid0 + g) g ck),
    vregs := [], scratch := [], priv := [], spawn := [], meet := [], formedAt := none,
    phases := [(5, l.plazaPhase gang), (6, l.plazaPhase 64)], parked := [], flights := [], pend := [], ops := [], stageQ := [], subs := [], cbs := [],
    writers := [], chans := [], chains := [], orphaned := [], lost := [], inherited := [], stamped := false, parkArea := [], mtx := Mtx.start, log := [], replay := [], flags := 0, gen := 0, excs := [], halt := none,
    saving := false, retired := false, lastIssue := ck, fullAt := ck, undo := [], saveReason := 0, rewalk := [], hist := [], reasons := [] }

/-- A core takes a workgroup: an acquire drops what its L1 holds (R284, R267), its loop buffer is flushed, and it is at the hub's generation, or at that of the workgroup
if it was saved at a higher one (R395, R396). -/
def State.seat (s : State) (c ti : Nat) (w : Wg) (had : Nat) : State :=
  let ms := max (s.tenant ti).hubGen had
  let s := s.modCore c fun k => { k with wg := some w, l1 := [], loop := [], loopStale := false, ms := ms, haltMsg := false }
  s.modTenant ti fun t => { t with cut := t.cut.map fun k => { k with coresToMove := k.coresToMove.filter (· != c) } }

/-- A fresh workgroup of a launch takes a core, whose arrays are all at their start values (R314, R435): no unit of them is poisoned. -/
def State.startOn (s : State) (u c wgno gang gangNo rank : Nat) : State :=
  match s.launch? u with
  | none => s
  | some l =>
    let w := startWg l wgno gang gangNo rank s.nextId (s.core c).ck
    let s := { s with nextId := s.nextId + w.groups.length }
    ((s.seat c l.tenant w 0).setBadUnits c []).checkRetire c

/-! ## Admission (R410 to R412) -/

/-- R385, R413: a core for whose switched-out workgroup a launch has been pre-empted, and that is kept for it. -/
def State.claimed (s : State) (c : Nat) : Bool := s.launches.any fun l => l.stat == .resident && l.saved.any fun v => v.claim && v.core == c

/-- R412, R435, R455: a core is vacant: no workgroup is there, no killed gang waits for it, its island has its clock. -/
def State.coreVacant (s : State) (c : Nat) : Bool :=
  (s.wg? c).isNone && s.coreOn c && !s.launches.any fun l => l.killed.any fun k => k.members.any fun m => m.1 == c

/-- A core is free for any launch: it is vacant, and not kept for a workgroup that is to go on there. -/
def State.coreFree (s : State) (c : Nat) : Bool := s.coreVacant c && !s.claimed c

/-- R413: the launch that holds a core. -/
def State.holder (s : State) (c : Nat) : Option Launch :=
  (s.launchOf c).orElse fun _ => s.launches.find? fun l => l.killed.any fun k => k.members.any fun m => m.1 == c

/-- R413: the core is free, or held by a launch of strictly lower priority. -/
def State.coreYields (s : State) (prio c : Nat) : Bool :=
  s.coreFree c || (s.coreOn c && match s.holder c with | some l => decide (l.rcd.prio < prio) | none => false)

/-- R385: every fault record of a workgroup that was switched out has been answered: those of its log, of its engine operations, of its channels' operations. -/
def State.answeredOut (s : State) (v : Saved) : Bool :=
  v.wg.log.isEmpty && !s.cores.any fun p =>
    (p.2.eng.any fun e => e.launch == v.wg.launch && e.wgno == v.wg.wgno && e.fault.isSome) ||
      p.2.chanOps.any fun o => o.launch == v.wg.launch && o.wgno == v.wg.wgno && o.fault

/-- A saved workgroup goes on with its launch: one that was switched out, only once its faults are answered. -/
def State.resumes (s : State) (v : Saved) : Bool := v.reason == 0 || s.answeredOut v

/-- The gangs of a saved launch in ascending %gang: the gang, and the saved members. -/
def Launch.savedGangs (l : Launch) : List (Nat × List Saved) :=
  let gs := dedup ((sortBy (fun (a b : Saved) => decide (a.wg.gangNo < b.wg.gangNo)) l.saved).map fun v => v.wg.gang)
  gs.map fun g => (g, l.saved.filter fun v => v.wg.gang == g)

/-- R414: positions for gangs, each at the lowest first core that no earlier gang has taken, whose needed cores are all good. -/
def State.placeGangs (s : State) (good : Nat → Bool) (size : Nat) : List (Nat × List Saved) → List Nat → Option (List (Nat × Nat))
  | [], _ => some []
  | (g, vs) :: gs, taken =>
    match (List.range (Config.cores / size)).find? fun k => !taken.contains (k * size) && vs.all fun v => !s.resumes v || good (k * size + v.wg.rank) with
    | none => none
    | some k => (s.placeGangs good size gs (k * size :: taken)).map fun rest => (g, k * size) :: rest

/-- R414: the cores on which the members of a saved launch would go on: workgroup number and core. -/
def State.placement (s : State) (l : Launch) (good : Nat → Bool) : Option (List (Nat × Nat)) :=
  if l.rcd.reloc then
    (s.placeGangs good l.rcd.gangSize l.savedGangs []).map fun ps =>
      l.saved.map fun v => (v.wg.wgno, ((ps.find? fun p => p.1 == v.wg.gang).map (·.2)).getD 0 + v.wg.rank)
  else if l.saved.all fun v => !s.resumes v || good v.core then some (l.saved.map fun v => (v.wg.wgno, v.core))
  else none

/-- The launch could take its cores now. -/
def State.canTake (s : State) (l : Launch) : Bool :=
  match l.stat with
  | .pending => l.rcd.part.all s.coreFree && !(s.queue l.queue).halted
  | .saved => (s.placement l s.coreFree).isSome && l.killed.isEmpty
  | .resident => false

/-- R412, R413: of the launches that could take their cores, the highest priority, then the oldest. -/
def State.nextLaunch (s : State) : Option Launch :=
  minBy (fun (a b : Launch) => decide (b.rcd.prio < a.rcd.prio) || (a.rcd.prio == b.rcd.prio && decide (a.age < b.age))) (s.launches.filter s.canTake)

/-- R70, R408: the number of coordinates of a record. -/
def LaunchRec.extent (r : LaunchRec) : Nat := if r.dims = 0 then 0 else r.x * r.y * r.z

/-- A pending launch, as its packet names it. -/
def newLaunch (s : State) (qi ti : Nat) (p : Pkt) (r : LaunchRec) : Launch :=
  { uid := s.nextId, tenant := ti, lid := p.word 4, queue := qi, num := p.num, done := p.word 2, stat := .pending, rcd := r, recAddr := p.word 1,
    age := s.nextId, disp := ⟨r.extent, 0, 0, [], !r.stream, []⟩, kills := 0, flags := 0, nodump := 0, preDone := false, saved := [], left := [], code := none,
    halting := false, ending := false, mchecks := [], killed := [], lStepDone := false, step := [], plaza := [], traceOff := false, dropped := 0,
    gapDue := false, orphans := [], bankAt := [], undo := [] }

/-- R410: a launch that is refused completes at once. -/
def State.refuseLaunch (s : State) (qi : Nat) (p : Pkt) (cs : List Nat) : State :=
  let code := refusalCode s.free cs
  ((s.startPkt qi p).finishLaunch qi { p with started := true } (p.word 2) (completionBytes 1 code 0 0 (p.word 4) 0 0)).draw

/-- R402, R410: LAUNCH_PACKET: the record is checked; the launch becomes pending or is refused. -/
def execLaunchPacket (queue : Nat) (s : State) : Host.Outcome State Fault Refusal :=
  packet s queue 1 (fun p => p.zeros 5 7) (fun p => (p.word 1).toNat % 256 == 0 && !isWindow (p.word 1).toNat && (p.word 2).toNat % 32 == 0) fun p s =>
    let ti := (s.queue queue).tenant
    match s.readVa (s.tenant ti).cfg.asid (p.word 1).toNat 256 with
    | .error _ => s.haltAt queue 3
    | .ok bs =>
      let r := recordOf bs
      match s.refusals ti (p.word 4) none r with
      | [] => (({ s with launches := s.launches ++ [newLaunch s queue ti p r] }).holdPkt queue p).fresh
      | cs => s.refuseLaunch queue p cs

/-- R170: where the pages of a launch's constant banks stand at its start. -/
def State.bankPages (s : State) (l : Launch) : SMap Nat :=
  let asid := (s.tenant l.tenant).cfg.asid
  (List.range 4).foldl (fun m k =>
    let lo := (l.rcd.cbp.getD k 0).toNat
    let n := l.rcd.cbl.getD k 0
    if n = 0 then m
    else (List.range (pageOf (lo + n - 1) + 1 - pageOf lo)).foldl (fun m i =>
      let va := (pageOf lo + i) * 2 ^ 16
      match s.placeOf asid va needPlace with
      | .ok key => SMap.set m (pageOf va) key
      | .error _ => m) m) []

/-- R442: a new launch ends the suspension of the trace that its reference names: of other launches under it, and of its own first record, for what completed launches
dropped (log entry 102). -/
def State.traceAnew (s : State) (l : Launch) : State :=
  if !s.trcOk l then s
  else
    let n := capSlotNo l.rcd.trc
    let lost := ((s.capSlot? n).map (·.lost)).getD 0
    { s with
      caps := s.caps.map fun k => if k.slot == n then { k with lost := 0 } else k
      launches := s.launches.map fun q =>
        if q.uid == l.uid then (if lost = 0 then q else { q with gapDue := true, dropped := lost })
        else if q.traceOff && capSlotNo q.rcd.trc == n && q.tenant == l.tenant then { q with traceOff := false, gapDue := true } else q }

/-- R412, R46: the whole launch takes its cores. -/
def State.admitLaunch (s : State) (u : Nat) : State :=
  match s.launch? u with
  | none => s
  | some l =>
    let n := l.rcd.gangSize
    let s := (s.modLaunch u fun l => { l with bankAt := s.bankPages l, pin := some (Config.pinBase s.free, l.rcd.pinBytes) }).draw.traceAnew l
    ((List.range l.rcd.part.length).zip l.rcd.part).foldl (fun s p => s.startOn u p.2 p.1 (p.1 / n) (p.1 / n) (p.1 % n)) s

/-- R408, R412: LAUNCH_ADMISSION: the record is copied; a record that no longer passes R410 is refused. -/
def execLaunchAdmission (launch : Nat) (s : State) : Host.Outcome State Fault Refusal :=
  match s.launch? launch, (s.nextLaunch).map (·.uid) with
  | some l, some u =>
    if u != launch || l.stat != .pending then .next s
    else
      match (s.queue l.queue).pkts.find? fun (p : Pkt) => p.num == l.num with
      | none => .next s
      | some p =>
        match s.readVa (s.tenant l.tenant).cfg.asid l.recAddr.toNat 256 with
        | .error _ => .next (({ s with launches := s.launches.filter fun q => q.uid != launch }).haltAt l.queue 3)
        | .ok bs =>
          let r := recordOf bs
          match s.refusals l.tenant l.lid (some launch) r with
          | [] =>
            let s := s.modLaunch launch fun l =>
              { l with rcd := r, stat := .resident, disp := { l.disp with extent := r.extent + (l.disp.extent - l.rcd.extent), ended := l.disp.ended || !r.stream } }
            if r.part.all s.coreFree then .next (((s.startPkt l.queue p).admitLaunch launch).checkComplete launch)
            else .next (s.modLaunch launch fun l => { l with stat := .pending })
          | cs => .next (({ s with launches := s.launches.filter fun q => q.uid != launch }).refuseLaunch l.queue p cs)
  | _, _ => .next s

/-! ## Words of the matrix queue that are withdrawn (R341, R348, R426) -/

/-- R348, R426: the words of the matrix queue from the first that waits for its M set, or for room in q1: they are withdrawn. -/
def Mtx.withdrawn (x : Mtx) (room : MWord → Bool) : Option (List MWord) :=
  if x.gather then some (x.running.toList ++ x.queue)
  else
    match x.queue with
    | q :: qs => if x.running.isNone && (match q.instr with | .msideQ _ _ _ => !room q | _ => false) then some (q :: qs) else none
    | [] => none

/-- A word leaves the queue as if it had not issued: its group goes back to the earliest such word, with the counter and the handle as they were; a command
goes back to q0. -/
def State.withdrawWord (s : State) (c : Nat) (q : MWord) : State :=
  let s := match q.drain with | some id => s.dropEng id | none => s
  s.modWg c fun w =>
    let w := { w with pend := w.pend.filter fun p => p.1 != q.id }
    w.modUid q.uid fun g =>
      if q.fromQ0 then { g with ports := SMap.set g.ports 0 (q.vals ++ g.port 0) }
      else
        { g with
          hdr := q.hdr, wix := q.wix, fetched := false, tested := true, wait := none, mspmaId := none
          cts := if q.ct = 0 || g.mspmaId == some q.id then g.cts else SMap.set g.cts q.ct (g.ct q.ct - 1)
          handles := match q.drain with | some id => g.handles.filter fun p => p.2.id != id || p.2.done | none => g.handles }

/-- R348, R426, R341: words that wait for others are withdrawn, the latest first; the open pass is closed. -/
def State.settleMatrix (s : State) (c : Nat) : State :=
  match s.wg? c with
  | none => s
  | some w =>
    let room (q : MWord) : Bool := match q.instr, w.anyByUid q.uid with
      | .msideQ _ _ rows, some g => decide ((g.port 1).length + 2 * (rows.toNat + 1) ≤ 4)
      | _, _ => true
    let s := match w.mtx.withdrawn room with
      | some qs => (qs.reverse).foldl (fun (s : State) q => s.withdrawWord c q) (s.modMtx c fun x => { x with running := none, gather := false, queue := [] })
      | none => s
    match s.wg? c with
    | some w => if w.mtx.queue.isEmpty && w.mtx.running.isNone then s.comparePass c else s
    | none => s

/-! ## The retirement tracker (R79, R310, R349, R427) -/

/-- An access that a fault holds: in the log, or behind one that is (R385). -/
def Wg.faultHeld (w : Wg) (o : MemOp) : Bool := o.logged || (o.chan.isNone && o.lanes.all fun l => !l.isOpen || laneBlocked w o l)

/-- R426: a channelled atomic whose operation, or an earlier one of its session, has met a fault that is not answered. -/
def State.chanHeld (s : State) (c : Nat) (w : Wg) (o : MemOp) : Bool :=
  o.chan.isSome && (s.core c).chanOps.any fun p => p.launch == w.launch && p.wgno == w.wgno && p.op == o.id && decide (p.kind ≤ 3) &&
    (p.fault || ((s.core c).chanOps.takeWhile (·.id != p.id)).any fun q => q.sess == p.sess && q.fault)

/-- R426: the drain of a halted workgroup has ended: register writes, engine operations and matrix words. It waits for no read held behind an unanswered fault. -/
def State.drained (s : State) (c : Nat) (w : Wg) : Bool :=
  w.flights.isEmpty && !(w.ops.any fun o => !o.replied && !w.faultHeld o && !s.chanHeld c w o) &&
    !(((s.launchOf c).map (·.disp.reqs)).getD []).any (fun q => q.core == c && !q.blocked) &&
    !((s.core c).eng.any fun e => e.launch == w.launch && e.wgno == w.wgno && !e.killed && (match e.kind with
      | .copy _ _ => true | .gather _ => true | .mdrain _ => true | .drainChan _ _ => true | _ => false)) &&
    w.mtx.queue.isEmpty && w.mtx.running.isNone

/-- The work that a tracker records is done: the anonymous stream, the copy engine, the channels, and the matrix queue. -/
def State.trackerEmpty (s : State) (w : Wg) : Bool :=
  !(w.ops.any fun o => o.aop != .load && !o.acked) && !s.outstanding w.launch w.wgno false && w.mtx.queue.isEmpty && w.mtx.running.isNone

/-- R79, R310: the core leaves the launch; what sessions of the workgroup are still open, or resynchronise with nothing outstanding, close with SCL. -/
def State.leaveCore (s : State) (c : Nat) (w : Wg) : State :=
  let s := (w.sessions.filter fun p => p.2.2.state == .opened || p.2.2.state == .resync).foldl (fun s p => s.closeSess c p.2.2.openedAt) s
  let f := w.allGroups.foldl (fun f g => f ||| g.flags) w.flags
  let s := s.setWg c none
  s.modLaunch w.launch fun l => { l with left := l.left ++ [⟨w.wgno, c, w.histogram⟩], flags := l.flags ||| f }

/-- R413, R417: a pre-empted launch none of whose workgroups is resident any more is pending again. -/
def State.settleSaved (s : State) (u : Nat) : State :=
  if (s.coresOf u).isEmpty then s.modLaunch u fun l => if l.saved.any fun v => v.reason == 0 then { l with stat := .saved, preDone := false } else l else s

/-- R79, R310, R349, R426 to R428: RETIREMENT_TRACKER_EMPTY: a retirement that was held may take place, the sessions that have nothing outstanding close, and the core whose
tracker is empty leaves the launch. A halted workgroup leaves only in a launch that ends, once its dump is written. -/
def execRetirementTrackerEmpty (core : Nat) (s : State) : Host.Outcome State Fault Refusal :=
  let s := (s.checkRetire core).sweepSessions core
  let s := if ((s.wg? core).bind (·.halt)).isSome then s.settleMatrix core else s
  match s.wg? core, s.launchOf core with
  | some w, some l =>
    let may := match w.halt with
      | none => w.retired
      | some _ => l.halting && s.drained core w && w.dumped
    if !may || !s.trackerEmpty w then .next s
    else
      let s := s.comparePass core
      match s.wg? core, s.launchOf core with
      | some w, some l =>
        if l.mchecks.any fun m => m.1 == w.gang then .next s
        else .next (((s.leaveCore core w).settleSaved w.launch).checkComplete w.launch)
      | _, _ => .next s
  | _, _ => .next s

/-! ## Pre-emption and the save (R307, R348, R413 to R419) -/

/-- R413: every workgroup of a launch is told to stop. -/
def State.preempt (s : State) (u : Nat) : State :=
  let s := (s.coresOf u).foldl (fun s c => s.modWg c fun w => if w.retired then w else { w with saving := true, saveReason := 0 }) s
  s.modLaunch u fun l => { l with preDone := true, saved := l.saved.map fun v => { v with claim := false } }

/-- A pre-emption of the launch is under way. -/
def State.beingSaved (s : State) (u : Nat) : Bool :=
  (s.coresOf u).any fun c => match s.wg? c with | some w => w.saving && w.saveReason == 0 | none => false

/-- R413, R414: PREEMPTION: the launches of lower priority on the cores that a pending launch needs are pre-empted whole. -/
def execPreemption (launch : Nat) (s : State) : Host.Outcome State Fault Refusal :=
  match s.launch? launch with
  | none => .next s
  | some l =>
    if s.canTake l || l.stat == .resident then .next s
    else
      let cores : Option (List Nat) := if l.stat == .pending then (if l.rcd.part.all (s.coreYields l.rcd.prio) then some l.rcd.part else none)
        else (s.placement l (s.coreYields l.rcd.prio)).map fun ps => ps.map (·.2)
      match cores with
      | none => .next s
      | some cs => .next ((dedup (cs.filterMap fun c => (s.holder c).map (·.uid))).foldl State.preempt s)

/-- R415, R372, R267, R348: the core may write the image: the register writes and accesses under way have ended, but for what waits on faults. -/
def State.saveReady (s : State) (c : Nat) (w : Wg) (l : Launch) : Bool :=
  let stepping := l.step.any fun st => st.counts.any fun p => p.1 == c
  let opDone (o : MemOp) : Bool :=
    if o.chan.isSome then true
    else if o.aop == .load then o.replied || w.faultHeld o
    else (o.acked && o.replied) || (w.saveReason == 1 && w.faultHeld o)
  let requests := l.disp.reqs.any fun q => q.core == c && !q.blocked
  !stepping && w.flights.isEmpty && w.ops.all opDone && (w.saveReason == 1 || w.replay.isEmpty) && !requests &&
    !(s.core c).cacheOps.any (fun o => (w.groups.any fun p => p.2.uid == o.uid) || w.parked.any fun p => p.group.uid == o.uid) &&
    w.mtx.queue.isEmpty && w.mtx.running.isNone && w.mtx.passOpen.isNone

/-- R307: a session of the workgroup on a core stays in the channel engine as an orphan, which a workgroup that goes on later finds (R308). -/
def State.leaveOrphan (s : State) (c : Nat) (w : Wg) (k n : Nat) (x : Session) (killed : Bool) : State :=
  let o : Orphan := ⟨w.launch, w.wgno, k, n, x, s.streamOf c k x, killed⟩
  let s := s.modCore c fun q => { q with orphans := q.orphans ++ [o] }
  if killed then s
  else (s.modLaunch w.launch fun l => { l with orphans := l.orphans ++ [(w.wgno, k, x.openedAt)] }).modWg c fun w => { w with orphaned := dedup (k :: w.orphaned) }

/-- R307, R309: a session at a save or a kill: an open one with nothing outstanding or held closes with SCL; any other becomes an orphan. -/
def State.saveSession (s : State) (c : Nat) (w : Wg) (killed : Bool) (p : Nat × Nat × Session) : State :=
  let x := p.2.2
  if x.state == .severed then s
  else if x.state == .opened && (s.opsOf c x.openedAt).isEmpty then s.closeSess c x.openedAt
  else s.leaveOrphan c w p.1 p.2.1 x killed

/-- R307, R308: operations that wait at the source for earlier orphans stay with orphan sessions of their own, one for each channel and destination (of slot 0 where none is CLOSED),
which send them when those are done: the manual does not say what becomes of them at a second save (a choice of the model's: log entry 108). `made` are the sessions made so far. -/
def State.saveHeld (s : State) (c : Nat) (w : Wg) (made : List (Nat × Nat × Nat × Session)) : List ChanOp → State
  | [] => s
  | o :: os =>
    let join (s : State) (x : Session) : State :=
      s.modCore c fun q => { q with chanOps := q.chanOps.map fun p => if p.id == o.id then p.inSession (s.streamOf c o.chan x) x else p }
    if w.severedTo o.chan (o.dev, o.die) then State.saveHeld (s.discard [o]) c w made os
    else
      match made.find? fun m => m.1 == o.chan && m.2.1 == o.dev && m.2.2.1 == o.die with
      | some m => State.saveHeld (join s m.2.2.2) c w made os
      | none =>
        let n := ((List.range 4).find? fun n => (w.session o.chan n).state == .closed).getD 0
        let x := (w.openSession o.chan n (o.dev, o.die) s.nextId).session o.chan n
        State.saveHeld ((join s.fresh x).leaveOrphan c w o.chan n x false) c w ((o.chan, o.dev, o.die, x) :: made) os

/-- R307: the sessions of the workgroup on a core at its save. -/
def State.saveSessions (s : State) (c : Nat) (w : Wg) (killed : Bool) : State :=
  let held := (s.core c).chanOps.filter fun o => o.sess.isNone && o.launch == w.launch && o.wgno == w.wgno
  (w.sessions.foldl (fun s p => s.saveSession c w killed p) s).saveHeld c w [] held

/-- R61, R415: a group as it is saved: what it has asked for without effect is withdrawn. -/
def Group.stored (g : Group) : Group := { g with fetched := false, wait := none, monitor := none, wix := if g.tested then g.wix else 0 }

/-- R415 to R419, R428: CONTEXT_SAVE. -/
def execContextSave (core : Nat) (s : State) : Host.Outcome State Fault Refusal :=
  match s.wg? core with
  | none => .next s
  | some w0 =>
    if !w0.saving || w0.retired then .next s
    else
      let s := s.settleMatrix core
      match s.wg? core, s.launchOf core with
      | some w, some l =>
        if !s.saveReady core w l then .next s
        else
          let drop := (l.disp.reqs.filter fun (q : FetchReq) => q.core == core).map fun (q : FetchReq) => q.id
          let s := s.modLaunch l.uid fun l => { l with disp := { l.disp with reqs := l.disp.reqs.filter fun q => q.core != core } }
          let s := s.saveSessions core w false
          let w := (s.wg? core).getD w
          let chains := s.pruneChains w
          let w := { w with
            saving := false
            chains := chains
            savedMasks := (w.savedMasks.filter fun h => w.orphaned.contains h.1) ++ chains.map fun h => (h.later, h.mask)
            halt := w.halt.map fun h => { h with ck := none }
            kept := []
            groups := w.groups.map fun p => (p.1, p.2.stored)
            pend := w.pend.filter fun p => !drop.contains p.1
            cbs := w.cbs.map fun p => (p.1, { p.2 with waiters := [] })
            spawn := w.spawn.map fun p => (p.1, { p.2 with aged := p.2.age (s.core core).ck, written := (s.core core).ck })
          }
          let v : Saved := { wg := w, core := core, ms := (s.core core).ms, reason := w.saveReason, pending := w0.kept, bad := s.badUnits core }
          let s := (s.setWg core none).modLaunch l.uid fun l => { l with saved := l.saved ++ [v], preDone := false }
          .next (s.settleSaved l.uid)
      | _, _ => .next s

/-! ## The resume (R244, R267, R308, R385, R414, R428) -/

/-- A saved workgroup goes on at a core. Its groups count as waiting since the ck of the resume (log entry 5). -/
def State.restore (s : State) (u c gangNo : Nat) (v : Saved) : State :=
  match s.launch? u with
  | none => s
  | some l =>
    let ck := (s.core c).ck
    let w := { v.wg with
      gangNo := gangNo
      phases := SMap.set (SMap.set v.wg.phases 5 (l.plazaPhase v.wg.gang)) 6 (l.plazaPhase 64)
      subs := v.wg.subs.map fun p => (p.1, { p.2 with filled := false, refill := true, since := l.undo.length })
      groups := v.wg.groups.map fun p => (p.1, { p.2 with since := ck, lastIssue := ck, notBefore := ck })
      parked := v.wg.parked.map fun p => { p with parkedAt := ck, group := { p.group with notBefore := ck } }
      spawn := v.wg.spawn.map fun p => (p.1, { p.2 with written := ck, aged := p.2.aged })
      lastIssue := ck
      fullAt := ck
      formedAt := none
      rewalk := if v.reason = 1 then (v.wg.ops.filter fun o => o.lanes.any fun q => q.stat == .retry).map (·.id) else [] }
    let s := s.modLaunch u fun l => { l with saved := l.saved.filter fun q => q.wg.wgno != v.wg.wgno }
    let s := ((s.seat c l.tenant w v.ms).setBadUnits c v.bad).modCore c fun k => { k with haltMsg := l.halting }
    v.pending.foldl (fun s e => s.raise c e) s

/-- R414: LAUNCH_RESUME: the launch goes on, whole. A workgroup switched out under R385 whose faults are not all answered stays out, at its place. -/
def execLaunchResume (launch : Nat) (s : State) : Host.Outcome State Fault Refusal :=
  match s.launch? launch, (s.nextLaunch).map (·.uid) with
  | some l, some u =>
    if u != launch || l.stat != .saved then .next s
    else
      match s.placement l s.coreFree with
      | none => .next s
      | some ps =>
        let at? (v : Saved) : Nat := ((ps.find? fun p => p.1 == v.wg.wgno).map (·.2)).getD v.core
        let size := l.rcd.gangSize
        let bases := sortBy (fun (a b : Nat) => decide (a < b)) (dedup (l.saved.map fun v => at? v / size))
        let gangNo (v : Saved) : Nat := if l.rcd.reloc then (bases.findIdx? (· == at? v / size)).getD v.wg.gangNo else v.wg.gangNo
        let s := s.modLaunch launch fun l => { l with stat := .resident }
        .next (l.saved.foldl (fun s v =>
          if s.resumes v then s.restore launch (at? v) (gangNo v) v
          else s.modSaved launch v.wg.wgno fun v => { v with core := at? v, wg := { v.wg with gangNo := gangNo v } }) s)
  | _, _ => .next s

/-- R385, R413, R414: FAULT_RESUME: a workgroup whose faults are answered goes on at its own core; a launch that holds the core is pre-empted first, and the core is kept. -/
def execFaultResume (launch wgno : Nat) (s : State) : Host.Outcome State Fault Refusal :=
  match s.launch? launch with
  | none => .next s
  | some l =>
    match l.saved.find? fun v => v.wg.wgno == wgno && v.reason == 1 with
    | none => .next s
    | some v =>
      if !s.answeredOut v || l.stat != .resident || s.beingSaved launch then .next s
      else if s.coreFree v.core || (v.claim && s.coreVacant v.core) then .next (s.restore launch v.core v.wg.gangNo v)
      else
        match s.holder v.core with
        | some h => if h.uid = launch then .next s else .next ((s.preempt h.uid).modSaved launch wgno fun v => { v with claim := true })
        | none => .next s

/-! ## Debug events (R440) -/

/-- R440: the 32 bytes of an event. -/
def eventBytes (event flags : Nat) (l : Launch) (w : Wg) (h : Halt) : List Byte :=
  b1 event ++ b1 flags ++ b2 h.nested ++ b4 w.wgno ++ w8 l.lid ++ b2 h.core ++ b1 w.rank ++ b1 h.reason ++ b4 h.code ++ b8 (h.slot.getD 0)

/-- R440: an event under a valid debug capability goes into the ring that the capability names, and the tenant's interrupt is raised. The ring begins with its
two indices, as a trace ring does (log entry 20); an event that finds it full, or unreachable, is dropped. -/
def State.debugEvent (s : State) (l : Launch) (w : Wg) (h : Halt) (event flags : Nat) : State :=
  if !s.dbgOk l then s
  else
    match s.capSlot? (capSlotNo l.rcd.dbg) with
    | none => s
    | some k =>
      match s.readVa (s.tenant l.tenant).cfg.asid k.buf 16 with
      | .error _ => s
      | .ok bs =>
        let wi := bytesToNat (bs.take 8)
        if k.entries < wi - bytesToNat (bs.drop 8) + 1 then s
        else
          match s.hubWrite l.tenant (k.buf + 64 + 32 * (wi % max k.entries 1)) (eventBytes event flags l w h) with
          | (s, some _) => s
          | (s, none) => ((s.hubWrite l.tenant k.buf (natToBytes 8 (wi + 1))).1).interrupt l.tenant

/-- R440: a halt that ends before its dump has a slot has its event then, with no slot. -/
def State.announce (s : State) (l : Launch) (w : Wg) : State :=
  match w.halt with
  | some h => if h.dumps && h.slot.isNone && !h.noSlot then s.debugEvent l w h 0 0 else s
  | none => s

/-! ## Halts, kills and relaunches (R427, R434 to R436) -/

/-- R427, R440: HALT_BROADCAST_RECEIVE: a workgroup of a launch that ends halts, without a dump. Where a debug command ended the launch, its capability is valid and the
halt has its event. -/
def execHaltBroadcastReceive (core : Nat) (s : State) : Host.Outcome State Fault Refusal :=
  if !(s.core core).haltMsg then .next s
  else
    let s := s.modCore core fun k => { k with haltMsg := false }
    match s.wg? core, s.launchOf core with
    | some w, some l =>
      if w.halt.isNone && !w.retired then
        let h := s.newHalt core 2 0 false
        .next ((s.setWg core (some { w with halt := some h })).debugEvent l w h 0 0)
      else .next s
    | _, _ => .next s

/-- R74: the leases of a workgroup. -/
def Wg.leases (w : Wg) : List Nat := (w.threads.filterMap fun p => p.2.lease.map (·.toNat)) ++ w.allGroups.filterMap fun g => g.lease.map (·.toNat)

/-- R434: what runs on of a killed workgroup is cut off from it; a part of a channelled copy that no packet carries is discarded. -/
def State.cutOff (s : State) (u n : Nat) : State :=
  { s with cores := s.cores.map fun (p : Nat × Core) => (p.1, { p.2 with
      chanOps := (p.2.chanOps.filter fun o => !(o.launch == u && o.wgno == n && o.seq.isNone)).map fun o =>
        if o.launch == u && o.wgno == n then { o with launch := 2 ^ 64 + u } else o
      eng := (p.2.eng.filter fun e => !(e.launch == u && e.wgno == n && (match e.kind with
        | .subscribe _ => true
        | .mdrain d => d.elems.isNone
        | _ => false))).map fun e =>
        if e.launch == u && e.wgno == n then
          { e with killed := true, cancelled := e.cancelled || (match e.kind with | .copy d _ => d.chan.isSome | _ => false) } else e }) }

/-- R309, R434: the sessions of a killed workgroup: those with packets outstanding become orphans, the others close. -/
def State.killSessions (s : State) (c : Nat) (w : Wg) : State :=
  s.saveSessions c w true

/-- R309: the orphan sessions of a killed workgroup run on; those of a workgroup saved earlier too, but nothing of them is told any more. -/
def State.killOrphans (s : State) (u n : Nat) : State :=
  let s := { s with cores := s.cores.map fun (p : Nat × Core) =>
    (p.1, { p.2 with orphans := p.2.orphans.map fun (o : Orphan) => if o.launch == u && o.wgno == n then { o with killed := true } else o }) }
  s.modLaunch u fun l => { l with orphans := l.orphans.filter fun o => o.1 != n }

/-- R434, R454: with the kill of a workgroup, fault records of its core that no other workgroup, engine or channel operation waits for are moot. -/
def State.dropMoot (s : State) (ti c u n : Nat) : State :=
  let asid := (s.tenant ti).cfg.asid
  let others := (s.faultOwners asid c).filter fun p => p != (u, n)
  let awaited (r : FRec) : Bool := r.core != c || r.asid != asid || r.depot ||
    (others.any fun p => match s.owner? p.1 p.2 with | some v => !(v.pageEntries (r.va / 2 ^ 16)).isEmpty | none => false) ||
    (s.core c).eng.any (fun e => e.fault == some (r.va / 2 ^ 16)) || (s.core c).chanOps.any fun o => o.atPage asid (r.va / 2 ^ 16)
  s.modTenant ti fun t => { t with unanswered := t.unanswered.filter awaited }

/-- R402: the DUMP_RESUME packets of a workgroup complete with its dump. -/
def State.endDumpPkts (s : State) (ti : Nat) (lid : Word64) (wgno : Nat) : State :=
  s.queues.foldl (fun s q =>
    if q.2.tenant != ti then s
    else (q.2.pkts.filter fun (p : Pkt) => p.ty == 8 && p.started && p.word 1 == lid && p.low 2 == wgno).foldl (fun s p => s.completePkt q.1 p) s) s

/-- The header of the dump of a workgroup. -/
def State.dumpHead (s : State) (l : Launch) (w : Wg) (code : Nat) (h : Halt) : List Byte := dumpHeader l w (s.tenant l.tenant).cfg.slotSize code h

/-- R428: the kill of a halted workgroup stops its dump, whose header takes the machine check's code. -/
def State.killDump (s : State) (l : Launch) (w : Wg) (code : Nat) : State :=
  match w.halt with
  | none => s
  | some h =>
    let s := s.announce l w
    match h.slot, h.place with
    | some va, some _ =>
      if h.dumpDone then s else ((s.hubWrite l.tenant va (s.dumpHead l w code { h with stopped := true })).1).endDumpPkts l.tenant l.lid w.wgno
    | _, _ => s.endDumpPkts l.tenant l.lid w.wgno

/-- R434: one workgroup dies at its core. -/
def State.killAt (s : State) (u ti c : Nat) (w : Wg) (resident : Bool) : State :=
  let s := s.cutOff u w.wgno
  let s := (if resident then (s.killSessions c w).setWg c none else s).killOrphans u w.wgno
  let s := s.modIsland (islandOf c) fun i => { i with waiters := i.waiters.filter fun a => a.core != c }
  let s := s.modLaunch u fun l => { l with disp := { l.disp with
    reqs := l.disp.reqs.filter fun q => q.core != c
    returned := sortBy (fun (a b : Nat) => decide (a < b)) (l.disp.returned ++ w.leases) } }
  s.dropMoot ti c u w.wgno

/-- What remains of a killed workgroup: its scratchpad and buffers, for the engine operations that run on. -/
def Wg.remains (w : Wg) : Wg :=
  { w with threads := [], groups := [], vregs := [], priv := [], spawn := [], meet := [], parked := [], flights := [], pend := [], ops := [], subs := [],
           chans := [], chains := [], mtx := Mtx.start, log := [], replay := [], excs := [], halt := none, undo := [] }

/-- R373: the launch holds an arrival at a RESAMPLE.L, or a step of it. -/
def State.lArrived (s : State) (u : Nat) : Bool :=
  ((s.launch? u).map fun l => l.step.any fun p => !p.gangForm).getD false ||
    (s.wgsOf u).any fun w => w.allGroups.any fun g => match g.resN with | some a => !a.gangForm | none => false

/-- R427, R436: the launch ends with a code: its other workgroups hear of it. -/
def State.endLaunch (s : State) (u c code : Nat) : State := s.haltLaunch c u code

/-- R373, R444: RESAMPLE_ABORTED ends the launch. -/
def State.abortResample (s : State) (l : Launch) (c : Nat) : State := (s.endLaunch l.uid c cResampleAborted).reportClass l c cResampleAborted

/-- R434, R436, R373: GANG_KILL. -/
def execGangKill (launch gang : Nat) (s : State) : Host.Outcome State Fault Refusal :=
  match s.launch? launch with
  | none => .next s
  | some l =>
    match l.mchecks.find? fun m => m.1 == gang with
    | none => .next s
    | some (_, code) =>
      let here := (s.gangCores launch gang).filterMap fun c => (s.wg? c).map fun w => (c, w, true)
      let out := (l.saved.filter fun v => v.wg.gang == gang).map fun v => (v.core, v.wg, false)
      let ms := here ++ out
      let abort := s.lArrived launch
      let fails := (s.tenant l.tenant).tight && Config.reservationFails s.free
      let s := ms.foldl (fun s m => (s.killDump l m.2.1 code).killAt launch l.tenant m.1 m.2.1 m.2.2) s.draw
      let kg : KilledGang := { gang := gang, gangNo := ((ms.map fun m => m.2.1.gangNo).head?).getD 0, code := code, members := ms.map fun m => (m.1, m.2.1.remains) }
      let s := s.modLaunch launch fun l =>
        { l with
          mchecks := l.mchecks.filter fun m => m.1 != gang
          saved := l.saved.filter fun v => v.wg.gang != gang
          step := l.step.filter fun p => p.gangForm && p.gang != gang
          killed := if ms.isEmpty then l.killed else l.killed ++ [kg]
          flags := ms.foldl (fun f m => m.2.1.allGroups.foldl (fun f g => f ||| g.flags) (f ||| m.2.1.flags)) l.flags }
      let c0 := ((ms.map fun m => m.1).head?).getD 0
      let s := s.settlePlaza launch
      if ms.isEmpty || l.halting then .next s
      else if abort then .next (s.abortResample l c0)
      else if 16 ≤ l.kills + l.killed.length || l.lStepDone || fails then .next (s.endLaunch launch c0 code)
      else .next s

/-- R435: GANG_RELAUNCH: once nothing of the killed workgroups runs, the gang starts again; in a launch that ends, its cores are freed. -/
def execGangRelaunch (launch gang : Nat) (s : State) : Host.Outcome State Fault Refusal :=
  match s.launch? launch with
  | none => .next s
  | some l =>
    match l.killed.find? fun k => k.gang == gang with
    | none => .next s
    | some k =>
      if k.members.any fun m => s.outstanding launch m.2.wgno true then .next s
      else
        let away := l.stat == .saved || s.beingSaved launch
        let gone := s.modLaunch launch fun l => { l with killed := l.killed.filter fun q => q.gang != gang }
        if l.halting then
          .next ((gone.modLaunch launch fun l => { l with left := l.left ++ k.members.map fun m => ⟨m.2.wgno, m.1, m.2.histogram⟩ }).checkComplete launch)
        else if !away && !k.members.all (fun m => gone.coreFree m.1) then .next s
        else
          let s := (gone.modLaunch launch fun l => { l with kills := l.kills + 1 }).modTenant l.tenant fun t =>
            { t with busy := k.members.foldl (fun n m => n + busyOf m.2.histogram) t.busy }
          if away then
            .next ((k.members.foldl (fun s m => match s.launch? launch with
              | none => s
              | some l =>
                let w := startWg l m.2.wgno gang k.gangNo m.2.rank s.nextId (s.core m.1).ck
                let v : Saved := { wg := w, core := m.1, ms := (s.tenant l.tenant).hubGen, reason := 0, pending := [] }
                { (s.modLaunch launch fun l => { l with saved := l.saved ++ [v] }) with nextId := s.nextId + w.groups.length }) s).settleSaved launch)
          else .next (k.members.foldl (fun s m => s.startOn launch m.1 m.2.wgno gang k.gangNo m.2.rank) s)

end Sys2Proof.Machine
end

