-- ==== Sys2Proof/Machine/Packets.lean ====
section
/-! DEFINITION. The doorbell (R401), the packets NOP, WAIT, SIGNAL, COPY, APPEND and DUMP_RESUME (R402 to R407, R72, R433), unassigned types (R403), and mapping,
resetting and unmapping a queue (R453). -/

namespace Sys2Proof.Machine

open Sys2Proof

/-! ## The doorbell (R401) -/

/-- R401: QUEUE_DOORBELL. A write of 32 bits is discarded, and so is one to an unmapped queue (R453). -/
def execQueueDoorbell (queue : Nat) (value : BitVec 64) (wide : Bool) (s : State) : Host.Outcome State Fault Refusal :=
  let q := s.queue queue
  if !wide || !q.mapped || q.unmapping || !s.ready || decide (value.toNat ≤ q.writeIx) then .next s
  else if q.readIx + 2 ^ q.log < value.toNat then .next (s.haltQueue queue 6 q.base q.writeIx)
  else .next (s.modQueue queue fun q => { q with writeIx := value.toNat })

/-! ## NOP and unassigned types -/

def execNopPacket (queue : Nat) (s : State) : Host.Outcome State Fault Refusal :=
  packet s queue 0 (fun p => p.zeros 1 6) (fun _ => true) fun p s => s.runPkt queue p

/-- R403: UNASSIGNED_PACKET. -/
def execUnassignedPacket (queue : Nat) (s : State) : Host.Outcome State Fault Refusal :=
  match s.headPkt queue with
  | some (.ok p) => if 9 ≤ p.ty then .next (s.haltAt queue 0) else .next s
  | some (.error c) => .next (s.haltAt queue c)
  | none => .next s

/-! ## WAIT and SIGNAL (R407) -/

def Pkt.tokenKind (p : Pkt) : Bool := p.low 3 % 2 == 1
def Pkt.wide (p : Pkt) : Bool := bits (p.low 3) 3 3 == 1

/-- R406, R407: the reserved bits of the mode. SIGNAL has no field at bit 2. -/
def waitResv (signal : Bool) (p : Pkt) : Bool := bits (p.low 3) 31 4 == 0 && p.high 3 == 0 && p.zeros 4 6 && (!signal || bits (p.low 3) 2 2 == 0)

/-- R406, R407: the legal values. -/
def waitLegal (p : Pkt) : Bool :=
  (if p.tokenKind then p.wide && bits (p.word 1).toNat 63 12 == 0 else (p.word 1).toNat % 8 == 0) && (p.wide || p.high 2 == 0)

/-- R407: the condition of a WAIT. -/
def waitCond (cond v cmp : Nat) : Bool := match cond with | 0 => v == cmp | 1 => v != cmp | 2 => decide (cmp ≤ v) | _ => decide (v < cmp)

/-- What a look at a WAIT finds: its value, an error with its cause, or a line that is moving. -/
def State.waitLook (s : State) (qi : Nat) (p : Pkt) : State × Except (Option Nat) Bool :=
  let ti := (s.queue qi).tenant
  let cond := bits (p.low 3) 2 1
  if p.tokenKind then
    let n := (p.word 1).toNat
    if n = 0xFFF then (s, .error (some 3)) else (s, .ok (waitCond cond (s.token ti n).toNat (p.word 2).toNat))
  else if !hubAddr (p.word 1).toNat then (s, .error (some 3))
  else
    match (s.hubHearHome ti (p.word 1).toNat).readRun (s.tenant ti).cfg.asid (p.word 1).toNat (if p.wide then 8 else 4) with
    | (s, .ok bs) => (s, .ok (waitCond cond (bytesToNat bs) (p.word 2).toNat))
    | (_, .error .wait) => (s, .error none)
    | (_, .error _) => (s, .error (some 3))

/-- R407, R402: WAIT_PACKET: the queue stands at the packet until its condition holds. -/
def execWaitPacket (queue : Nat) (s : State) : Host.Outcome State Fault Refusal :=
  packet s queue 2 (waitResv false) waitLegal fun p s =>
    match s.waitLook queue p with
    | (s, .error none) => s
    | (s, .error (some c)) => s.haltAt queue c
    | (s, .ok true) => s.runPkt queue p
    | (s, .ok false) => s.holdPkt queue p

/-- R402: WAIT_CONDITION_MET: a packet that waits looks again. -/
def execWaitConditionMet (queue : Nat) (s : State) : Host.Outcome State Fault Refusal :=
  let q := s.queue queue
  match q.pkts.find? fun (p : Pkt) => !p.started && p.ty == 2 with
  | none => .next s
  | some p =>
    if q.halted || q.unmapping then .next s
    else
      match s.waitLook queue p with
      | (s, .error none) => .next s
      | (s, .error (some c)) => .next (s.haltAt queue c)
      | (s, .ok true) => .next (s.runPkt queue p)
      | (s, .ok false) => .next s

/-- R407: SIGNAL_PACKET. -/
def execSignalPacket (queue : Nat) (s : State) : Host.Outcome State Fault Refusal :=
  packet s queue 3 (waitResv true) waitLegal fun p s =>
    let ti := (s.queue queue).tenant
    let add := bits (p.low 3) 1 1 == 1
    let v := p.word 2
    if p.tokenKind then
      let n := (p.word 1).toNat
      if n = 0xFFF then s.haltAt queue 3
      else (s.setToken ti n (if add then s.token ti n + v else v)).runPkt queue p
    else if !hubAddr (p.word 1).toNat then s.haltAt queue 3
    else
      let n := if p.wide then 8 else 4
      let asid := (s.tenant ti).cfg.asid
      let old : State × Except EngStop (List Byte) := if add then s.readRun asid (p.word 1).toNat n else (s, .ok [])
      match old with
      | (_, .error .wait) => s
      | (_, .error _) => s.haltAt queue 3
      | (s1, .ok bs) =>
        let s1 := s1.hubHearHome ti (p.word 1).toNat
        match s1.writeRun asid (p.word 1).toNat (s1.tenant ti).hubGen (natToBytes n (bytesToNat bs + v.toNat)) with
        | (s2, none) => s2.runPkt queue p
        | (_, some .wait) => s
        | (_, some _) => s.haltAt queue 3

/-! ## COPY (R407, R252) -/

/-- R402: COPY_PACKET: the hub's copy engine takes the packet. -/
def execCopyPacket (queue : Nat) (s : State) : Host.Outcome State Fault Refusal :=
  packet s queue 4 (fun p => p.zeros 4 6) (fun p => !isWindow (p.word 1).toNat && !isWindow (p.word 2).toNat) fun p s => s.startPkt queue p

/-- The pieces of a copy, each in a 32-byte unit of the destination, up to what stops it, and whether a write met it. -/
def State.hubPiecesCopy (s : State) (ti src dst : Nat) : List (Nat × List Byte) → EngRun
  | [] => (s, none)
  | (va, p) :: ps =>
    let from_ := src + (va - dst)
    if !hubAddr from_ || !hubAddr (from_ + p.length - 1) then (s, some (.status cAddrFault, false))
    else if !hubAddr va then (s, some (.status cAddrFault, true))
    else
      let asid := (s.tenant ti).cfg.asid
      match (s.hubHearHome ti from_).readRun asid from_ p.length with
      | (s, .error k) => (s, some (k, false))
      | (s, .ok bs) =>
        let s := s.hubHearHome ti va
        match s.writeRun asid va (s.tenant ti).hubGen bs with
        | (s, some k) => (s, some (k, true))
        | (s, none) => State.hubPiecesCopy s ti src dst ps

/-- R407: `n` bytes of a tenant from one place to another, each write tagged with the hub's generation (R395, R396). -/
def State.hubCopy (s : State) (ti src dst n : Nat) : EngRun := s.hubPiecesCopy ti src dst (unitPieces dst (List.replicate n 0))

/-- A change of a packet that has started. -/
def State.modPkt (s : State) (qi num : Nat) (f : Pkt → Pkt) : State :=
  s.modQueue qi fun q => { q with pkts := q.pkts.map fun (p : Pkt) => if p.num == num then f p else p }

/-- R402: HUB_COPY_COMPLETE: the copy is performed whole and the packet completes, with or without an error; a translation fault is reported, and the
copy waits for its answer. -/
def execHubCopyComplete (queue num : Nat) (s : State) : Host.Outcome State Fault Refusal :=
  match (s.queue queue).pkts.find? fun (p : Pkt) => p.num == num && p.started && p.ty == 4 with
  | none => .next s
  | some p =>
    if p.fault.isSome then .next s
    else
      let ti := (s.queue queue).tenant
      let asid := (s.tenant ti).cfg.asid
      match s.hubCopy ti (p.word 1).toNat (p.word 2).toNat (p.word 3).toNat with
      | (s', none) => .next (s'.completePkt queue p)
      | (s', some (.status _, _)) => .next (s'.completePkt queue p)
      | (_, some (.wait, _)) => .next s
      | (s', some (.fault va k, write)) =>
        if p.refused.isSome then .next (s'.completePkt queue p)
        else
          .next ((s'.modPkt queue num fun p => { p with fault := some (pageOf va) }).reportFault ti va asid hubCore (if write then 5 else 4) k)

/-! ## APPEND (R72) -/

/-- R72: APPEND_PACKET. -/
def execAppendPacket (queue : Nat) (s : State) : Host.Outcome State Fault Refusal :=
  packet s queue 7 (fun p => bits (p.high 2) 31 1 == 0 && p.zeros 3 6) (fun _ => true) fun p s =>
    let ti := (s.queue queue).tenant
    match s.launches.find? fun l => l.tenant == ti && l.lid == p.word 1 && l.rcd.stream with
    | none => s.haltAt queue 4
    | some l =>
      if l.disp.ended || decide (2 ^ 32 - 1 < l.disp.extent + p.low 2) then s.haltAt queue 4
      else
        let s := s.modLaunch l.uid fun l =>
          { l with disp := { l.disp with extent := l.disp.extent + p.low 2, ended := p.high 2 % 2 == 1 } }
        s.runPkt queue p

/-! ## DUMP_RESUME (R433) -/

/-- A launch of a tenant by its id. -/
def State.launchByLid (s : State) (ti : Nat) (lid : Word64) : Option Launch := s.launches.find? fun l => l.tenant == ti && l.lid == lid

/-- R433: DUMP_RESUME_PACKET: a stopped dump goes on. -/
def execDumpResumePacket (queue : Nat) (s : State) : Host.Outcome State Fault Refusal :=
  packet s queue 8 (fun p => p.high 2 == 0 && p.zeros 3 6) (fun _ => true) fun p s =>
    match s.launchByLid (s.queue queue).tenant (p.word 1) with
    | none => s.haltAt queue 5
    | some l =>
      match (s.owner? l.uid (p.low 2)).bind fun w => w.halt with
      | none => s.haltAt queue 5
      | some h =>
        if !h.stopped then s.haltAt queue 5
        else (s.startPkt queue p).modOwner l.uid (p.low 2) fun w => { w with halt := w.halt.map fun h => { h with stopped := false } }

/-! ## Mapping, resetting and unmapping (R453) -/

/-- R452, R453, R476: a refused write of a tenant or queue entry. -/
def State.refuseEntry (s : State) : State := { s with security := s.security ||| 0x80000000 }

/-- R453: a queue is mapped, or the write is refused. -/
def State.mapQueue (s : State) (queue tenant log base : Nat) : State :=
  if !s.ready || decide (64 ≤ queue) then s
  else if (s.queue queue).mapped || !(s.tenant tenant).live || decide (log < 4) || decide (16 < log) || base % (64 * 2 ^ log) != 0 then s.refuseEntry
  else s.setQueue queue
    { mapped := true, tenant := tenant, log := log, base := base, readIx := 0, writeIx := 0, halted := false, unmapping := false, pkts := [], resetting := false }

/-- R453: QUEUE_MAP. -/
def execQueueMap (queue tenant log base : Nat) (s : State) : Host.Outcome State Fault Refusal := .next (s.mapQueue queue tenant log base)

/-- R403, R453: every packet that has not started is discarded, a launch that waits for its admission with it. -/
def State.discardUnstarted (s : State) (qi : Nat) : State :=
  let s := { s with launches := s.launches.filter fun l => !(l.queue == qi && l.stat == LStat.pending &&
    (s.queue qi).pkts.any fun (p : Pkt) => p.num == l.num && !p.started) }
  s.modQueue qi fun q => { q with pkts := q.pkts.filter (·.started), readIx := q.writeIx }

/-- R403, R453: a queue is reset: what has not started is discarded, and the queue goes on once what has started is complete. -/
def State.resetQueue (s : State) (qi : Nat) : State :=
  if !(s.queue qi).mapped || (s.queue qi).unmapping then s
  else ((s.discardUnstarted qi).modQueue qi fun q => { q with halted := false, resetting := true }).settleUnmap qi

/-- R453: a queue is unmapped. -/
def State.unmapQueue (s : State) (qi : Nat) : State :=
  if !(s.queue qi).mapped then s
  else ((s.discardUnstarted qi).modQueue qi fun q => { q with unmapping := true }).settleUnmap qi

/-- R403, R453: QUEUE_RESET. -/
def execQueueReset (queue : Nat) (s : State) : Host.Outcome State Fault Refusal := .next (s.resetQueue queue)

/-- R453: QUEUE_UNMAP. -/
def execQueueUnmap (queue : Nat) (s : State) : Host.Outcome State Fault Refusal := .next (s.unmapQueue queue)

end Sys2Proof.Machine
end

