-- ==== Sys2Proof/Machine/Dump.lean ====
section
/-! DEFINITION. Dumps and debug events (R426, R429 to R433, R440): the step DUMP_WRITE. -/

namespace Sys2Proof.Machine

open Sys2Proof

/-! ## The slot (R429) -/

/-- The slots of a tenant's dump area that dumps under way have taken. -/
def State.slotsInUse (s : State) (ti : Nat) : List Nat :=
  let take (w : Wg) : List Nat := match w.halt with
    | some h => if h.dumpDone then [] else h.slot.toList
    | none => []
  s.launches.flatMap fun l => if l.tenant == ti then (s.coresOf l.uid).flatMap (fun c => ((s.wg? c).map take).getD []) ++ l.saved.flatMap fun v => take v.wg else []

/-- R429: the next free slot, in ascending order: one whose magic word is zero. A slot that cannot be read is free: the header's first write then
faults (R433). -/
def State.freeSlot (s : State) (ti : Nat) : Option Nat :=
  let cfg := (s.tenant ti).cfg
  ((List.range cfg.slotCount).map fun i => cfg.dump + i * cfg.slotSize).find? fun va =>
    !(s.slotsInUse ti).contains va && (match s.readVa cfg.asid va 4 with | .ok bs => bytesToNat bs == 0 | .error _ => true)

/-! ## Writing (R429, R433) -/

def State.setHalt (s : State) (c : Nat) (h : Halt) : State := s.modWg c fun w => { w with halt := some h }

/-- R433: a dump write met a fault: the record, the header with where the dump stopped, the event. -/
def State.dumpFault (s : State) (l : Launch) (c : Nat) (w : Wg) (h : Halt) (va cause : Nat) : State :=
  let h := { h with stopped := true, nested := h.nested + 1, fva := va }
  let s := (s.reportDepot l.tenant va c cause).setHalt c h
  let s := match h.slot, h.place with
    | some slot, some _ => (s.hubWrite l.tenant slot (s.dumpHead l w h.code h)).1
    | _, _ => s
  s.debugEvent l w h 2 0

/-- R424: an exception raised since the image was taken: the exceptions and the threads are taken anew, and the sections are written again from the first one on
(log entry 104). -/
def Halt.renewed (h : Halt) (w : Wg) : Option Halt :=
  match h.place with
  | none => none
  | some _ =>
    if (h.image.getD 0 (0, [])).2.length = 16 * w.excs.length then none
    else some { h with image := (List.range 2).zip w.excSections ++ h.image.drop 2, place := some (0, 0) }

/-- R429: DUMP_WRITE: the Depot takes the next piece of the dump: the slot and the image, the header, a section, the header with its final section states. -/
def execDumpWrite (core : Nat) (s : State) : Host.Outcome State Fault Refusal :=
  match (s.wg? core).bind fun w => w.halt with
  | none => .next s
  | some h =>
    if !h.dumps || h.dumpDone || h.noSlot || h.stopped then .next s
    else
      match h.slot with
      | none =>
        let s := s.settleMatrix core
        (match s.wg? core, s.launchOf core with
        | some w, some l =>
          if !s.drained core w then .next s
          else
            match s.freeSlot l.tenant with
            | none =>
              let h := { h with noSlot := true }
              .next (((s.setHalt core h).modLaunch l.uid fun l => { l with nodump := l.nodump + 1 }).debugEvent l w h 0 1)
            | some va =>
              let secs := w.sections l.rcd (s.core core).ck (s.plazaRecs w) (s.pruneChains w)
              let h := { h with slot := some va, image := (List.range secs.length).zip secs }
              .next ((s.setHalt core h).debugEvent l w h 0 0)
        | _, _ => .next s)
      | some slot =>
        match s.wg? core, s.launchOf core with
        | some w, some l =>
          (match h.place with
          | none =>
            let seq := (s.core h.core).seq
            let h1 := { h with place := some (0, 0), dseq := some seq.toNat }
            (match s.hubWrite l.tenant slot (s.dumpHead l w h.code h1) with
            | (s, none) => .next ((s.setHalt core h1).modCore h.core fun k => { k with seq := k.seq + 1 })
            | (s, some (va, c)) => .next (s.dumpFault l core w h va c))
          | some (n, off) =>
            match h.renewed w with
            | some h => .next (s.setHalt core h)
            | none =>
            let cfg := (s.tenant l.tenant).cfg
            if 11 ≤ n then
              match s.hubWrite l.tenant slot (s.dumpHead l w h.code h) with
              | (s, none) =>
                let h := { h with dumpDone := true, image := [] }
                .next (((s.setHalt core h).debugEvent l w h 1 0).endDumpPkts l.tenant l.lid w.wgno)
              | (s, some (va, c)) => .next (s.dumpFault l core w h va c)
            else
              let (at_, _, fits) := (placeSections cfg.slotSize 4096 (h.image.map fun p => p.2.length)).getD n (0, 0, false)
              if !fits then .next (s.setHalt core { h with place := some (n + 1, 0) })
              else
                match s.hubWrite l.tenant (slot + at_ + off) (((h.image.getD n (0, [])).2).drop off) with
                | (s, none) => .next (s.setHalt core { h with place := some (n + 1, 0) })
                | (s, some (va, c)) => .next (s.dumpFault l core w { h with place := some (n, va - (slot + at_)) } va c))
        | _, _ => .next s

end Sys2Proof.Machine
end

