-- ==== Sys2Proof/Machine/Debug.lean ====
section
/-! DEFINITION. Debug commands (R439) and capabilities (R437, R438). -/

namespace Sys2Proof.Machine

open Sys2Proof

/-! ## Debug commands (R439) -/

/-- R439, R451: the launch that a command names, where its reference is valid and the launch is of its tenant, whose page of BAR2 the command comes through. -/
def State.debugTarget (s : State) (lid : PageLid) (cap : Word64) : Option Launch :=
  if capTenant cap == lid.page && capDbg cap && s.capOk cap (capTenant cap) then (s.launchByLid (capTenant cap) lid.lid).bind fun l => if l.stat == .pending then none else some l else none

/-- R439: the command names the workgroup. -/
def names (wg : Word32) (n : Nat) : Bool := wg == 0xFFFFFFFF || wg.toNat == n

/-- R439: STOP at a workgroup, with the halt that begins: BREAKPOINT with the PC of each group's next word. A parked group has no slot, and is recorded with 0xFF (log
entry 103). -/
def Wg.debugStop (h : Halt) (w : Wg) : Wg :=
  if w.halt.isSome || w.retired then w
  else
    { w with
      halt := some h
      excs := w.excs ++ (w.groups.map fun p => ⟨cBreakpoint, 0, p.1, laneMask (lanesOf p.2) % 2 ^ 32, p.2.pc⟩) ++
        w.parked.map fun p => ⟨cBreakpoint, 0, 0xFF, laneMask (lanesOf p.group) % 2 ^ 32, p.group.pc⟩ }

/-- A change of the workgroups that a command names, on their cores and saved. -/
def State.modNamed (s : State) (l : Launch) (wg : Word32) (here : State → Nat → State) (away : Saved → Wg) : State :=
  let s := (s.coresOf l.uid).foldl (fun s c => match s.wg? c with
    | some w => if names wg w.wgno then here s c else s
    | none => s) s
  s.modLaunch l.uid fun l => { l with saved := l.saved.map fun v => if names wg v.wg.wgno then { v with wg := away v } else v }

def execDebugStop (wg : BitVec 32) (lid : PageLid) (cap : BitVec 64) (s : State) : Host.Outcome State Fault Refusal :=
  match s.debugTarget lid cap with
  | none => .next s
  | some l => .next (s.modNamed l wg (fun s c => s.modWg c (Wg.debugStop (s.newHalt c 1 0 true))) fun v =>
      v.wg.debugStop { Halt.begin 1 0 true with core := v.core, ms := v.ms })

/-- R439: halted by a stop, by BREAKPOINT or by TRAP. -/
def Halt.resumable (h : Halt) : Bool := h.reason == 1 || (h.reason == 0 && (h.code == cBreakpoint || h.code == cTrap))
def Wg.resumable (w : Wg) : Bool := match w.halt with | some h => h.resumable | none => false

/-- The workgroups of a launch that a command names and that a predicate picks, resident and saved. -/
def State.namedWgs (s : State) (l : Launch) (wg : Word32) (p : Wg → Bool) : List Wg :=
  ((s.coresOf l.uid).filterMap s.wg? ++ l.saved.map (·.wg)).filter fun w => names wg w.wgno && p w

/-- R439: RESUME. A dump still under way ends where it stands; a halt whose event has not been written has it first (R440). -/
def execDebugResume (wg : BitVec 32) (lid : PageLid) (cap : BitVec 64) (s : State) : Host.Outcome State Fault Refusal :=
  match s.debugTarget lid cap with
  | none => .next s
  | some l =>
    if l.halting then .next s
    else
      let s := (s.namedWgs l wg Wg.resumable).foldl (fun s w => s.announce l w) s
      .next (s.modNamed l wg (fun s c => match s.wg? c with
        | some w => if w.resumable then (s.resumeWg c).endDumpPkts l.tenant l.lid w.wgno else s
        | none => s) fun v => if v.wg.resumable then v.wg.resumed else v.wg)

/-- The first in time of the exceptions of workgroups: its code and the core of its halt. -/
def firstOf (ws : List Wg) : Option (Nat × Nat) :=
  (minBy (fun (a b : Nat × Nat × Nat) => decide (a.1 < b.1)) (ws.filterMap fun w => w.halt.bind fun h => h.first.map fun f => (f.2, f.1, h.core))).map (·.2)

/-- R439: the first exception of the halted workgroups, and its core. What a STOP records is none. -/
def State.firstExc (s : State) (l : Launch) : Option (Nat × Nat) := firstOf (s.namedWgs l 0xFFFFFFFF fun _ => true)

/-- R439, R427: END. -/
def execDebugEnd (lid : PageLid) (cap : BitVec 64) (s : State) : Host.Outcome State Fault Refusal :=
  match s.debugTarget lid cap with
  | none => .next s
  | some l =>
    let (code, c) := (s.firstExc l).getD (cBreakpoint, Config.cores)
    .next ((s.haltLaunch c l.uid code).checkComplete l.uid)

/-- R439, R442: TRESUME. -/
def execDebugTresume (lid : PageLid) (cap : BitVec 64) (s : State) : Host.Outcome State Fault Refusal :=
  match s.debugTarget lid cap with
  | none => .next s
  | some l => .next (s.modLaunch l.uid fun l => if l.traceOff then { l with traceOff := false, gapDue := true } else l)

/-! ## Capabilities (R437, R438) -/

/-- R437: a reference. -/
def capRefOf (k : CapSlot) : Word64 :=
  let bit (b : Bool) (n : Nat) : Nat := if b then 2 ^ n else 0
  BitVec.ofNat 64 (k.tenant % 16 * 2 ^ 60 + bit k.prof 58 + bit k.trace 57 + bit k.dbg 56 + k.slot % 2 ^ 16 * 2 ^ 40 + k.nonce % 2 ^ 40)

/-- A capability takes the lowest free slot, with a fresh nonce, and its reference is returned. With all 65,536 slots live there is none. -/
def State.grant (s : State) (mk : Nat → Nat → CapSlot) : State :=
  match (List.range (2 ^ 16)).find? fun n => (s.capSlot? n).isNone with
  | none => s
  | some n =>
    let k := mk n (Config.random s.free % 2 ^ 40)
    ({ s with caps := s.caps ++ [k] }.emit (.capRef (capRefOf k))).draw

/-- R437: CAPABILITY_MINT, for a tenant that exists. -/
def execCapabilityMint (r : CapReq) (s : State) : Host.Outcome State Fault Refusal :=
  if !s.ready || !(s.tenant r.tenant).live then .next s
  else .next (s.grant fun n nonce =>
    { slot := n, tenant := r.tenant, dbg := r.dbg, trace := r.trace, prof := r.prof, nonce := nonce, parent := none, process := r.process, buf := r.buf,
      entries := r.entries, trcBuf := r.trcBuf, trcEntries := r.trcEntries, profBuf := r.profBuf })

/-- R437, R451: CAPABILITY_DELEGATE: a child slot with a subset of the rights, for a tool's process; through its tenant's page. -/
def execCapabilityDelegate (r : CapChild) (s : State) : Host.Outcome State Fault Refusal :=
  match s.capSlot? r.parent with
  | none => .next s
  | some p =>
    if !s.ready || p.tenant != r.page || !State.capLive s (s.caps.length + 1) r.parent || (r.dbg && !p.dbg) || (r.trace && !p.trace) || (r.prof && !p.prof) then .next s
    else .next (s.grant fun n nonce =>
      { slot := n, tenant := p.tenant, dbg := r.dbg, trace := r.trace, prof := r.prof, nonce := nonce, parent := some r.parent, process := r.process, buf := p.buf,
        entries := p.entries, trcBuf := p.trcBuf, trcEntries := p.trcEntries, profBuf := p.profBuf })

/-- The slot descends from another, or is it; `fuel` bounds the chain. -/
def State.descends (s : State) (root : Nat) : Nat → Nat → Bool
  | 0, _ => false
  | fuel + 1, n => n == root || (match s.capSlot? n with
    | some k => (match k.parent with | some p => State.descends s root fuel p | none => false)
    | none => false)

/-- R438: a launch whose debug capability has been revoked: one halted by an exception ends it, with the first exception in time (R427); one halted by a stop or a
BREAKPOINT issues again. -/
def State.afterRevoke (s : State) (l : Launch) : State :=
  let stands (w : Wg) : Bool := match w.halt with | some h => h.reason == 0 && h.code != cBreakpoint | none => false
  let back (w : Wg) : Bool := match w.halt with | some h => h.reason == 1 || (h.reason == 0 && h.code == cBreakpoint) | none => false
  let ends := firstOf (s.namedWgs l 0xFFFFFFFF stands)
  let s := s.modNamed l 0xFFFFFFFF (fun s c => match s.wg? c with
    | some w => if back w then (s.resumeWg c).endDumpPkts l.tenant l.lid w.wgno else s
    | none => s) fun v => if back v.wg then v.wg.resumed else v.wg
  match ends with
  | some (code, c) => (s.haltLaunch c l.uid code).checkComplete l.uid
  | none => s

/-- R438, R451: CAPABILITY_REVOKE: the slot and all its descendants die in one step. Through a page of BAR2 only its tenant's slots can be revoked. -/
def execCapabilityRevoke (slot : PageSlot) (s : State) : Host.Outcome State Fault Refusal :=
  if !((s.capSlot? slot.slot).any fun k => k.tenant == slot.page) then .next s else
  let was := s.launches.filter fun l => s.dbgOk l && !l.halting
  let dead := s.caps.filter fun k => s.descends slot.slot (s.caps.length + 1) k.slot
  let s := { s with caps := s.caps.filter fun k => !dead.contains k }
  .next (was.foldl (fun s l => if s.dbgOk l then s else s.afterRevoke l) s)

end Sys2Proof.Machine
end

