-- ==== Sys2Proof/Machine/Platform.lean ====
section
/-! DEFINITION. Host, peers, reliability and power (R41, R445 to R463): Causeway links, CXL.mem accesses, the identity block, tenants, islands, trips, erasure
tables, counters, and writes of management registers; reset and boot (R464, R465). -/

namespace Sys2Proof.Machine

open Sys2Proof

/-! ## Causeway (R41, R448) -/

/-- R41, R306: CAUSEWAY_LINK_FAIL: the link leaves the routing, and the hub sends its notices; what was lost is sent again, by the hub or, on a channel, by R303 to
R306. -/
def execCausewayLinkFail (link : Nat) (s : State) : Host.Outcome State Fault Refusal :=
  .next { s with linksUp := s.linksUp.filter (· != link), msgs := s.msgs ++ if s.linksUp.contains link then s.linkNotices link else [] }

/-- R448: CAUSEWAY_LINK_UP: a link whose key exchange fails stays down. -/
def execCausewayLinkUp (link : Nat) (agreed : Bool) (s : State) : Host.Outcome State Fault Refusal :=
  if agreed && decide (link < 18) && !s.linksUp.contains link then .next { s with linksUp := insertBy (fun a b => decide (a < b)) link s.linksUp } else .next s

/-! ## The identity block (R448, R476) -/

/-- R448: DEVICE_NUMBER_WRITE: once, before the first tenant is created. -/
def execDeviceNumberWrite (value : BitVec 16) (s : State) : Host.Outcome State Fault Refusal :=
  if !s.ready || s.devNumSet then .next s else .next { s with devNum := value, devNumSet := true }

/-- R476: SECURITY_COUNTER_READ. -/
def execSecurityCounterRead (s : State) : Host.Outcome State Fault Refusal :=
  .next ({ s with security := s.security &&& 0x7FFFFFFF }.emit (.securityRead s.security))

/-- R446: a discarded host write is counted; the count saturates. -/
def countDiscard (v : Word32) : Word32 := if v &&& 0x7FFFFFFF = 0x7FFFFFFF then v else v + 1

/-! ## CXL.mem (R445, R446, R469) -/

/-- The tenant and virtual address to which a byte of the first tier is mapped. -/
def State.mappedAt (s : State) (key : Nat) : Option (Nat × Nat) :=
  (s.tenants.filter fun p => p.2.live).findSome? fun p =>
    ((s.mappedPages p.2).find? fun m => decide (m.2 ≤ key) && decide (key < m.2 + 2 ^ 16)).map fun m => (p.1, m.1 * 2 ^ 16 + (key - m.2))

/-- R411, R469: the launch in whose pinned reservations a byte of the first tier lies, and the byte's place in them. -/
def State.pinnedAt (s : State) (pa : Nat) : Option (Launch × Nat) :=
  s.launches.findSome? fun l => l.pin.bind fun p => if p.1 ≤ pa ∧ pa < p.1 + p.2 * l.rcd.part.length then some (l, pa - p.1) else none

/-- R469: the frame is one of a confidential tenant: of a mapping that is not shot down yet, of its milestone pool, or of its pinned memory. -/
def State.confHolds (s : State) (i : Nat) (pa : Nat) : Bool :=
  let t := s.tenant i
  t.live && t.cfg.conf && (inRuns ((memKey 0 t.cfg.pool, t.cfg.frames * 2 ^ 16) :: s.recordedFrames t.cfg.asid) (memKey 0 pa) ||
    match s.pinnedAt pa with | some p => p.1.tenant == i | none => false)

/-- R469: the key of the confidential tenant that a frame belongs to, by its page tables or as one of its other frames. -/
def State.confKey (s : State) (pa : Nat) : Option Nat :=
  match (s.mappedAt (memKey 0 pa)).map fun m => s.tenant m.1 with
  | some t => if t.cfg.conf then t.key else none
  | none => ((SMap.keys s.tenants).find? fun i => s.confHolds i pa).bind fun i => (s.tenant i).key

/-- R411, R419, R62: a byte of the pinned reservations of a launch, as what it holds stands in the model: the image of a workgroup that is saved, the park area, private
memory (log entry 27). -/
def State.pinnedByte (s : State) (l : Launch) (n : Nat) : Option Byte :=
  match l.pin with
  | none => none
  | some p =>
    let wgno := n / p.2
    let o := n % p.2
    let w? : Option Wg := ((s.coresOf l.uid).findSome? fun c => (s.wg? c).filter fun w => w.wgno == wgno).orElse fun _ => (l.saved.find? fun v => v.wg.wgno == wgno).map (·.wg)
    if o < imageSize then (l.saved.find? fun v => v.wg.wgno == wgno).bind fun v => s.imageByte l v o
    else if o < imageSize + parkAreaSize then w?.bind fun w => (SMap.get? w.parkArea ((o - imageSize) / 512)).map fun bs => bs.getD ((o - imageSize) % 512) 0
    else
      let q := o - imageSize - parkAreaSize
      if q < l.rcd.priv * l.rcd.usable then w?.map fun w => Mem.read w.priv (privKey (q / l.rcd.priv) (q % l.rcd.priv)) else none

/-- A byte of the first tier as the memory controller gives it, decrypted. -/
def State.plainByte (s : State) (pa : Nat) : Byte :=
  ((s.pinnedAt pa).bind fun p => s.pinnedByte p.1 p.2).getD (Mem.read s.mem (memKey 0 pa))

/-- R469: a byte of the first tier as the host reads it under a key: that of its 32-byte data unit. -/
def State.cipherAt (s : State) (k pa : Nat) : Byte := Config.cipherUnit k (pa / 32) ((List.range 32).map fun i => s.plainByte (pa / 32 * 32 + i)) (pa % 32)

/-- R446, R395, R103: a byte of the first tier is written by the host in a generation; `none`: the home finds the milestone pool empty (R398). -/
def State.hostPut (s : State) (gen pa : Nat) (b : Byte) : Option State :=
  let key := memKey 0 pa
  match s.mappedAt key with
  | none => some ((s.memWrite key [b]).dropAllShadows key 1)
  | some (ti, va) => (s.homeWrite (s.tenant ti).cfg.asid va key [b] gen false).map fun s => s.hubHearHome ti va

/-- R228, R390: a store of a peer device at its home here, which waits for the move of a line at its boundary. One that meets a fault has no effect here (log entry 101). -/
def State.peerPut (s : State) (asid va gen : Nat) (bs : List Byte) : Option State :=
  match s.tenantOfAsid asid with
  | none => some s
  | some ti =>
    let s := (s.moveHeld asid va).moveHeld asid (va + (bs.length - 1))
    let s := s.hubHearHome ti va
    match s.writeRun asid va gen bs with
    | (s', none) => some s'
    | (_, some (.fault _ 4)) => none
    | (_, some _) => some s

/-- R230, R233, R263: an ATOM or RED of a peer device at its home here, in one event; its old value goes back to the peer. -/
def State.peerRmw (s : State) (asid va gen bytes : Nat) (aop : AOp) (data cmp : Nat) : Option State :=
  match s.tenantOfAsid asid with
  | none => some s
  | some ti =>
    match s.placeHub asid va aop.need with
    | (s, .at key) =>
      let s := s.hubHearHome ti va
      if s.isPoisoned key bytes then some s
      else
        let old := s.rmwRead asid va key bytes gen
        (s.homeWrite asid va key (natToBytes bytes (homeValue aop bytes old data cmp).1) gen false).map fun s => s.emit (.peerOld asid va old)
    | (s, _) => some s

/-- R226, R262: a load of a peer device at its home here: one single-copy-atomic read, whose value goes back to the peer. -/
def State.peerLoad (s : State) (asid va bytes : Nat) : State :=
  match s.tenantOfAsid asid with
  | none => s
  | some ti =>
    match s.placeHub asid va needRead with
    | (s, .at key) => if s.isPoisoned key bytes then s else (s.hubHearHome ti va).emit (.peerOld asid va (s.memNat key bytes))
    | (s, _) => s

/-- A write from outside the cores is performed in a generation; `none`: its home finds the milestone pool empty (R398). -/
def State.putOuter (s : State) (gen : Nat) : OuterWrite → Option State
  | .host pa b => s.hostPut gen pa b
  | .store asid va bs => s.peerPut asid va gen bs
  | .rmw asid va bytes aop data cmp => s.peerRmw asid va gen bytes aop data cmp

/-- The tenant, address-space id and virtual address that such a write goes to. -/
def State.outerPlace (s : State) : OuterWrite → Option (Nat × Nat × Nat)
  | .host pa _ => (s.mappedAt (memKey 0 pa)).map fun m => (m.1, (s.tenant m.1).cfg.asid, m.2)
  | .store asid va _ => (s.tenantOfAsid asid).map fun ti => (ti, asid, va)
  | .rmw asid va _ _ _ _ => (s.tenantOfAsid asid).map fun ti => (ti, asid, va)

/-- A held write goes to the same page. -/
def HeldWrite.atPage (h : HeldWrite) (asid va : Nat) : Bool := h.asid == asid && pageOf h.va == pageOf va

/-- R395, R398: a write from outside the cores arrives and is tagged with the hub's generation. A home that finds the pool empty holds it and raises a record with cause
4; behind a held write to its page it is held too (log entry 101). -/
def State.outer (s : State) (w : OuterWrite) : State :=
  match s.outerPlace w with
  | none => (s.putOuter 0 w).getD s
  | some (ti, asid, va) =>
    let gen := (s.tenant ti).hubGen
    let hold (s : State) : State := State.fresh { s with heldWrites := s.heldWrites ++ [⟨s.nextId, gen, asid, va, w⟩] }
    if s.heldWrites.any fun h => h.atPage asid va then hold s
    else
      match s.putOuter gen w with
      | some s => s
      | none => (hold s).reportFault ti va asid hubCore (match w with | .rmw _ _ _ aop _ _ => aop.kind | _ => 1) 4

/-- R398: the writes that are held go on, each in its own generation, those to one page in order. -/
def State.retryHeld (s : State) : State :=
  s.heldWrites.foldl (fun s h =>
    if (s.heldWrites.takeWhile fun q => q.id != h.id).any fun q => q.atPage h.asid h.va then s
    else
      match s.putOuter h.gen h.write with
      | some t => { t with heldWrites := t.heldWrites.filter fun q => q.id != h.id }
      | none => s) s

/-- R446: HOST_CXL_MEM_ACCESS: a byte of the first tier, read or written. A write is tagged with the hub's generation (R395). -/
def execHostCxlMemAccess (pa : Nat) (write : Option (BitVec 8)) (s : State) : Host.Outcome State Fault Refusal :=
  if !s.ready || decide (4 * Config.hbmPerDie ≤ pa) then .next s
  else
    match s.confKey pa, write with
    | some k, none => .next (s.emit (.hostRead pa (s.cipherAt k pa)))
    | some _, some _ => .next { s with security := countDiscard s.security }
    | none, none => .next (s.emit (.hostRead pa (s.plainByte pa)))
    | none, some b => .next (s.outer (.host pa b))

/-! ## Tenants (R452) -/

/-- R452: the fields of a tenant entry at their widths. -/
def fitCfg (c : TenantCfg) : TenantCfg :=
  { conf := c.conf, asid := c.asid % 2 ^ 16, vec := c.vec % 2 ^ 16, ring := c.ring % 2 ^ 64, ringCount := c.ringCount % 2 ^ 32, dump := c.dump % 2 ^ 64,
    slotSize := c.slotSize % 2 ^ 32, slotCount := c.slotCount % 2 ^ 32, pool := c.pool % 2 ^ 64, frames := c.frames % 2 ^ 32, area := c.area % 2 ^ 64,
    root := c.root % 2 ^ 64 }

/-- R452, R469: a tenant is created. A write of a live entry changes nothing: one that would is refused. -/
def State.createTenant (s : State) (tenant : Nat) (cfg : TenantCfg) : State :=
  if !s.ready || decide (16 ≤ tenant) then s
  else if (s.tenant tenant).live then (if fitCfg cfg = (s.tenant tenant).cfg then s else s.refuseEntry)
  else ((({ s with devNumSet := true }).setTenant tenant { Tenant.none with cfg := fitCfg cfg, live := true, key := if cfg.conf then some (Config.random s.free) else Option.none, tight := Config.tight s.free }).draw)

/-- R452: TENANT_CREATE. -/
def execTenantCreate (tenant : Nat) (cfg : TenantCfg) (s : State) : Host.Outcome State Fault Refusal := .next (s.createTenant tenant cfg)

/-- R452, R469: a tenant is deleted. The frames of a confidential tenant are zeroed; its keys and its capabilities end with it. -/
def State.deleteTenant (s : State) (tenant : Nat) : State :=
  let t := s.tenant tenant
  if !s.ready || !t.live then s
  else if s.queues.any (fun q => q.2.mapped && q.2.tenant == tenant) || s.launches.any (fun l => l.tenant == tenant) then s.refuseEntry
  else
    let s := if t.cfg.conf then s.zeroFrames (s.framesOf t) else s
    { (s.setTenant tenant { Tenant.none with cfg := t.cfg }) with caps := s.caps.filter fun k => k.tenant != tenant }

/-- R452: TENANT_DELETE. -/
def execTenantDelete (tenant : Nat) (s : State) : Host.Outcome State Fault Refusal := .next (s.deleteTenant tenant)

/-! ## Islands (R455 to R459) -/

/-- R455: the reset budget of a point. -/
def pointBudget (p : Nat) : BitVec 8 := match p with | 0 => 32 | 1 => 44 | 2 => 54 | 3 => 64 | _ => 0

/-- R459: the island holds a resident or pending workgroup. -/
def State.islandHeld (s : State) (island : Nat) : Bool :=
  ((List.range 8).any fun i => (s.wg? (8 * island + i)).isSome) || s.launches.any fun l =>
    (l.stat == .pending && l.rcd.part.any fun c => islandOf c == island) || l.saved.any fun v => islandOf v.core == island

/-- R459: ISLAND_POINT_REQUEST. -/
def execIslandPointRequest (island : Nat) (point : BitVec 3) (s : State) : Host.Outcome State Fault Refusal :=
  if !s.ready || decide (64 ≤ island) || decide (4 < point.toNat) || (s.island island).busy || (point.toNat == 4 && s.islandHeld island) then .next s
  else .next (s.modIsland island fun i => { i with req := point.toNat, busy := true })

/-- R459, R456: ISLAND_POINT_CHANGE_DONE. The island's count of ck, and with it the windows, begins anew when it leaves point 4. -/
def execIslandPointChangeDone (island : Nat) (s : State) : Host.Outcome State Fault Refusal :=
  let i := s.island island
  if !i.busy then .next s
  else .next (s.setIsland island { i with
    cur := i.req, busy := false
    budget := if i.req = 4 then i.budget else pointBudget i.req
    granted := if i.cur = 4 then 0 else i.granted
    ck := if i.cur = 4 then 0 else i.ck
    win := if i.cur = 4 then 0 else i.win
    epoch := if i.cur = 4 then (List.range 8).foldl (fun n k => max n (s.core (8 * island + k)).ck) 0 else i.epoch })

/-- R459: ISLAND_BUDGET_WRITE. A write of an entry that is busy is discarded. -/
def execIslandBudgetWrite (island : Nat) (budget : BitVec 8) (s : State) : Host.Outcome State Fault Refusal :=
  if !s.ready || decide (64 ≤ island) || (s.island island).busy then .next s else .next (s.modIsland island fun i => { i with budget := budget })

/-- R469: every tenant ends: the frames of confidential ones are free, and are zeroed (log entry 71). -/
def State.zeroConf (s : State) : State :=
  s.zeroFrames ((s.tenants.filter fun p => p.2.live && p.2.cfg.conf).flatMap fun p => s.framesOf p.2)

/-- R457, R458: the module trips: every core stops, and every launch, tenant, queue and capability ends. -/
def State.tripNow (s : State) : State :=
  { s.zeroConf with
    trip := true, status := 0x50F, cores := [], dies := [], hubTlb := [], hubWmaps := [], homeMap := [], msgs := [], tenants := [], queues := [],
    launches := [], caps := [], expanders := [], regionAt := [], migWait := [], heldWrites := [] }

/-- R457: a junction temperature, in units of 0.125 degrees; at 105 degrees the module trips. -/
def State.setTemp (s : State) (island : Nat) (temp : BitVec 16) : State :=
  let s := s.modIsland island fun i => { i with temp := temp }
  if 105 * 8 ≤ temp.toNat && !s.trip then s.tripNow else s

/-- R457: THERMAL_THROTTLE: the effective budget follows the temperature. -/
def execThermalThrottle (island : Nat) (temp : BitVec 16) (s : State) : Host.Outcome State Fault Refusal :=
  if 64 ≤ island then .next s else .next (s.setTemp island temp)

/-- R457: THERMAL_TRIP. -/
def execThermalTrip (island : Nat) (temp : BitVec 16) (s : State) : Host.Outcome State Fault Refusal :=
  if 64 ≤ island then .next s else .next (s.setTemp island temp)

/-! ## Reset and boot (R464, R465) -/

/-- R447, R392: the ports whose memory is mapped, in ascending order, within 31 TiB, with their bytes. -/
def mapPorts (n : Nat) : Nat → List Nat → SMap Nat
  | _, [] => []
  | room, p :: ps => match Config.expander n p with
    | some k => if k ≤ room then (p, k) :: mapPorts n (room - k) ps else mapPorts n room ps
    | none => mapPorts n room ps

/-- R465: the five measurement slots. -/
def State.measureAll (s : State) : State :=
  let owner : List Nat := match s.ownerKey with | some k => [1, k.toNat] | none => [0, 0]
  { s with measures := (List.range 5).map fun n => (n, Config.sha3 (if n = 3 then owner ++ [s.minVersion, s.transfers] else Config.measured n)) }

def statusOf (stage err exp : Nat) : Word32 := BitVec.ofNat 32 (stage + err * 2 ^ 8 + exp * 2 ^ 20)

/-- R464, R450: the ROM's boot, up to its last stage. -/
def State.boot (s : State) : State :=
  let digest := [(Config.sha3 Config.flashContent).toNat]
  if !Config.mldsaVerify Config.makerKey digest Config.makerSignature then { s with status := statusOf 0xF 1 0 }
  else if Config.flashVersion < s.minVersion then { s with status := statusOf 0xF 3 0 }
  else
    match s.ownerKey with
    | none => { { s with minVersion := Config.flashVersion }.measureAll with status := statusOf 4 0 0 }
    | some k =>
      if !Config.mldsaVerify k digest Config.ownerSignature then { s with status := statusOf 0xF 2 0 }
      else
        let s := { s with minVersion := Config.flashVersion }.measureAll
        if !Config.trains s.free then { s with status := statusOf 0xF 4 0 }
        else
          let ports := mapPorts s.free Config.expanderBytes [0, 1, 2, 3]
          { s with status := statusOf 3 0 (ports.foldl (fun n p => n + 2 ^ p.1) 0), expanders := ports }

/-- What a reset leaves: the fuses, the owner and the sensors stay; memory keeps its bytes, but for the frames of confidential tenants (log entry 29). -/
def State.hardReset (s : State) : State :=
  let s := s.zeroConf
  { State.reset with
    turns := s.turns, cur := s.cur, free := s.free, nextId := s.nextId, mem := s.mem, poisoned := s.poisoned, latent := s.latent, ownerKey := s.ownerKey
    transfers := s.transfers, transfer := s.transfer, minVersion := s.minVersion, out := s.out
    islands := s.islands.map fun (p : Nat × Island) => (p.1, { Island.reset with temp := p.2.temp }) }

/-- R468 step 1: every byte of both tiers is zero, and no unit of them is poisoned; caches and core arrays fall with the reset. -/
def State.zeroDevice (s : State) : State :=
  { s with mem := s.mem.filter fun c => decide (2 * 2 ^ 52 ≤ c.1), latent := [],
           poisoned := s.poisoned.filter fun u => decide (2 * 2 ^ 52 ≤ 32 * u) && decide (32 * u < 2 ^ 60) }

/-- R468 steps 1 to 3 of a TRANSFER that has been accepted. -/
def State.finishTransfer (s : State) : State :=
  match s.transfer with
  | none => s
  | some k => { s.zeroDevice with ownerKey := some k, transfers := s.transfers + 1, transfer := none }

/-- R464, R457, R468: the device resets, completes a TRANSFER that was cut off, and boots. While it is tripped it stays in reset: only the clear of R458 ends a trip. -/
def State.resetDevice (s : State) : State :=
  if s.trip then { s.hardReset with trip := true, status := 0x50F } else s.hardReset.finishTransfer.boot.draw

/-- R464: DEVICE_RESET. -/
def execDeviceReset (s : State) : Host.Outcome State Fault Refusal := .next (s.resetDevice)

/-- R458: THERMAL_TRIP_CLEAR. -/
def execThermalTripClear (value : BitVec 32) (s : State) : Host.Outcome State Fault Refusal :=
  if s.trip && value.getLsbD 0 && s.islands.all (fun p => decide (p.2.temp.toNat < 85 * 8)) then .next { s with trip := false }.resetDevice else .next s

/-! ## Reliability (R460 to R463) -/

/-- R461: an entry is written; a table that fills raises an event on the host port. Bits [14:6] read zero (R10) and R461 gives no fate to a write that has one
set: the model drops them and takes the rest of the write, its own choice (log entry 91). -/
def State.setErasure (s : State) (rank entry : Nat) (value : BitVec 16) : State :=
  let full := (s.erased rank).length == 4
  let s := { s with erasure := SMap.set s.erasure (4 * rank + entry) (value &&& 0x803F) }
  if (s.erased rank).length == 4 && !full then s.emit (.reliability rank) else s

/-- R461: another entry of the rank lists the position that a value would enter. -/
def State.listedElsewhere (s : State) (rank entry : Nat) (value : BitVec 16) : Bool :=
  value.getLsbD 15 && (List.range 4).any fun e => e != entry && s.erasedAt rank e == some (bits value.toNat 5 0)

/-- R461: ERASURE_TABLE_WRITE. A position that is listed already is not entered twice. The count of corrections of a position that leaves the table starts again. -/
def execErasureTableWrite (rank entry : Nat) (value : BitVec 16) (s : State) : Host.Outcome State Fault Refusal :=
  if !s.ready || decide (96 ≤ rank) || decide (4 ≤ entry) || decide (35 < bits value.toNat 5 0) || s.listedElsewhere rank entry value then .next s
  else
    let s := match s.erasedAt rank entry with
      | some p => { s with symbolFixes := SMap.del s.symbolFixes (64 * rank + p) }
      | none => s
    .next (s.setErasure rank entry value)

/-- R461, R463: a symbol at a position of a rank has been corrected; at the sixteenth time the position enters the table. -/
def State.correctSymbol (s : State) (rank pos : Nat) : State :=
  let stack := 512 + rank / 8
  let s := { s with corrected := SMap.set s.corrected stack (satInc (SMap.getD s.corrected stack 0)) }
  if (s.erased rank).contains pos then s
  else
    let n := SMap.getD s.symbolFixes (64 * rank + pos) 0 + 1
    let s := { s with symbolFixes := SMap.set s.symbolFixes (64 * rank + pos) n }
    if n < 16 then s
    else
      match (List.range 4).find? fun e => bits (SMap.getD s.erasure (4 * rank + e) 0).toNat 15 15 == 0 with
      | some e => s.setErasure rank e (BitVec.ofNat 16 (0x8000 + pos))
      | none => s

/-- R462, R460, R425: PATROL_SCRUB: the scrubber reads a unit of the first tier. One with errors that decodes is corrected, counted, and written back, so that no value
changes; one that does not is poisoned. An L2 line, whose bytes stand in its frame, keeps its value too. -/
def execPatrolScrub (unit : Nat) (s : State) : Host.Outcome State Fault Refusal :=
  match SMap.get? s.latent unit with
  | none => .next s
  | some ps =>
    let rank := Config.rankOf unit % 96
    let good := s.decodes (unit, ps)
    let s := { s with latent := SMap.del s.latent unit }
    if good then .next ((ps.filter fun p => !(s.erased rank).contains p).foldl (fun s p => s.correctSymbol rank p) s)
    else .next { s with poisoned := if s.poisoned.contains unit then s.poisoned else unit :: s.poisoned }

/-- R463: the counters of a kind: 0 matrix (512), 1 HBM (12), 2 SRAM (4). -/
def counterNo (kind n : Nat) : Option Nat :=
  match kind with
  | 0 => if n < 512 then some n else none
  | 1 => if n < 12 then some (512 + n) else none
  | 2 => if n < 4 then some (524 + n) else none
  | _ => none

/-- R463: CORRECTED_COUNTER_CLEAR. -/
def execCorrectedCounterClear (kind n : Nat) (s : State) : Host.Outcome State Fault Refusal :=
  match counterNo kind n with
  | some k => if s.ready then .next { s with corrected := SMap.set s.corrected k 0 } else .next s
  | none => .next s

/-! ## Other registers (R449, R452) -/

/-- R452: the field of a tenant entry at an offset, after a write of `n` bytes. Bits [31:2] of ctl read zero (R10) and R452 gives no fate to a write that has one set:
the model drops them and takes the rest of the write, its own choice (log entry 91). -/
def tenantField (cfg : TenantCfg) (o n : Nat) (v : Nat) : TenantCfg :=
  match o, n with
  | 0x00, 4 => { cfg with conf := bits v 1 1 == 1 }
  | 0x04, 2 => { cfg with asid := v % 2 ^ 16 }
  | 0x06, 2 => { cfg with vec := v % 2 ^ 16 }
  | 0x08, 8 => { cfg with ring := v % 2 ^ 64 }
  | 0x10, 4 => { cfg with ringCount := v % 2 ^ 32 }
  | 0x18, 8 => { cfg with dump := v % 2 ^ 64 }
  | 0x20, 4 => { cfg with slotSize := v % 2 ^ 32 }
  | 0x24, 4 => { cfg with slotCount := v % 2 ^ 32 }
  | 0x28, 8 => { cfg with pool := v % 2 ^ 64 }
  | 0x30, 4 => { cfg with frames := v % 2 ^ 32 }
  | 0x38, 8 => { cfg with area := v % 2 ^ 64 }
  | 0x40, 8 => { cfg with root := v % 2 ^ 64 }
  | _, _ => cfg

/-- R452: a write of a field of a tenant entry. Bit 0 of ctl creates and deletes; of a live tenant, a write that would change another field is refused. -/
def State.writeTenant (s : State) (ti o n v : Nat) : State :=
  let t := s.tenant ti
  let cfg := tenantField t.cfg o n v
  let state := if o = 0 ∧ n = 4 then v % 2 == 1 else t.live
  if t.live && cfg != t.cfg then s.refuseEntry
  else if t.live then (if state then s else s.deleteTenant ti)
  else if state then s.createTenant ti cfg
  else s.setTenant ti { t with cfg := cfg }

/-- R453: the field of a queue entry at an offset, after a write of `n` bytes. The read index is the Depot's. -/
def queueField (q : Queue) (o n v : Nat) : Queue :=
  match o, n with
  | 0x00, 4 => { q with tenant := bits v 7 4, log := bits v 12 8 }
  | 0x08, 8 => { q with base := v % 2 ^ 64 }
  | _, _ => q

/-- R453: a write of a field of a queue entry. The bits 0 and 1 of ctl map, unmap and reset; of a mapped queue, a write that would change another field is refused. -/
def State.writeQueue (s : State) (qi o n v : Nat) : State :=
  let q := s.queue qi
  let q' := queueField q o n v
  let ctl := o = 0 ∧ n = 4
  if q.mapped && q' != q then s.refuseEntry
  else if q.mapped then (if ctl ∧ v % 2 = 0 then s.unmapQueue qi else if ctl ∧ v / 2 % 2 = 1 then s.resetQueue qi else s)
  else if ctl ∧ v % 2 = 1 then s.mapQueue qi q'.tenant q'.log q'.base
  else s.setQueue qi q'

/-- R454: a write of the fault-answer register. One with a nonzero reserved field is discarded. -/
def State.answerWrite (s : State) (tenant v : Nat) : State :=
  if bits v 63 17 != 0 then s else if bits v 16 16 = 1 then s.answerRefuse tenant (bits v 15 0) else s.answerRetry tenant (bits v 15 0)

/-- R449, R451 to R453: REGISTER_WRITE: the fields of the tenant and queue entries of BAR0 and, in BAR2, the fault answer of the page of each tenant. Every other register is
read-only, reserved, or has a step of its own: in BAR2 the debug doorbell and the capability mailbox, whose steps name the tenant of the page. -/
def execRegisterWrite (bar offset : Nat) (value : BitVec 64) (bytes : Nat) (s : State) : Host.Outcome State Fault Refusal :=
  if !s.ready then .next s
  else if bar = 0 ∧ 0x1000 ≤ offset ∧ offset < 0x2000 then .next (s.writeTenant ((offset - 0x1000) / 256) ((offset - 0x1000) % 256) bytes value.toNat)
  else if bar = 0 ∧ 0x2000 ≤ offset ∧ offset < 0x3000 then .next (s.writeQueue ((offset - 0x2000) / 64) ((offset - 0x2000) % 64) bytes value.toNat)
  else if bar = 2 ∧ offset < 16 * 4096 ∧ offset % 4096 = 0 ∧ bytes = 8 then .next (s.answerWrite (offset / 4096) value.toNat)
  else .next s

/-! ## Reads of the management window (R449) -/

/-- R476: the part number, first character lowest. -/
def partNumber : List Nat := [0x42, 0x58, 0x35, 0x2D, 0x30, 0x35, 0x31, 0x32]

/-- R476: the bytes of the identity and status block. -/
def State.identBytes (s : State) : List Byte :=
  natToBytes 4 s.status.toNat ++ natToBytes 4 s.security.toNat ++ natToBytes 2 s.devNum.toNat ++ natToBytes 6 0 ++ natToBytes 4 (if s.trip then 1 else 0) ++ natToBytes 4 0 ++
    partNumber.map (BitVec.ofNat 8)

/-- R452: the bytes of a tenant entry; reserved fields read zero (R10). -/
def Tenant.entryBytes (t : Tenant) : List Byte :=
  let c := t.cfg
  natToBytes 4 ((if t.live then 1 else 0) + if c.conf then 2 else 0) ++ natToBytes 2 c.asid ++ natToBytes 2 c.vec ++ natToBytes 8 c.ring ++ natToBytes 8 c.ringCount ++
    natToBytes 8 c.dump ++ natToBytes 4 c.slotSize ++ natToBytes 4 c.slotCount ++ natToBytes 8 c.pool ++ natToBytes 8 c.frames ++ natToBytes 8 c.area ++ natToBytes 8 c.root

/-- R453: the bytes of a queue entry: ctl at byte 0, the base at 8, the read index at 16 (log entry 92); bit 1 of ctl reads 1 while
a reset waits for the packets that have started. -/
def Queue.entryBytes (q : Queue) : List Byte :=
  natToBytes 4 ((if q.mapped then 1 else 0) + (if q.resetting then 2 else 0) + q.tenant % 16 * 2 ^ 4 + q.log % 32 * 2 ^ 8) ++ natToBytes 4 0 ++ natToBytes 8 q.base ++ natToBytes 8 q.readIx

/-- R459: the bytes of an island entry. -/
def Island.entryBytes (i : Island) : List Byte :=
  natToBytes 8 (i.temp.toNat * 2 ^ 48 + i.budget.toNat * 2 ^ 40 + (if i.busy then 2 ^ 16 else 0) + i.cur % 8 * 2 ^ 8 + i.req % 8)

/-- R449: a byte of the management window. Reserved offsets read zero; the corrected-event counters stand from 0x02_0000 on in the order of R463 (log entry 92). The
home map requests, the ownership mailbox and the security block are written, and read zero. -/
def State.windowByte (s : State) (o : Nat) : Byte :=
  if o < 0x1000 then s.identBytes.getD o 0
  else if o < 0x2000 then (s.tenant ((o - 0x1000) / 256)).entryBytes.getD (o % 256) 0
  else if o < 0x3000 then (s.queue ((o - 0x2000) / 64)).entryBytes.getD (o % 64) 0
  else if o < 0x10000 then 0
  else if o < 0x10400 then (s.island ((o - 0x10000) / 16)).entryBytes.getD (o % 16) 0
  else if 0x20000 ≤ o ∧ o < 0x20000 + 4 * 528 then (natToBytes 4 (SMap.getD s.corrected ((o - 0x20000) / 4) 0).toNat).getD (o % 4) 0
  else if 0x21000 ≤ o ∧ o < 0x21000 + 8 * 96 then (natToBytes 2 (SMap.getD s.erasure ((o - 0x21000) / 2) 0).toNat).getD (o % 2) 0
  else if 0x100000 ≤ o ∧ o < 0x140000 ∧ o % 4096 < 8 then (natToBytes 8 (s.queue ((o - 0x100000) / 4096)).writeIx).getD (o % 8) 0
  else 0

/-- R444: the busy cycles of a tenant, which the host administrator receives: of the workgroups it holds and of those it has held. The manual gives no place to read
them (log entry 92). -/
def State.busyCycles (s : State) (ti : Nat) : Nat :=
  (s.launches.filter fun l => l.tenant == ti).foldl (fun n l =>
    (l.left.map (·.hist) ++ ((s.coresOf l.uid).filterMap s.wg? ++ l.saved.map (·.wg) ++ l.killed.flatMap fun k => k.members.map (·.2)).map (·.histogram)).foldl
      (fun n h => n + busyOf h) n) (s.tenant ti).busy

/-- R450: what a device that is not ready answers: the identity and status block, and the island block at stage 0xF. -/
def State.answers (s : State) (o : Nat) : Bool := s.ready || decide (o < 0x1000) || (bits s.status.toNat 3 0 == 0xF && decide (0x10000 ≤ o) && decide (o < 0x10400))

/-- R449, R401, R476: the host reads bytes of the management window. A read that holds byte 7 of the identity block clears bit 31 of the security event counter. -/
def State.registerRead (s : State) (o bytes : Nat) : State :=
  if !s.answers o then s
  else
    let v := bytesToNat ((List.range bytes).map fun i => s.windowByte (o + i))
    let s := s.emit (.register o v)
    if o ≤ 7 ∧ 7 < o + bytes then { s with security := s.security &&& 0x7FFFFFFF } else s

end Sys2Proof.Machine
end

