-- ==== Sys2Proof/Machine/Security.lean ====
section
/-! DEFINITION. The ownership mailbox (R467, R468) and SPDM (R466). -/

namespace Sys2Proof.Machine

open Sys2Proof

/-! ## Ownership (R467, R468) -/

/-- R467: NONCE. -/
def execNonce (s : State) : Host.Outcome State Fault Refusal :=
  let n := Config.random s.free
  .next ({ s with nonceOut := some n }.emit (.nonceOut n)).draw

/-- R467: a TRANSFER is accepted. -/
def State.transferOk (s : State) (newOwner : BitVec 256) (nonce signature : Nat) : Bool :=
  !s.tenants.any (fun p => p.2.live) && s.transfer.isNone && s.nonceOut == some nonce &&
    (match s.ownerKey with | some k => Config.mldsaVerify k [nonce, newOwner.toNat] signature | none => true)

/-- R468: TRANSFER: device memory is zeroed, with all caches and core arrays; the new owner is installed; the device resets. -/
def execTransfer (newOwner : BitVec 256) (nonce signature : Nat) (s : State) : Host.Outcome State Fault Refusal :=
  if s.transferOk newOwner nonce signature then .next { s with transfer := some newOwner }.finishTransfer.resetDevice else .next s

/-- R468: a TRANSFER is accepted, and a reset or a loss of power falls in step 1, 2 or 3 of it: the steps done have their effect, and the next boot begins the sequence
again. -/
def State.cutTransfer (s : State) (newOwner : BitVec 256) (nonce signature step : Nat) : State :=
  if s.transferOk newOwner nonce signature then (if step ≤ 1 then { s with transfer := some newOwner } else { s with transfer := some newOwner }.zeroDevice).hardReset else s

/-! ## SPDM (R466) -/

/-- R466: an answer, signed by the device identity key over what it says. -/
def State.answer (s : State) (a : Spdm) (body : List Nat) : State :=
  s.emit (.spdm a body (some (Config.sign body)))

def State.measureList (s : State) : List Nat := s.measures.map fun p => p.2.toNat

/-- SPDM 1.3. -/
def execGetVersion (s : State) : Host.Outcome State Fault Refusal := .next (s.answer .version [1, 3])

/-- The requests that the device supports, by their place in R466's list. -/
def execGetCapabilities (s : State) : Host.Outcome State Fault Refusal := .next (s.answer .capabilities [0, 1, 2, 3, 4, 5, 6, 7, 8])

/-- SHA3-256 for measurements; ECDSA P-384 over SHA-384 for signatures. -/
def execNegotiateAlgorithms (s : State) : Host.Outcome State Fault Refusal := .next (s.answer .algorithms [256, 384, 384])

def execGetDigests (s : State) : Host.Outcome State Fault Refusal := .next (s.answer .digests [(Config.sha3 [Config.certificate]).toNat])

def execGetCertificate (s : State) : Host.Outcome State Fault Refusal := .next (s.answer .certificate [Config.certificate])

def execChallenge (nonce : Nat) (s : State) : Host.Outcome State Fault Refusal :=
  .next ((s.answer .challengeAuth (nonce :: Config.random s.free :: s.measureList)).draw)

def execGetMeasurements (nonce : Nat) (s : State) : Host.Outcome State Fault Refusal :=
  .next ((s.answer .measurements (nonce :: Config.random s.free :: s.measureList)).draw)

def execKeyExchange (nonce : Nat) (s : State) : Host.Outcome State Fault Refusal :=
  .next ({ s with spdmSession := 1 }.answer .keyExchange (nonce :: Config.random s.free :: s.measureList)).draw

def execFinish (nonce : Nat) (s : State) : Host.Outcome State Fault Refusal :=
  .next ({ s with spdmSession := if s.spdmSession = 1 then 2 else s.spdmSession }.answer .finish [nonce])

def execSpdmUnsupportedRequest (code : Nat) (s : State) : Host.Outcome State Fault Refusal := .next (s.answer .unsupportedRequest [code])

end Sys2Proof.Machine
end

