-- ==== Sys2Proof/Machine/Agenda.lean ====
section
/-! DEFINITION. The agenda: the actions of the world outside the step table, and the round of turns that an empty agenda is filled with (log entry 30). -/

namespace Sys2Proof.Machine

open Sys2Proof

/-! ## The world outside (`Env`) -/

/-- R460: symbols of a unit of the first tier are in error from now on, until the unit is written. -/
def State.symbolErrors (s : State) (key : Nat) (ps : List Nat) : State :=
  if 4 * Config.hbmPerDie ≤ key then s
  else { s with latent := SMap.set s.latent (key / 32) (dedup (SMap.getD s.latent (key / 32) [] ++ ps.filter fun p => decide (p < 36))) }

/-- R460, R463: a read of a unit has corrected a symbol in error. -/
def State.readCorrects (s : State) (key pos : Nat) : State :=
  let ps := SMap.getD s.latent (key / 32) []
  let rank := Config.rankOf (key / 32) % 96
  if ps.contains pos && s.decodes (key / 32, ps) && !(s.erased rank).contains pos then s.correctSymbol rank pos else s

/-- A message comes from a peer device: only those can be lost (R41). -/
def State.overCauseway (s : State) (m : ChanMsg) : Bool :=
  let me := s.devNum.toNat
  match m with
  | .packet _ st _ _ _ => streamDev st != me
  | .scl _ st => streamDev st != me
  | .rsq _ st _ => streamDev st != me
  | .rsd _ st => streamDev st != me
  | .ack dev _ _ _ _ => dev != me
  | .nak dev _ _ _ _ => dev != me
  | .rsa dev _ _ _ _ => dev != me
  | .linkDown _ _ => false

/-- The pages, by address-space id and 64 KiB page, of the filled replicas of ranges in host memory. -/
def State.hostReplicaPages (s : State) : List (Nat × Nat) :=
  ((SMap.keys s.cores).flatMap fun c => match s.wg? c with
    | none => []
    | some w => w.subs.flatMap fun p =>
      if p.2.filled && s.isHost (s.asidOf c) p.2.va then
        (List.range ((p.2.va + p.2.len - 1) / 2 ^ 16 + 1 - p.2.va / 2 ^ 16)).map fun i => (s.asidOf c, p.2.va / 2 ^ 16 + i)
      else []).eraseDups

/-- R286: the host writes its memory, which the replicas of the written bytes follow. -/
def State.hostStore (s : State) (pa : Nat) (bs : List Byte) : State :=
  s.hostReplicaPages.foldl (fun s p =>
    match s.placeOf p.1 (p.2 * 2 ^ 16) needRead with
    | .error _ => s
    | .ok k => (List.range bs.length).foldl (fun s i =>
        let key := memKey 2 (pa + i)
        if k ≤ key ∧ key < k + 2 ^ 16 then s.updateReplicas p.1 (p.2 * 2 ^ 16 + (key - k)) [bs.getD i 0] else s) s) (s.memWrite (memKey 2 pa) bs)

/-- What the world does. -/
def State.env (s : State) : Env → State
  | .tick c => if s.coreOn c then s.advanceTo c ((s.core c).ck + 1) else s
  | .l1Drop c asid line => s.modCore c fun x => x.l1Drop asid line
  | .l2Drop d asid line => s.modDie d fun x => x.l2Keep fun l => !l.isAt asid line
  | .homeDrop c => s.modCore c fun x => { x with home := [] }
  | .icacheDrop d cluster line => s.modDie d fun x => { x with icache := x.icache.filter fun l => !(l.1 == cluster && l.2.2.1 == line) }
  | .hostWrite pa bs => s.hostStore pa bs
  | .poison key => { s with poisoned := if s.poisoned.contains (key / 32) then s.poisoned else (key / 32) :: s.poisoned }
  | .correctable key pos => s.readCorrects key pos
  | .upset c acc w => s.modMtx c fun x => x.setAcc (acc / 256) (acc % 256) [w]
  | .residueUpset c row col => s.modMtx c fun x => { x with rp := SMap.set x.rp row (SMap.getD x.rp row 0 + 1), cp := SMap.set x.cp col (SMap.getD x.cp col 0 + 1) }
  | .sramFix c => { s with corrected := SMap.set s.corrected (524 + dieOf c) (satInc (SMap.getD s.corrected (524 + dieOf c) 0)) }
  | .msgLost n => match s.msgs[n]? with | some m => if s.overCauseway m then s.takeMsg n else s | none => s
  | .peerMsg m => { s with msgs := s.msgs ++ [m] }
  | .peerStore asid va bs => s.outer (.store asid va bs)
  | .peerRmw asid va bytes aop data cmp => s.outer (.rmw asid va bytes aop data cmp)
  | .peerLoad asid va bytes => s.peerLoad asid va bytes
  | .loadLane c op lane => s.readOneLane c op lane
  | .earlyByte c op lane i => s.readEarly c op lane i
  | .engTake c op i => s.engTake c op i
  | .engPut c op i => (s.engPut c op i).drainPut c op i
  | .mtxByte c i => s.readMtxByte c i
  | .hostRetry => s.retryHeld
  | .symbolErrors key ps => s.symbolErrors key ps
  | .registerRead o n => s.registerRead o n
  | .transferCut k n sig step => s.cutTransfer k n sig step

/-! ## A round of turns -/

/-- R50, R53, R54: the group slots in the order in which their issues are tried: those inside their clauses first, or by age alone. -/
def issueOrder (w : Wg) (clauses : Bool) : List Nat :=
  (sortBy (fun (a b : Nat × Group) =>
    if clauses && a.2.inClause != b.2.inClause then a.2.inClause
    else decide (a.2.lastIssue < b.2.lastIssue) || (a.2.lastIssue == b.2.lastIssue && decide (a.1 < b.1))) w.groups).map (·.1)

/-- The turns of what is under way at a core. -/
def coreTurns (c : Nat) (x : Core) : List Turn :=
  let wgTurns : List Turn := match x.wg with
    | none => []
    | some w =>
      (issueOrder w true).map (Turn.issue c) ++ (issueOrder w false).map (Turn.issue c) ++
      (w.groups.flatMap fun p => [Turn.event .clauseFetchMissFill c p.1 0 0, Turn.event .mwaitRetest c p.1 0 0, Turn.event .q2CopyStart c p.1 0 0,
        Turn.event .q0CommandEnqueue c p.1 0 0]) ++
      (w.flights.map fun f => Turn.event .fixedLatencyResult c f.id 0 0) ++
      (w.ops.flatMap fun o => ((List.range o.lanes.length).flatMap fun i =>
          [Turn.event .l2MissTranslate c o.id i 0, Turn.event .homeWriteArrival c o.id i 0, Turn.event .peerScratchpadWrite c o.id i 0]) ++
        [Turn.event .loadReply c o.id 0 0, Turn.event .atomReply c o.id 0 0, Turn.event .storeAck c o.id 0 0]) ++
      ((SMap.keys w.subs).flatMap fun n => [Turn.event .subscribeFillComplete c n 0 0, Turn.event .unsubComplete c n 0 0]) ++
      [Turn.event .matrixWordStart c 0 0 0, Turn.event .mldaGTransfer c 0 0 0, Turn.event .matrixWordEnd c 0 0 0, Turn.event .plazaBarrierComplete c 0 0 0,
        Turn.event .plazaBarrierComplete c 1 0 0, Turn.event .groupFormation c 0 0 0, Turn.event .groupPark c 0 0 0, Turn.event .parkedGroupReturn c 0 0 0,
        Turn.event .contextSave c 0 0 0, Turn.event .haltBroadcastReceive c 0 0 0, Turn.event .dumpWrite c 0 0 0, Turn.event .retirementTrackerEmpty c 0 0 0,
        Turn.env (.tick c)]
  wgTurns ++
    (x.eng.map fun e => match e.kind with
      | .copy _ _ => Turn.event .copyComplete c e.id 0 0
      | .gather _ => .event .hgatherComplete c e.id 0 0
      | .drainChan _ _ => .event .drainComplete c e.id 0 0
      | .mdrain _ => .event .mdrainComplete c e.id 0 0
      | .subscribe n => .event .subscribeFillComplete c n 0 0
      | .snap _ => .event .drainComplete c e.id 0 0) ++
    (x.cacheOps.flatMap fun o => o.cores.map (fun d => Turn.event .icinvDropReceive d o.id 0 0) ++ [Turn.event .dcflushComplete c o.id 0 0]) ++
    ((dedup (x.chanOps.filterMap (·.sess))).map fun n => Turn.event .channelPacketSend c n 1 0) ++ [Turn.event .shootdownReceive c 0 0 0]

/-- The turns of the messages of the channels: each in turn is the first in the fabric. -/
def msgTurns (ms : List ChanMsg) : List Turn :=
  (ms.filterMap fun m => match m with | .linkDown c n => some (Turn.event .linkDownNotice c n 0 0) | _ => none) ++
  (List.range ms.length).flatMap fun _ => [Turn.event .channelPacketArrive 0 0 0 0, Turn.event .channelAckReceive 0 0 0 0, Turn.event .nakReceive 0 0 0 0, Turn.event .sclReceive 0 0 0 0,
    Turn.event .rsqReceive 0 0 0 0, Turn.event .rsaReceive 0 0 0 0]

def dieTurns (d : Nat) (x : Die) : List Turn :=
  (x.reseq.map fun e => Turn.event .ackSend d e.stream 0 0) ++ (SMap.keys x.slots).map fun k => Turn.event .migrationLineMove d k 0 0

def tenantTurns (t : Nat) (x : Tenant) : List Turn :=
  let cut : List Turn := match x.cut with
    | none => []
    | some k => (k.coresToMove.map fun c => Turn.event .cutBroadcastReceive t 0 c 0) ++ (k.diesToMove.map fun d => Turn.event .cutBroadcastReceive t 1 d 0) ++
        (k.owe.map fun m => Turn.event .milestoneMarkerSend t (if m.1 then 1 else 0) m.2.1 m.2.2) ++ (k.sent.map fun m => Turn.event .milestoneMarkerReceive t (if m.1 then 1 else 0) m.2.1 m.2.2)
  [Turn.event .faultRecord t 0 0 0, Turn.event .faultRingRoom t 0 0 0, Turn.event .milestoneDrainPage t 0 0 0] ++ cut

def queueTurns (q : Nat) (x : Queue) : List Turn :=
  if !x.mapped then []
  else
    [Turn.event .nopPacket q 0 0 0, Turn.event .launchPacket q 0 0 0, Turn.event .waitPacket q 0 0 0, Turn.event .waitConditionMet q 0 0 0, Turn.event .signalPacket q 0 0 0,
      Turn.event .copyPacket q 0 0 0, Turn.event .snapPacket q 0 0 0, Turn.event .revertPacket q 0 0 0, Turn.event .revertExecute q 0 0 0, Turn.event .appendPacket q 0 0 0,
      Turn.event .dumpResumePacket q 0 0 0, Turn.event .unassignedPacket q 0 0 0] ++ x.pkts.map fun p => Turn.event .hubCopyComplete q p.num 0 0

def launchTurns (l : Launch) : List Turn :=
  let u := l.uid
  let gangs := List.range (l.rcd.part.length / l.rcd.gangSize)
  [Turn.event .coordinateDelivery u 0 0 0, Turn.event .resampleStepBegin u 0 0 0] ++ (gangs.map fun g => Turn.event .resampleStepBegin u 1 g 0) ++
    (l.step.map fun st => Turn.event .resampleStepEnd u (if st.gangForm then 1 else 0) st.gang 0) ++ (l.mchecks.map fun m => Turn.event .gangKill u m.1 0 0) ++
    (l.killed.map fun k => Turn.event .gangRelaunch u k.gang 0 0) ++ (l.saved.map fun v => Turn.event .faultResume u v.wg.wgno 0 0) ++
    [Turn.event .launchAdmission u 0 0 0, Turn.event .preemption u 0 0 0, Turn.event .launchResume u 0 0 0]

def islandTurns (n : Nat) (i : Island) : List Turn :=
  (if i.busy then [Turn.event .islandPointChangeDone n 0 0 0] else []) ++ if i.waiters.any (·.waited) then [Turn.event .tollgateWindow n 0 0 0] else []

/-- A round: a turn for everything that is under way; turns that find nothing to do change nothing. A module whose ROM has not run boots first. A ck passes at
every core that holds a workgroup. Requests from outside, timeouts, and the other acts of the world are in no round. -/
def State.round (s : State) : List Turn :=
  if s.status = 0 then [.event .deviceReset 0 0 0 0]
  else
    (s.cores.flatMap fun p => coreTurns p.1 p.2) ++ msgTurns s.msgs ++ (s.dies.flatMap fun p => dieTurns p.1 p.2) ++
      (s.tenants.flatMap fun p => if p.2.live then tenantTurns p.1 p.2 else []) ++ (s.queues.flatMap fun p => queueTurns p.1 p.2) ++
      s.launches.flatMap launchTurns ++ (s.islands.flatMap fun p => islandTurns p.1 p.2) ++ if s.heldWrites.isEmpty then [] else [.env .hostRetry]

/-! ## A word placed for the next step -/

/-- The 64-bit words of an instruction of which the table gives the lowest bits: the word and its literal word. -/
def fetchWords (nbits w : Nat) : List Word64 := [BitVec.ofNat 64 (w % 2 ^ nbits), BitVec.ofNat 64 (w % 2 ^ nbits / 2 ^ 64)]

/-- The launch record of the placed program: one core, one group of eight threads, every register, a whole scratchpad. -/
def placedRec : LaunchRec :=
  { LaunchRec.none with w := 8, t := 8, v := 256, stages := 1, sg := [1, 0, 0, 0], scratch := 1048576, priv := 65536, part := [0], x := 0, y := 0, z := 0,
                        gx := 1, gy := 1, gz := 1, fs := List.replicate 8 0, cbp := [0, 0, 0, 0], cbl := [0, 0, 0, 0], resv := true }

def placedLaunch (uid : Nat) : Launch :=
  { uid := uid, tenant := 0, lid := 0, queue := 64, num := 0, done := 0, stat := .resident, rcd := placedRec, recAddr := 0, age := 0,
    disp := ⟨0, 0, 0, [], true, []⟩, kills := 0, flags := 0, nodump := 0, preDone := false, saved := [], left := [], code := none, halting := false,
    ending := false, mchecks := [], killed := [], lStepDone := false, step := [], plaza := [], traceOff := false, dropped := 0, gapDue := false, orphans := [], bankAt := [], undo := [] }

/-- The workgroup of the placed program: its group has fetched a MIX clause of the two words and stands at the first. -/
def placedWg (l : Launch) (uid ck : Nat) (ws : List Word64) : Wg :=
  let w := startWg l 0 0 0 0 uid ck
  { w with groups := [(0, { startGroup l.rcd uid 0 ck with
      hdr := 0, wix := 1, fetched := true, header := 0xE1000000C1000000, words := ws, tested := true, notBefore := 0 })] }

/-- The machine with a launch resident on core 0 whose only group issues the given word next (log entry 31). -/
def State.placeWords (s : State) (ws : List Word64) : State :=
  let u := s.nextId
  let l := placedLaunch u
  let s := { s with launches := l :: s.launches, nextId := u + 2, turns := [.issue 0 0], trip := false, status := if s.status = 0 then 3 else s.status }
  (s.modIsland 0 fun i => if i.cur = 4 then { i with cur := 3 } else i).modCore 0 fun k => { k with wg := some (placedWg l (u + 1) k.ck ws) }

end Sys2Proof.Machine
end

