-- ==== Sys2Proof/Machine/Logic.lean ====
section
/-! DEFINITION. Logic, shifts and bitfields (R152, R153): opcodes 0x10 to 0x1F. The count of a shift is the 32-bit source b. -/

namespace Sys2Proof.Machine

open Sys2Proof

/-- R152: left shift of n bits; a count of n or more gives 0. -/
def shiftLeft (n : Nat) (a c : Word64) : Word64 := if n ≤ c.toNat then 0 else BitVec.ofNat 64 (a.toNat * 2 ^ c.toNat % 2 ^ n)
def shiftRight (n : Nat) (a c : Word64) : Word64 := if n ≤ c.toNat then 0 else BitVec.ofNat 64 (a.toNat % 2 ^ n / 2 ^ c.toNat)
/-- R152: a count of n or more gives n copies of the sign. -/
def shiftArith (n : Nat) (a c : Word64) : Word64 :=
  BitVec.ofNat 64 (wrapInt n (signed n a.toNat / Int.ofNat (2 ^ min c.toNat (n - 1))))
def rotateLeft (a c : Word64) : Word64 :=
  let k := c.toNat % 32
  let v := a.toNat % 2 ^ 32
  BitVec.ofNat 64 (v * 2 ^ k % 2 ^ 32 + v / 2 ^ (32 - k))

def mask32 (len : Nat) : Nat := 2 ^ min len 32 - 1

/-- R153: BFX. -/
def bitExtract (u : Bool) (a b : Word64) : Word64 :=
  let pos := b.toNat % 256
  let len := min (b.toNat / 256 % 256) 32
  let f := if 32 ≤ pos then 0 else a.toNat % 2 ^ 32 / 2 ^ pos % 2 ^ len
  if !u && 0 < len && f / 2 ^ (len - 1) % 2 = 1 then BitVec.ofNat 64 (f + (2 ^ 32 - 2 ^ len)) else BitVec.ofNat 64 f

/-- R153: BFI. -/
def bitInsert (a b c : Word64) : Word64 :=
  let pos := b.toNat % 256
  let len := min (b.toNat / 256 % 256) 32
  let mm : Word32 := if 32 ≤ pos then 0 else BitVec.ofNat 32 (mask32 len * 2 ^ pos)
  let sh : Word32 := if 32 ≤ pos then 0 else BitVec.ofNat 32 (a.toNat * 2 ^ pos)
  BitVec.ofNat 64 ((lo32 c &&& ~~~ mm) ||| (sh &&& mm)).toNat

def popCount : Nat → Nat → Nat
  | 0, _ => 0
  | n + 1, v => v % 2 + popCount n (v / 2)

/-- Leading zeros of an n-bit value. -/
def leadingZeros : Nat → Nat → Nat
  | 0, _ => 0
  | n + 1, v => if v / 2 ^ n % 2 = 1 then 0 else 1 + leadingZeros n v

def bitReverse : Nat → Nat → Nat
  | 0, _ => 0
  | n + 1, v => v % 2 * 2 ^ n + bitReverse n (v / 2)

def execAnd (h : Head) (d : Dst) (a b : Src) (lit : Lit) (s : State) : Host.Outcome State Fault Refusal :=
  alu s h 0x10 lit { tys := [.i32, .i32], lat := 4, f := on2 fun a b => a &&& b } d [a, b]

def execOr (h : Head) (d : Dst) (a b : Src) (lit : Lit) (s : State) : Host.Outcome State Fault Refusal :=
  alu s h 0x11 lit { tys := [.i32, .i32], lat := 4, f := on2 fun a b => a ||| b } d [a, b]

def execXor (h : Head) (d : Dst) (a b : Src) (lit : Lit) (s : State) : Host.Outcome State Fault Refusal :=
  alu s h 0x12 lit { tys := [.i32, .i32], lat := 4, f := on2 fun a b => a ^^^ b } d [a, b]

def execNot (h : Head) (d : Dst) (a : Src) (lit : Lit) (s : State) : Host.Outcome State Fault Refusal :=
  alu s h 0x13 lit { tys := [.i32], lat := 4, f := on1 fun a => ~~~ a } d [a]

def execShl (h : Head) (d : Dst) (a b : Src) (lit : Lit) (s : State) : Host.Outcome State Fault Refusal :=
  alu s h 0x14 lit { tys := [.i32, .i32], lat := 4, f := on2 (shiftLeft 32) } d [a, b]

def execShr (h : Head) (d : Dst) (a b : Src) (lit : Lit) (s : State) : Host.Outcome State Fault Refusal :=
  alu s h 0x15 lit { tys := [.i32, .i32], lat := 4, f := on2 (shiftRight 32) } d [a, b]

def execSar (h : Head) (d : Dst) (a b : Src) (lit : Lit) (s : State) : Host.Outcome State Fault Refusal :=
  alu s h 0x16 lit { tys := [.i32, .i32], lat := 4, f := on2 (shiftArith 32) } d [a, b]

def execRol (h : Head) (d : Dst) (a b : Src) (lit : Lit) (s : State) : Host.Outcome State Fault Refusal :=
  alu s h 0x17 lit { tys := [.i32, .i32], lat := 4, f := on2 rotateLeft } d [a, b]

def execBfx (h : Head) (u : Bool) (d : Dst) (a b : Src) (lit : Lit) (s : State) : Host.Outcome State Fault Refusal :=
  alu s h 0x18 lit { tys := [.i32, .i32], lat := 4, f := on2 (bitExtract u) } d [a, b]

def execBfi (h : Head) (d : Dst) (a b c : Src) (lit : Lit) (s : State) : Host.Outcome State Fault Refusal :=
  alu s h 0x19 lit { tys := [.i32, .i32, .i32], lat := 4, f := on3 bitInsert } d [a, b, c]

def execPopc (h : Head) (d : Dst) (a : Src) (lit : Lit) (s : State) : Host.Outcome State Fault Refusal :=
  alu s h 0x1A lit { tys := [.i32], lat := 4, f := on1 fun a => BitVec.ofNat 64 (popCount 32 a.toNat) } d [a]

def execClz (h : Head) (d : Dst) (a : Src) (lit : Lit) (s : State) : Host.Outcome State Fault Refusal :=
  alu s h 0x1B lit { tys := [.i32], lat := 4, f := on1 fun a => BitVec.ofNat 64 (leadingZeros 32 a.toNat) } d [a]

def execBrev (h : Head) (d : Dst) (a : Src) (lit : Lit) (s : State) : Host.Outcome State Fault Refusal :=
  alu s h 0x1C lit { tys := [.i32], lat := 4, f := on1 fun a => BitVec.ofNat 64 (bitReverse 32 a.toNat) } d [a]

def execShlB64 (h : Head) (d : Dst) (a b : Src) (lit : Lit) (s : State) : Host.Outcome State Fault Refusal :=
  alu s h 0x1D lit { n := 2, tys := [.i64, .i32], lat := 4, f := on2 (shiftLeft 64) } d [a, b]

def execShrB64 (h : Head) (d : Dst) (a b : Src) (lit : Lit) (s : State) : Host.Outcome State Fault Refusal :=
  alu s h 0x1E lit { n := 2, tys := [.i64, .i32], lat := 4, f := on2 (shiftRight 64) } d [a, b]

def execSarB64 (h : Head) (d : Dst) (a b : Src) (lit : Lit) (s : State) : Host.Outcome State Fault Refusal :=
  alu s h 0x1F lit { n := 2, tys := [.i64, .i32], lat := 4, f := on2 (shiftArith 64) } d [a, b]

end Sys2Proof.Machine
end

