-- ==== Sys2Proof/Machine/Move.lean ====
section
/-! DEFINITION. Moves and constant banks (R168 to R170): opcodes 0x50 to 0x52. -/

namespace Sys2Proof.Machine

open Sys2Proof

def execMov (h : Head) (d : Dst) (a : Src) (lit : Lit) (s : State) : Host.Outcome State Fault Refusal :=
  alu s h 0x50 lit { tys := [.i32], lat := 4, f := on1 fun a => a } d [a]

def execMovB64 (h : Head) (d : Dst) (a : Src) (lit : Lit) (s : State) : Host.Outcome State Fault Refusal :=
  alu s h 0x51 lit { n := 2, tys := [.i64], lat := 4, f := on1 fun a => a } d [a]

/-- R169: the word of the bank that the operand indexes. -/
def movcAlu (s : State) (bank : BitVec 2) (x : Ctx) : Alu :=
  { tys := [.i32], lat := 6
    f := on1 fun a => BitVec.ofNat 64 (bankWord s x.l (s.asidOf x.c) x.ctr bank.toNat (a.toNat % 2 ^ 32)).toNat }

def execMovc (h : Head) (bank : BitVec 2) (d : Dst) (a : Src) (lit : Lit) (s : State) : Host.Outcome State Fault Refusal :=
  aluGen s h 0x52 lit (movcAlu s bank) (fun x => aluIllegal x (movcAlu s bank x) d [a]) (fun _ => []) d [a]

end Sys2Proof.Machine
end

