-- ==== Sys2Proof/Machine/Special.lean ====
section
/-! DEFINITION. Special registers, random words (R176 to R179) and words whose opcode is unassigned (R133): opcodes 0x5D to 0x5F. -/

namespace Sys2Proof.Machine

open Sys2Proof

/-- R176: the registers marked "per lane". -/
def sregPerLane : SReg → Bool
  | .tid => true | .lane => true | .par => true | .root => true | .copy => true
  | _ => false

def threadOf (x : Ctx) (slot : Nat) : Option Thread := SMap.get? x.wg.threads slot

/-- R176: the value of a special register, for a lane where it is per lane. -/
def sregVal (s : State) (x : Ctx) (r : SReg) (l : Nat × Nat) : Word64 :=
  let t := threadOf x l.2
  let w32 (v : Option Word32) : Word64 := BitVec.ofNat 64 (v.getD 0).toNat
  let co := wgCoords x.r x.wg.wgno
  match r with
  | .tid => w32 (t.map (·.tid))
  | .lane => BitVec.ofNat 64 l.1
  | .gid => BitVec.ofNat 64 x.g
  | .gw => BitVec.ofNat 64 x.r.w
  | .wgx => BitVec.ofNat 64 co.1
  | .wgy => BitVec.ofNat 64 co.2.1
  | .wgz => BitVec.ofNat 64 co.2.2
  | .stage => BitVec.ofNat 64 x.grp.stage
  | .gang => BitVec.ofNat 64 x.wg.gangNo
  | .grank => BitVec.ofNat 64 x.wg.rank
  | .core => BitVec.ofNat 64 x.c
  | .die => BitVec.ofNat 64 (dieOf x.c)
  | .dev => BitVec.ofNat 64 s.devNum.toNat
  | .gen => BitVec.ofNat 64 x.wg.gen.toNat
  | .par => w32 (t.map (·.par))
  | .root => w32 (t.map (·.root))
  | .copy => w32 (t.map (·.copy))
  | .phase => BitVec.ofNat 64 (SMap.getD x.wg.phases 0 0 % 2 ^ 32)
  | .ms => BitVec.ofNat 64 x.cr.ms
  | .cyc => x.cr.cycAtCk x.now

def sregRegs (r : SReg) : Nat := if r = .cyc then 2 else 1

def sreadAlu (s : State) (sr : SReg) (x : Ctx) : Alu :=
  { n := sregRegs sr, tys := [], lat := 4, f := fun _ => noFl (sregVal s x sr (0, 0)) }

/-- R177. -/
def execSread (h : Head) (sr : SReg) (d : Dst) (s : State) : Host.Outcome State Fault Refusal :=
  if d.sca then aluGen s h 0x5D none (sreadAlu s sr) (fun x => !dstOk x (sregRegs sr) d || sregPerLane sr) (fun _ => []) d []
  else
    laneWord s h 0x5D none
      { srcs := [], lat := 4
        illegal := fun x => !dstOk x (sregRegs sr) d
        reads := fun _ => []
        writes := fun x => dstLocs x (sregRegs sr) d
        f := fun s x l =>
          (((List.range (sregRegs sr)).zip (splitWide (sregRegs sr) (sregVal s x sr l))).map fun p =>
            (.vec l.2 (d.f.toNat + p.1), p.2), Fl.none) }

/-- R178: the count equals the value in the fourth ck after the issue ends, and counts on from there. -/
def State.setCyc (s : State) (x : Ctx) (v : Word64) : State :=
  s.modCore x.c fun k => { k with cycAt := k.cycAt ++ [(x.fin + 4, v - BitVec.ofNat 64 (x.fin + 4))] }

/-- R178. `dk` 1, or a nonzero destination field, raises ILLEGAL_OPERAND: R178 names the destination, R125 says which operand fields are reserved in a word that does not
use them, and for `dk` with a zero field the model takes R178's exception (a choice of the model's: log entry 93). -/
def execSwrite (h : Head) (sr : SReg) (d : Dst) (a : Src) (lit : Lit) (s : State) : Host.Outcome State Fault Refusal :=
  word s h 0x5E lit (fun x => sr != .cyc || srcIsVec a || d.sca || d.f != 0 || !srcOk x .i64 a)
    (fun x => headLocs x ++ srcLocs x .i64 a) (fun _ => []) fun x s =>
      let s' := (s.advance x).commit x 4 false []
      if x.ex.isEmpty then .done s' else .done (s'.setCyc x (srcVal s x .i64 0 a))

/-- R179. -/
def randWord (k : Word64) (tid ctr : Nat) : Word32 :=
  let x : Word64 := k ^^^ (BitVec.ofNat 64 ((tid + 1) * 2 ^ 32 + ctr) * 0x9E3779B97F4A7C15)
  let x := (x ^^^ (x >>> 30)) * 0xBF58476D1CE4E5B9
  let x := (x ^^^ (x >>> 27)) * 0x94D049BB133111EB
  let x := x ^^^ (x >>> 31)
  BitVec.ofNat 32 (x.toNat / 2 ^ 32)

/-- R179: the 24 high bits as a fraction. -/
def randUnit (r : Word32) : Word32 := BitVec.ofNat 32 (F32.ofExact .rne false (r.toNat / 2 ^ 8) (-24) false).1

def execRand (h : Head) (f : Bool) (d : Dst) (a : Src) (lit : Lit) (s : State) : Host.Outcome State Fault Refusal :=
  laneWord s h 0x5F lit
    { srcs := [(.i32, a)], lat := 8
      illegal := fun x => d.sca || !dstOk x 1 d
      reads := fun _ => []
      writes := fun x => dstLocs x 1 d
      f := fun s x l =>
        let tid := ((threadOf x l.2).map (·.tid.toNat)).getD 0
        let r := randWord x.r.key tid ((srcVal s x .i32 l.2 a).toNat % 2 ^ 32)
        ([(.vec l.2 d.f.toNat, if f then randUnit r else r)], Fl.none) }

/-- R134 item 1: a word that the decoder refuses raises ILLEGAL_INSTR, precisely. -/
def State.illegalWord (s : State) (w : Nat) : Host.Outcome State Fault Refusal :=
  match s.ctx? (headOf w) (opcodeOf w) none with
  | none => .fault .noIssuer
  | some x => .next (s.raisePrecise x cIllegalInstr (laneMask x.ex % 2 ^ 32))

/-- R133. -/
def execUnassignedOpcode (code : BitVec 8) (body : BitVec 56) (s : State) : Host.Outcome State Fault Refusal :=
  s.illegalWord (code.toNat * 2 ^ 56 + body.toNat)

end Sys2Proof.Machine
end

