-- ==== Sys2Proof/Machine/System.lean ====
section
/-! DEFINITION. System words (R206 to R214, R394): opcodes 0xE0 to 0xE6, and the steps ICINV_DROP_RECEIVE and DCFLUSH_COMPLETE. -/

namespace Sys2Proof.Machine

open Sys2Proof

/-! ## The frame of the system row -/

/-- R206: a source of kind 01, 10 or 11. -/
def sysSrcOk (x : Ctx) (a : Src) : Bool := !srcIsVec a && srcOk x .i32 a
/-- R206: a scalar pair or a constant pair. -/
def sysPairOk (x : Ctx) (a : Src) : Bool := (match a with | .sca _ => true | .cst _ _ => true | _ => false) && srcOk x .i64 a

/-- A system word: with no executing lane it only ends; its ports and handles are waited for, and consumed. -/
def system (s : State) (h : Head) (op : Nat) (lit : Lit) (illegal : Ctx → Bool) (srcs : List (OTy × Src)) (eff : Ctx → State → Res) :
    Host.Outcome State Fault Refusal :=
  let ps := srcs.map (·.2)
  word s h op lit (fun x => illegal x || twice (portsOf none ps)) (fun x => headLocs x ++ srcs.flatMap fun p => srcLocs x p.1 p.2) (fun _ => []) fun x s =>
    if x.ex.isEmpty then .done (s.advance x)
    else
      match operandWait x none ps with
      | some w => .wait w
      | none => eff x s

/-! ## TRAP and BRK (R207, R208) -/

def execTrap (h : Head) (a : Src) (lit : Lit) (s : State) : Host.Outcome State Fault Refusal :=
  system s h 0xE0 lit (fun x => !sysSrcOk x a) [(.i32, a)] fun x s => .raised (s.raisePrecise x cTrap ((srcVal s x .i32 0 a).toNat % 2 ^ 16))

def execBrk (h : Head) (s : State) : Host.Outcome State Fault Refusal :=
  system s h 0xE1 none (fun _ => false) [] fun x s => if s.dbgOk x.l then .exc cBreakpoint 0 else .done (s.advance x)

/-! ## ICINV and DCFLUSH (R210 to R213) -/

/-- R265: the cores of the scope instance that holds a core's workgroup. -/
def State.scopeCores (s : State) (c : Nat) (sc : Scope) : List Nat :=
  match sc with
  | .none => [c]
  | .wg => [c]
  | .gang => match s.wg? c with | some w => s.gangCores w.launch w.gang | none => [c]
  | .die => (SMap.keys s.cores).filter fun d => dieOf d == dieOf c
  | .dev => SMap.keys s.cores
  | .sys => (SMap.keys s.cores).filter fun d => (s.wg? d).isSome && s.tenantOf d == s.tenantOf c

/-- The clusters that hold those cores, by number in the module. -/
def State.scopeClusters (s : State) (c : Nat) (sc : Scope) : List Nat :=
  match sc with
  | .die => (List.range 8).map fun i => 8 * dieOf c + i
  | .dev => List.range 32
  | _ => dedup ((s.scopeCores c sc).map fun d => d / 16)

/-- R210: the writes of the workgroup to lines of a range that have not reached their homes. -/
def State.writesTo (s : State) (w : Wg) (all : Bool) (lo hi : Nat) : List Nat :=
  let hit (va n : Nat) : Bool := all || (decide (128 * lo < va + n) && decide (va < 128 * (hi + 1)))
  ((w.ops.filter fun o => o.aop != .load && o.lanes.any fun l => l.isOpen && l.space.inMemory && hit l.off o.bytes).map (·.id)) ++
    ((s.cores.flatMap fun p => p.2.chanOps.filter fun o => o.launch == w.launch && o.wgno == w.wgno && hit o.va o.bytes).map (·.id))

/-- R210: the writes of the host to a range that have not reached their homes. -/
def State.hostWritesTo (s : State) (asid : Nat) (all : Bool) (lo hi : Nat) : List Nat :=
  (s.heldWrites.filter fun h => h.asid == asid && (all || (decide (lo ≤ lineOf h.va) && decide (lineOf h.va ≤ hi))) &&
    (match h.write with | .host _ _ => true | _ => false)).map (·.id)

/-- R210: the lines of a range, and the operation that a word starts on them. -/
def cacheOpOf (s : State) (x : Ctx) (flush : Bool) (a b : Nat) (sc : Scope) : CacheOp :=
  let all := b == 0
  let lo := lineOf a
  let hi := lineOf (a + b - 1)
  { id := s.nextId, uid := x.grp.uid, ct := x.h.ct.toNat, flush := flush, lo := lo, hi := hi, all := all, asid := s.asidOf x.c,
    cores := if flush then [] else s.scopeCores x.c sc, clusters := if flush then [] else s.scopeClusters x.c sc,
    before := if flush then [] else s.writesTo x.wg all lo hi ++ (if sc == .sys then s.hostWritesTo (s.asidOf x.c) all lo hi else []), started := false }

/-- The range names a line. -/
def CacheOp.covers (o : CacheOp) (asid line : Nat) : Bool := o.asid == asid && (o.all || (decide (o.lo ≤ line) && decide (line ≤ o.hi)))

def cacheWord (s : State) (h : Head) (op : Nat) (flush : Bool) (sc : Scope) (a b : Src) (lit : Lit) : Host.Outcome State Fault Refusal :=
  system s h op lit (fun x => !sysPairOk x a || !sysSrcOk x b) [(.i64, a), (.i32, b)] fun x s =>
    let o := cacheOpOf s x flush (srcVal s x .i64 0 a).toNat ((srcVal s x .i32 0 b).toNat % 2 ^ 32) sc
    let s := (((s.advance x).incCt x).consume x [a, b]).modCore x.c fun k =>
      { k with cacheOps := k.cacheOps ++ [o]
               l1 := if flush then k.l1.filter fun l => !o.covers l.asid l.line else k.l1 }
    .done s.fresh

def execIcinv (h : Head) (scope : Scope) (a b : Src) (lit : Lit) (s : State) : Host.Outcome State Fault Refusal :=
  cacheWord s h 0xE2 false scope a b lit

def execDcflush (h : Head) (a b : Src) (lit : Lit) (s : State) : Host.Outcome State Fault Refusal :=
  cacheWord s h 0xE3 true .none a b lit

/-- The cache operation with an id, and the core that issued it. -/
def State.cacheOp? (s : State) (id : Nat) : Option (Nat × CacheOp) :=
  (s.cores.flatMap fun p => p.2.cacheOps.map fun o => (p.1, o)).find? fun p => p.2.id == id

/-- R210, R211: ICINV_DROP_RECEIVE: a core of the instance receives the drop; with the last acknowledgement the word completes. -/
def execIcinvDropReceive (core op : Nat) (s : State) : Host.Outcome State Fault Refusal :=
  match s.cacheOp? op with
  | none => .next s
  | some (c, o) =>
    let waits := (s.heldWrites.any fun h => o.before.contains h.id) || match s.wg? c with | some w => s.alive w.launch w.wgno o.before | none => false
    if o.flush || !o.cores.contains core || (!o.started && waits) then .next s
    else
      let s := o.clusters.foldl (fun s k => s.modDie (k / 8) fun d =>
        { d with icache := d.icache.filter fun l => !(l.1 == k % 8 && o.covers l.2.1 l.2.2.1) }) s
      let s := s.modCore core fun k => { k with loopStale := true }
      let left := o.cores.filter (· != core)
      if left.isEmpty then
        .next ((s.modCore c fun k => { k with cacheOps := k.cacheOps.filter (·.id != op) }).decCt c o.uid o.ct)
      else .next (s.modCore c fun k => { k with cacheOps := k.cacheOps.map fun q => if q.id == op then { q with cores := left, started := true } else q })

/-- R213: DCFLUSH_COMPLETE: the dirty lines of the range are written back on every die. -/
def execDcflushComplete (core op : Nat) (s : State) : Host.Outcome State Fault Refusal :=
  match (s.core core).cacheOps.find? (·.id == op) with
  | none => .next s
  | some o =>
    if !o.flush then .next s
    else
      let clean (d : Die) : Die := { d with l2 := d.l2.map fun (p : Nat × List L2Line) =>
        (p.1, p.2.map fun (l : L2Line) => if o.covers l.asid l.line then { l with dirty := false } else l) }
      let s := (SMap.keys s.dies).foldl (fun s d => s.modDie d clean) s
      .next ((s.modCore core fun k => { k with cacheOps := k.cacheOps.filter (·.id != op) }).decCt core o.uid o.ct)

/-! ## Trace records (R214, R441) -/

def execTrec (h : Head) (a : Src) (lit : Lit) (s : State) : Host.Outcome State Fault Refusal :=
  system s h 0xE4 lit (fun x => !sysSrcOk x a) [(.i32, a)] fun x s =>
    let tag := (srcVal s x .i32 0 a).toNat % 2 ^ 32
    .done (((s.advance x).consume x [a]).traceRecord x.c 0 tag x.pc (BitVec.ofNat 64 (laneMask x.ex)) [])

/-- R441: the four entries that carry 64 lane values. -/
def laneEntries (vs : Nat → Nat) : List (List Byte) := (List.range 4).map fun k => (List.range 16).flatMap fun i => natToBytes 4 (vs (16 * k + i))

def execTrecV (h : Head) (a b : Src) (lit : Lit) (s : State) : Host.Outcome State Fault Refusal :=
  system s h 0xE5 lit (fun x => !srcIsVec a || !srcOk x .i32 a || !sysSrcOk x b) [(.i32, a), (.i32, b)] fun x s =>
    let tag := (srcVal s x .i32 0 b).toNat % 2 ^ 32
    let v (lane : Nat) : Nat := match x.ex.find? (·.1 == lane) with
      | some l => (srcVal s x .i32 l.2 a).toNat % 2 ^ 32
      | none => 0
    .done (((s.advance x).consume x [a, b]).traceRecord x.c 1 tag x.pc (BitVec.ofNat 64 (laneMask x.ex)) (laneEntries v))

/-! ## SNAP (R394, R395) -/

/-- R394, R395: the core moves to the next generation at once; with four generations there is no cut. -/
def execSnap (h : Head) (d : Dst) (s : State) : Host.Outcome State Fault Refusal :=
  system s h 0xE6 none (fun x => !d.sca || !handleFree x d.f) [] fun x s =>
    let ti := s.tenantOf x.c
    if 4 ≤ (s.tenant ti).generations then
      .done ((s.advance x).modGroup x.c x.g fun g => { g with handles := SMap.set g.handles (handleNo d.f) ⟨.snap, 0, true, BitVec.ofNat 32 cBusy⟩ })
    else
      let id := s.nextId
      let s := startEng s x d.f .snap (.snap ti) none
      .done ((s.modCore x.c fun k => { k with ms := k.ms + 1 }).requestSnap ti (some (x.c, id)) none)

end Sys2Proof.Machine
end

