-- ==== Sys2Proof/Machine/Dispatch.lean ====
section
/-! DEFINITION. The meaning of every instruction: one arm per constructor of Instr. -/

namespace Sys2Proof.Machine

open Sys2Proof

def exec (i : Instr) (s : State) : Host.Outcome State Fault Refusal :=
  match i with
  | .iadd h sat u d a b lit => Sys2Proof.Machine.execIadd h sat u d a b lit s
  | .iaddB64 h sat u d a b lit => Sys2Proof.Machine.execIaddB64 h sat u d a b lit s
  | .iaddc h cout cin d a b lit => Sys2Proof.Machine.execIaddc h cout cin d a b lit s
  | .isub h sat u d a b lit => Sys2Proof.Machine.execIsub h sat u d a b lit s
  | .isubB64 h sat u d a b lit => Sys2Proof.Machine.execIsubB64 h sat u d a b lit s
  | .imul h d a b lit => Sys2Proof.Machine.execImul h d a b lit s
  | .imulB64 h d a b lit => Sys2Proof.Machine.execImulB64 h d a b lit s
  | .imulh h u d a b lit => Sys2Proof.Machine.execImulh h u d a b lit s
  | .imad h d a b c lit => Sys2Proof.Machine.execImad h d a b c lit s
  | .imadB64 h u d a b c lit => Sys2Proof.Machine.execImadB64 h u d a b c lit s
  | .imin h u d a b lit => Sys2Proof.Machine.execImin h u d a b lit s
  | .imax h u d a b lit => Sys2Proof.Machine.execImax h u d a b lit s
  | .iabs h sat d a lit => Sys2Proof.Machine.execIabs h sat d a lit s
  | .ineg h sat d a lit => Sys2Proof.Machine.execIneg h sat d a lit s
  | .lea h sx n d a b lit => Sys2Proof.Machine.execLea h sx n d a b lit s
  | .and h d a b lit => Sys2Proof.Machine.execAnd h d a b lit s
  | .or h d a b lit => Sys2Proof.Machine.execOr h d a b lit s
  | .xor h d a b lit => Sys2Proof.Machine.execXor h d a b lit s
  | .not h d a lit => Sys2Proof.Machine.execNot h d a lit s
  | .shl h d a b lit => Sys2Proof.Machine.execShl h d a b lit s
  | .shr h d a b lit => Sys2Proof.Machine.execShr h d a b lit s
  | .sar h d a b lit => Sys2Proof.Machine.execSar h d a b lit s
  | .rol h d a b lit => Sys2Proof.Machine.execRol h d a b lit s
  | .bfx h u d a b lit => Sys2Proof.Machine.execBfx h u d a b lit s
  | .bfi h d a b c lit => Sys2Proof.Machine.execBfi h d a b c lit s
  | .popc h d a lit => Sys2Proof.Machine.execPopc h d a lit s
  | .clz h d a lit => Sys2Proof.Machine.execClz h d a lit s
  | .brev h d a lit => Sys2Proof.Machine.execBrev h d a lit s
  | .shlB64 h d a b lit => Sys2Proof.Machine.execShlB64 h d a b lit s
  | .shrB64 h d a b lit => Sys2Proof.Machine.execShrB64 h d a b lit s
  | .sarB64 h d a b lit => Sys2Proof.Machine.execSarB64 h d a b lit s
  | .fadd h na rnd d a b lit => Sys2Proof.Machine.execFadd h na rnd d a b lit s
  | .fsub h na rnd d a b lit => Sys2Proof.Machine.execFsub h na rnd d a b lit s
  | .fmul h na rnd d a b lit => Sys2Proof.Machine.execFmul h na rnd d a b lit s
  | .ffma h nc na rnd d a b c lit => Sys2Proof.Machine.execFfma h nc na rnd d a b c lit s
  | .fmin h na d a b lit => Sys2Proof.Machine.execFmin h na d a b lit s
  | .fmax h na d a b lit => Sys2Proof.Machine.execFmax h na d a b lit s
  | .frnd h na rnd d a lit => Sys2Proof.Machine.execFrnd h na rnd d a lit s
  | .frcp h na d a lit => Sys2Proof.Machine.execFrcp h na d a lit s
  | .frsq h na d a lit => Sys2Proof.Machine.execFrsq h na d a lit s
  | .fsqrt h na d a lit => Sys2Proof.Machine.execFsqrt h na d a lit s
  | .fexp2 h na d a lit => Sys2Proof.Machine.execFexp2 h na d a lit s
  | .flog2 h na d a lit => Sys2Proof.Machine.execFlog2 h na d a lit s
  | .fsin h na d a lit => Sys2Proof.Machine.execFsin h na d a lit s
  | .fcos h na d a lit => Sys2Proof.Machine.execFcos h na d a lit s
  | .hadd2 h bf rnd d a b lit => Sys2Proof.Machine.execHadd2 h bf rnd d a b lit s
  | .hmul2 h bf rnd d a b lit => Sys2Proof.Machine.execHmul2 h bf rnd d a b lit s
  | .hfma2 h rnd d a b c lit => Sys2Proof.Machine.execHfma2 h rnd d a b c lit s
  | .bfma2 h rnd d a b c lit => Sys2Proof.Machine.execBfma2 h rnd d a b c lit s
  | .hmin2 h bf d a b lit => Sys2Proof.Machine.execHmin2 h bf d a b lit s
  | .hmax2 h bf d a b lit => Sys2Proof.Machine.execHmax2 h bf d a b lit s
  | .cvtFF h dt st rnd d a lit => Sys2Proof.Machine.execCvtFF h dt st rnd d a lit s
  | .cvtIF h st dt rnd d a lit => Sys2Proof.Machine.execCvtIF h st dt rnd d a lit s
  | .cvtFI h dt st rnd d a lit => Sys2Proof.Machine.execCvtFI h dt st rnd d a lit s
  | .cvtn h slot pos d a b c lit => Sys2Proof.Machine.execCvtn h slot pos d a b c lit s
  | .cvtw h slot pos d a lit => Sys2Proof.Machine.execCvtw h slot pos d a lit s
  | .icmpEq h comb pc u d a b lit => Sys2Proof.Machine.execIcmpEq h comb pc u d a b lit s
  | .icmpNe h comb pc u d a b lit => Sys2Proof.Machine.execIcmpNe h comb pc u d a b lit s
  | .icmpLt h comb pc u d a b lit => Sys2Proof.Machine.execIcmpLt h comb pc u d a b lit s
  | .icmpLe h comb pc u d a b lit => Sys2Proof.Machine.execIcmpLe h comb pc u d a b lit s
  | .icmpGt h comb pc u d a b lit => Sys2Proof.Machine.execIcmpGt h comb pc u d a b lit s
  | .icmpGe h comb pc u d a b lit => Sys2Proof.Machine.execIcmpGe h comb pc u d a b lit s
  | .fcmpEq h comb pc d a b lit => Sys2Proof.Machine.execFcmpEq h comb pc d a b lit s
  | .fcmpNe h comb pc d a b lit => Sys2Proof.Machine.execFcmpNe h comb pc d a b lit s
  | .fcmpLt h comb pc d a b lit => Sys2Proof.Machine.execFcmpLt h comb pc d a b lit s
  | .fcmpLe h comb pc d a b lit => Sys2Proof.Machine.execFcmpLe h comb pc d a b lit s
  | .fcmpGt h comb pc d a b lit => Sys2Proof.Machine.execFcmpGt h comb pc d a b lit s
  | .fcmpGe h comb pc d a b lit => Sys2Proof.Machine.execFcmpGe h comb pc d a b lit s
  | .fcmpUn h comb pc d a b lit => Sys2Proof.Machine.execFcmpUn h comb pc d a b lit s
  | .sel h pn p d a b lit => Sys2Proof.Machine.execSel h pn p d a b lit s
  | .pset h d a lit => Sys2Proof.Machine.execPset h d a lit s
  | .pmovGet h d => Sys2Proof.Machine.execPmovGet h d s
  | .pmovPut h dk a b lit => Sys2Proof.Machine.execPmovPut h dk a b lit s
  | .mov h d a lit => Sys2Proof.Machine.execMov h d a lit s
  | .movB64 h d a lit => Sys2Proof.Machine.execMovB64 h d a lit s
  | .movc h bank d a lit => Sys2Proof.Machine.execMovc h bank d a lit s
  | .shflIdx h d a b lit => Sys2Proof.Machine.execShflIdx h d a b lit s
  | .shflUp h d a b lit => Sys2Proof.Machine.execShflUp h d a b lit s
  | .shflDown h d a b lit => Sys2Proof.Machine.execShflDown h d a b lit s
  | .shflXor h d a b lit => Sys2Proof.Machine.execShflXor h d a b lit s
  | .voteAny h pn p d => Sys2Proof.Machine.execVoteAny h pn p d s
  | .voteAll h pn p d => Sys2Proof.Machine.execVoteAll h pn p d s
  | .voteBallot h pn p d => Sys2Proof.Machine.execVoteBallot h pn p d s
  | .redg h ty op d a lit => Sys2Proof.Machine.execRedg h ty op d a lit s
  | .scanInc h ty op d a lit => Sys2Proof.Machine.execScanInc h ty op d a lit s
  | .scanExc h ty op d a lit => Sys2Proof.Machine.execScanExc h ty op d a lit s
  | .sread h sr d => Sys2Proof.Machine.execSread h sr d s
  | .swrite h sr d a lit => Sys2Proof.Machine.execSwrite h sr d a lit s
  | .rand h f d a lit => Sys2Proof.Machine.execRand h f d a lit s
  | .unassignedOpcode code body => Sys2Proof.Machine.execUnassignedOpcode code body s
  | .nop h dk => Sys2Proof.Machine.execNop h dk s
  | .bra h dk target => Sys2Proof.Machine.execBra h dk target s
  | .braU h dk target => Sys2Proof.Machine.execBraU h dk target s
  | .brx h dk x => Sys2Proof.Machine.execBrx h dk x s
  | .call h dk ld target => Sys2Proof.Machine.execCall h dk ld target s
  | .callx h dk ld x => Sys2Proof.Machine.execCallx h dk ld x s
  | .ret h dk x => Sys2Proof.Machine.execRet h dk x s
  | .meet h dk ld target => Sys2Proof.Machine.execMeet h dk ld target s
  | .mrset h dk x => Sys2Proof.Machine.execMrset h dk x s
  | .bar h dk stageForm => Sys2Proof.Machine.execBar h dk stageForm s
  | .barArv h dk stageForm => Sys2Proof.Machine.execBarArv h dk stageForm s
  | .barWait h dk stageForm => Sys2Proof.Machine.execBarWait h dk stageForm s
  | .barg h dk launchForm => Sys2Proof.Machine.execBarg h dk launchForm s
  | .bargArv h dk launchForm => Sys2Proof.Machine.execBargArv h dk launchForm s
  | .bargWait h dk launchForm => Sys2Proof.Machine.execBargWait h dk launchForm s
  | .fetch h dk ld p => Sys2Proof.Machine.execFetch h dk ld p s
  | .fetchV h dk ld p => Sys2Proof.Machine.execFetchV h dk ld p s
  | .exit h dk => Sys2Proof.Machine.execExit h dk s
  | .tail h dk => Sys2Proof.Machine.execTail h dk s
  | .yield h dk => Sys2Proof.Machine.execYield h dk s
  | .resampleL pz a b lit => Sys2Proof.Machine.execResampleL pz a b lit s
  | .resampleG pz a b lit => Sys2Proof.Machine.execResampleG pz a b lit s
  | .ld h sx m scope order size => Sys2Proof.Machine.execLd h sx m scope order size s
  | .ldNc h sx m scope order size => Sys2Proof.Machine.execLdNc h sx m scope order size s
  | .ldStr h sx m scope order size => Sys2Proof.Machine.execLdStr h sx m scope order size s
  | .lds h sx m scope order size => Sys2Proof.Machine.execLds h sx m scope order size s
  | .ldp h rank m scope order size => Sys2Proof.Machine.execLdp h rank m scope order size s
  | .st h m chan scope order size => Sys2Proof.Machine.execSt h m chan scope order size s
  | .sts h m scope order size => Sys2Proof.Machine.execSts h m scope order size s
  | .stp h rank m scope order size => Sys2Proof.Machine.execStp h rank m scope order size s
  | .atomAdd h m chan scope order size => Sys2Proof.Machine.execAtomAdd h m chan scope order size s
  | .atomMin h u m chan scope order size => Sys2Proof.Machine.execAtomMin h u m chan scope order size s
  | .atomMax h u m chan scope order size => Sys2Proof.Machine.execAtomMax h u m chan scope order size s
  | .atomAnd h m chan scope order size => Sys2Proof.Machine.execAtomAnd h m chan scope order size s
  | .atomOr h m chan scope order size => Sys2Proof.Machine.execAtomOr h m chan scope order size s
  | .atomXor h m chan scope order size => Sys2Proof.Machine.execAtomXor h m chan scope order size s
  | .atomExch h m chan scope order size => Sys2Proof.Machine.execAtomExch h m chan scope order size s
  | .atomCas h m chan scope order size => Sys2Proof.Machine.execAtomCas h m chan scope order size s
  | .atomFadd h m chan scope order => Sys2Proof.Machine.execAtomFadd h m chan scope order s
  | .redAdd h m chan scope order size => Sys2Proof.Machine.execRedAdd h m chan scope order size s
  | .redMin h u m chan scope order size => Sys2Proof.Machine.execRedMin h u m chan scope order size s
  | .redMax h u m chan scope order size => Sys2Proof.Machine.execRedMax h u m chan scope order size s
  | .redFadd h ty slot m chan scope order => Sys2Proof.Machine.execRedFadd h ty slot m chan scope order s
  | .fence h scope order => Sys2Proof.Machine.execFence h scope order s
  | .mwait h eq m scope order => Sys2Proof.Machine.execMwait h eq m scope order s
  | .mwaitB64 h eq m scope order => Sys2Proof.Machine.execMwaitB64 h eq m scope order s
  | .chain h ka kb => Sys2Proof.Machine.execChain h ka kb s
  | .chainAll h ka => Sys2Proof.Machine.execChainAll h ka s
  | .drain h hd k => Sys2Proof.Machine.execDrain h hd k s
  | .chstat h d k n => Sys2Proof.Machine.execChstat h d k n s
  | .chreset h k => Sys2Proof.Machine.execChreset h k s
  | .subscribe h hd q n => Sys2Proof.Machine.execSubscribe h hd q n s
  | .unsub h n => Sys2Proof.Machine.execUnsub h n s
  | .wown h rank m => Sys2Proof.Machine.execWown h rank m s
  | .copy h hd base chan scope => Sys2Proof.Machine.execCopy h hd base chan scope s
  | .copyT h hd base chan scope size => Sys2Proof.Machine.execCopyT h hd base chan scope size s
  | .hgather h hd base size => Sys2Proof.Machine.execHgather h hd base size s
  | .cbset h q n => Sys2Proof.Machine.execCbset h q n s
  | .cbwaitP h d cnt n lit => Sys2Proof.Machine.execCbwaitP h d cnt n lit s
  | .cbwaitC h d cnt n lit => Sys2Proof.Machine.execCbwaitC h d cnt n lit s
  | .cbrelP h cnt n lit => Sys2Proof.Machine.execCbrelP h cnt n lit s
  | .cbrelC h cnt n lit => Sys2Proof.Machine.execCbrelC h cnt n lit s
  | .htest h pd hs => Sys2Proof.Machine.execHtest h pd hs s
  | .hwait h all d m lit => Sys2Proof.Machine.execHwait h all d m lit s
  | .hcancel h hs => Sys2Proof.Machine.execHcancel h hs s
  | .hmov h hd hs sg => Sys2Proof.Machine.execHmov h hd hs sg s
  | .mldb h half fb col kb sx => Sys2Proof.Machine.execMldb h half fb col kb sx s
  | .mldbPe h half fb col kb sx sy => Sys2Proof.Machine.execMldbPe h half fb col kb sx sy s
  | .mlda h fa row rows kb sx => Sys2Proof.Machine.execMlda h fa row rows kb sx s
  | .mldaV h fa row kb sy => Sys2Proof.Machine.execMldaV h fa row kb sy s
  | .mldaG h fa row rows kb sx => Sys2Proof.Machine.execMldaG h fa row rows kb sx s
  | .mzero h side half row col rows => Sys2Proof.Machine.execMzero h side half row col rows s
  | .mma h half fa fb row col rows => Sys2Proof.Machine.execMma h half fa fb row col rows s
  | .mmaZ h half fa fb row col rows => Sys2Proof.Machine.execMmaZ h half fa fb row col rows s
  | .mmas h fa row col rows => Sys2Proof.Machine.execMmas h fa row col rows s
  | .mscale h half row col rows sx => Sys2Proof.Machine.execMscale h half row col rows sx s
  | .mscaleL h half row col rows => Sys2Proof.Machine.execMscaleL h half row col rows s
  | .mside h row rows sx => Sys2Proof.Machine.execMside h row rows sx s
  | .msideQ h row rows => Sys2Proof.Machine.execMsideQ h row rows s
  | .msideW h row rows sx => Sys2Proof.Machine.execMsideW h row rows sx s
  | .mrdV h half row col sy => Sys2Proof.Machine.execMrdV h half row col sy s
  | .mrdSp h half fa row col rows sx => Sys2Proof.Machine.execMrdSp h half fa row col rows sx s
  | .mwrV h half row col sy => Sys2Proof.Machine.execMwrV h half row col sy s
  | .mwrSp h half fa row col rows sx => Sys2Proof.Machine.execMwrSp h half fa row col rows sx s
  | .mcomp h fb n kb sx sy => Sys2Proof.Machine.execMcomp h fb n kb sx sy s
  | .mspma h half fa fb row col rows sx => Sys2Proof.Machine.execMspma h half fa fb row col rows sx s
  | .mspmaZ h half fa fb row col rows sx => Sys2Proof.Machine.execMspmaZ h half fa fb row col rows sx s
  | .mdrain h half fa row col rows sx sy => Sys2Proof.Machine.execMdrain h half fa row col rows sx sy s
  | .mdrainAdd h half fa row col rows sx sy => Sys2Proof.Machine.execMdrainAdd h half fa row col rows sx sy s
  | .mgang h log => Sys2Proof.Machine.execMgang h log s
  | .mchk h => Sys2Proof.Machine.execMchk h s
  | .trap h a lit => Sys2Proof.Machine.execTrap h a lit s
  | .brk h => Sys2Proof.Machine.execBrk h s
  | .icinv h scope a b lit => Sys2Proof.Machine.execIcinv h scope a b lit s
  | .dcflush h a b lit => Sys2Proof.Machine.execDcflush h a b lit s
  | .trec h a lit => Sys2Proof.Machine.execTrec h a lit s
  | .trecV h a b lit => Sys2Proof.Machine.execTrecV h a b lit s
  | .snap h d => Sys2Proof.Machine.execSnap h d s
  | .clauseFetch core grp => Sys2Proof.Machine.execClauseFetch core grp s
  | .clauseFetchMissFill core grp => Sys2Proof.Machine.execClauseFetchMissFill core grp s
  | .groupFormation core => Sys2Proof.Machine.execGroupFormation core s
  | .groupPark core => Sys2Proof.Machine.execGroupPark core s
  | .parkedGroupReturn core => Sys2Proof.Machine.execParkedGroupReturn core s
  | .plazaBarrierComplete core launchForm => Sys2Proof.Machine.execPlazaBarrierComplete core launchForm s
  | .tailDeadlockTimeout core => Sys2Proof.Machine.execTailDeadlockTimeout core s
  | .retirementTrackerEmpty core => Sys2Proof.Machine.execRetirementTrackerEmpty core s
  | .coordinateDelivery launch => Sys2Proof.Machine.execCoordinateDelivery launch s
  | .loadReply core op => Sys2Proof.Machine.execLoadReply core op s
  | .atomReply core op => Sys2Proof.Machine.execAtomReply core op s
  | .homeWriteArrival core op lane => Sys2Proof.Machine.execHomeWriteArrival core op lane s
  | .storeAck core op => Sys2Proof.Machine.execStoreAck core op s
  | .peerScratchpadWrite core op lane => Sys2Proof.Machine.execPeerScratchpadWrite core op lane s
  | .mwaitRetest core grp => Sys2Proof.Machine.execMwaitRetest core grp s
  | .subscribeFillComplete core n => Sys2Proof.Machine.execSubscribeFillComplete core n s
  | .unsubComplete core n => Sys2Proof.Machine.execUnsubComplete core n s
  | .copyQ2Command core grp cmd => Sys2Proof.Machine.execCopyQ2Command core grp cmd s
  | .q2CopyStart core grp => Sys2Proof.Machine.execQ2CopyStart core grp s
  | .copyComplete core op => Sys2Proof.Machine.execCopyComplete core op s
  | .hgatherComplete core op => Sys2Proof.Machine.execHgatherComplete core op s
  | .drainComplete core op => Sys2Proof.Machine.execDrainComplete core op s
  | .icinvDropReceive core op => Sys2Proof.Machine.execIcinvDropReceive core op s
  | .dcflushComplete core op => Sys2Proof.Machine.execDcflushComplete core op s
  | .channelPacketSend core stream nops link => Sys2Proof.Machine.execChannelPacketSend core stream nops link s
  | .channelPacketArrive n => Sys2Proof.Machine.execChannelPacketArrive n s
  | .ackSend die stream => Sys2Proof.Machine.execAckSend die stream s
  | .channelAckReceive n => Sys2Proof.Machine.execChannelAckReceive n s
  | .nakReceive n => Sys2Proof.Machine.execNakReceive n s
  | .sclReceive n => Sys2Proof.Machine.execSclReceive n s
  | .linkDownNotice core stream => Sys2Proof.Machine.execLinkDownNotice core stream s
  | .channelAckTimeout core stream => Sys2Proof.Machine.execChannelAckTimeout core stream s
  | .rsqReceive n => Sys2Proof.Machine.execRsqReceive n s
  | .rsaReceive n => Sys2Proof.Machine.execRsaReceive n s
  | .resyncAttemptTimeout core stream => Sys2Proof.Machine.execResyncAttemptTimeout core stream s
  | .causewayLinkFail link => Sys2Proof.Machine.execCausewayLinkFail link s
  | .causewayLinkUp link agreed => Sys2Proof.Machine.execCausewayLinkUp link agreed s
  | .matrixQ0Command core grp cmd => Sys2Proof.Machine.execMatrixQ0Command core grp cmd s
  | .q0CommandEnqueue core grp => Sys2Proof.Machine.execQ0CommandEnqueue core grp s
  | .matrixWordStart core => Sys2Proof.Machine.execMatrixWordStart core s
  | .matrixWordEnd core => Sys2Proof.Machine.execMatrixWordEnd core s
  | .mldaGTransfer core => Sys2Proof.Machine.execMldaGTransfer core s
  | .mdrainComplete core op => Sys2Proof.Machine.execMdrainComplete core op s
  | .tollgateWindow island => Sys2Proof.Machine.execTollgateWindow island s
  | .resampleStepBegin launch gangForm gang => Sys2Proof.Machine.execResampleStepBegin launch gangForm gang s
  | .resampleStepEnd launch gangForm gang => Sys2Proof.Machine.execResampleStepEnd launch gangForm gang s
  | .resampleStallTimeout core => Sys2Proof.Machine.execResampleStallTimeout core s
  | .l2MissTranslate core op lane => Sys2Proof.Machine.execL2MissTranslate core op lane s
  | .faultRecord tenant => Sys2Proof.Machine.execFaultRecord tenant s
  | .faultRingRoom tenant => Sys2Proof.Machine.execFaultRingRoom tenant s
  | .faultAnswerRetry tenant id => Sys2Proof.Machine.execFaultAnswerRetry tenant id s
  | .faultAnswerRefuse tenant id => Sys2Proof.Machine.execFaultAnswerRefuse tenant id s
  | .faultSwitchOut core => Sys2Proof.Machine.execFaultSwitchOut core s
  | .faultResume launch wgno => Sys2Proof.Machine.execFaultResume launch wgno s
  | .homeMapChange asid region entry => Sys2Proof.Machine.execHomeMapChange asid region entry s
  | .shootDownRequest asid va len => Sys2Proof.Machine.execShootDownRequest asid va len s
  | .shootdownReceive core => Sys2Proof.Machine.execShootdownReceive core s
  | .migrationRequest asid region newHome newTier frame => Sys2Proof.Machine.execMigrationRequest asid region newHome newTier frame s
  | .migrationLineMove die slot => Sys2Proof.Machine.execMigrationLineMove die slot s
  | .cutBroadcastReceive tenant atDie n => Sys2Proof.Machine.execCutBroadcastReceive tenant atDie n s
  | .milestoneMarkerSend tenant fromHub src die => Sys2Proof.Machine.execMilestoneMarkerSend tenant fromHub src die s
  | .milestoneMarkerReceive tenant fromHub src die => Sys2Proof.Machine.execMilestoneMarkerReceive tenant fromHub src die s
  | .milestoneDrainPage tenant => Sys2Proof.Machine.execMilestoneDrainPage tenant s
  | .revertExecute queue => Sys2Proof.Machine.execRevertExecute queue s
  | .queueDoorbell queue value wide => Sys2Proof.Machine.execQueueDoorbell queue value wide s
  | .nopPacket queue => Sys2Proof.Machine.execNopPacket queue s
  | .launchPacket queue => Sys2Proof.Machine.execLaunchPacket queue s
  | .waitPacket queue => Sys2Proof.Machine.execWaitPacket queue s
  | .waitConditionMet queue => Sys2Proof.Machine.execWaitConditionMet queue s
  | .signalPacket queue => Sys2Proof.Machine.execSignalPacket queue s
  | .copyPacket queue => Sys2Proof.Machine.execCopyPacket queue s
  | .hubCopyComplete queue num => Sys2Proof.Machine.execHubCopyComplete queue num s
  | .snapPacket queue => Sys2Proof.Machine.execSnapPacket queue s
  | .revertPacket queue => Sys2Proof.Machine.execRevertPacket queue s
  | .appendPacket queue => Sys2Proof.Machine.execAppendPacket queue s
  | .dumpResumePacket queue => Sys2Proof.Machine.execDumpResumePacket queue s
  | .unassignedPacket queue => Sys2Proof.Machine.execUnassignedPacket queue s
  | .launchAdmission launch => Sys2Proof.Machine.execLaunchAdmission launch s
  | .preemption launch => Sys2Proof.Machine.execPreemption launch s
  | .contextSave core => Sys2Proof.Machine.execContextSave core s
  | .launchResume launch => Sys2Proof.Machine.execLaunchResume launch s
  | .haltBroadcastReceive core => Sys2Proof.Machine.execHaltBroadcastReceive core s
  | .dumpWrite core => Sys2Proof.Machine.execDumpWrite core s
  | .gangKill launch gang => Sys2Proof.Machine.execGangKill launch gang s
  | .gangRelaunch launch gang => Sys2Proof.Machine.execGangRelaunch launch gang s
  | .debugStop wg lid cap => Sys2Proof.Machine.execDebugStop wg lid cap s
  | .debugResume wg lid cap => Sys2Proof.Machine.execDebugResume wg lid cap s
  | .debugEnd lid cap => Sys2Proof.Machine.execDebugEnd lid cap s
  | .debugTresume lid cap => Sys2Proof.Machine.execDebugTresume lid cap s
  | .capabilityMint r => Sys2Proof.Machine.execCapabilityMint r s
  | .capabilityDelegate r => Sys2Proof.Machine.execCapabilityDelegate r s
  | .capabilityRevoke slot => Sys2Proof.Machine.execCapabilityRevoke slot s
  | .hostCxlMemAccess pa write => Sys2Proof.Machine.execHostCxlMemAccess pa write s
  | .deviceNumberWrite value => Sys2Proof.Machine.execDeviceNumberWrite value s
  | .securityCounterRead => Sys2Proof.Machine.execSecurityCounterRead s
  | .tenantCreate tenant cfg => Sys2Proof.Machine.execTenantCreate tenant cfg s
  | .tenantDelete tenant => Sys2Proof.Machine.execTenantDelete tenant s
  | .queueMap queue tenant log base => Sys2Proof.Machine.execQueueMap queue tenant log base s
  | .queueReset queue => Sys2Proof.Machine.execQueueReset queue s
  | .queueUnmap queue => Sys2Proof.Machine.execQueueUnmap queue s
  | .islandPointRequest island point => Sys2Proof.Machine.execIslandPointRequest island point s
  | .islandPointChangeDone island => Sys2Proof.Machine.execIslandPointChangeDone island s
  | .islandBudgetWrite island budget => Sys2Proof.Machine.execIslandBudgetWrite island budget s
  | .thermalThrottle island temp => Sys2Proof.Machine.execThermalThrottle island temp s
  | .thermalTrip island temp => Sys2Proof.Machine.execThermalTrip island temp s
  | .thermalTripClear value => Sys2Proof.Machine.execThermalTripClear value s
  | .erasureTableWrite rank entry value => Sys2Proof.Machine.execErasureTableWrite rank entry value s
  | .patrolScrub unit => Sys2Proof.Machine.execPatrolScrub unit s
  | .correctedCounterClear kind n => Sys2Proof.Machine.execCorrectedCounterClear kind n s
  | .deviceReset => Sys2Proof.Machine.execDeviceReset s
  | .nonce => Sys2Proof.Machine.execNonce s
  | .transfer newOwner nonce signature => Sys2Proof.Machine.execTransfer newOwner nonce signature s
  | .getVersion => Sys2Proof.Machine.execGetVersion s
  | .getCapabilities => Sys2Proof.Machine.execGetCapabilities s
  | .negotiateAlgorithms => Sys2Proof.Machine.execNegotiateAlgorithms s
  | .getDigests => Sys2Proof.Machine.execGetDigests s
  | .getCertificate => Sys2Proof.Machine.execGetCertificate s
  | .challenge nonce => Sys2Proof.Machine.execChallenge nonce s
  | .getMeasurements nonce => Sys2Proof.Machine.execGetMeasurements nonce s
  | .keyExchange nonce => Sys2Proof.Machine.execKeyExchange nonce s
  | .finish nonce => Sys2Proof.Machine.execFinish nonce s
  | .spdmUnsupportedRequest code => Sys2Proof.Machine.execSpdmUnsupportedRequest code s
  | .registerWrite bar offset value bytes => Sys2Proof.Machine.execRegisterWrite bar offset value bytes s
  | .fixedLatencyResult core op => Sys2Proof.Machine.execFixedLatencyResult core op s

end Sys2Proof.Machine
end

