-- ==== Sys2Proof/Machine/Turn.lean ====
section
/-! DEFINITION. One turn of the agenda: a group issues, a step of the table that is no word happens, or the world acts. -/

namespace Sys2Proof.Machine

open Sys2Proof

/-- The instruction is a word: it is encoded. -/
def isWord (i : Instr) : Bool := !(encodeWords i).isEmpty

/-- A word at the group that `cur` names: its instruction's meaning, or the exception of a word that the decoder refuses (R134). -/
def runWord (w : Nat) (next : Option Nat) (s : State) : Host.Outcome State Fault Refusal :=
  match decodeWord w next with
  | .ok i => exec i s
  | .error _ => s.illegalWord w

/-- A step of the table that a round names: the meaning that `exec` gives it. -/
def runEvent (k : EvKind) (a b c d : Nat) (s : State) : Host.Outcome State Fault Refusal :=
  match k with
  | .clauseFetchMissFill => execClauseFetchMissFill a b s
  | .groupFormation => execGroupFormation a s
  | .groupPark => execGroupPark a s
  | .parkedGroupReturn => execParkedGroupReturn a s
  | .plazaBarrierComplete => execPlazaBarrierComplete a (b != 0) s
  | .retirementTrackerEmpty => execRetirementTrackerEmpty a s
  | .coordinateDelivery => execCoordinateDelivery a s
  | .loadReply => execLoadReply a b s
  | .atomReply => execAtomReply a b s
  | .homeWriteArrival => execHomeWriteArrival a b c s
  | .storeAck => execStoreAck a b s
  | .peerScratchpadWrite => execPeerScratchpadWrite a b c s
  | .mwaitRetest => execMwaitRetest a b s
  | .subscribeFillComplete => execSubscribeFillComplete a b s
  | .unsubComplete => execUnsubComplete a b s
  | .q2CopyStart => execQ2CopyStart a b s
  | .copyComplete => execCopyComplete a b s
  | .hgatherComplete => execHgatherComplete a b s
  | .drainComplete => execDrainComplete a b s
  | .icinvDropReceive => execIcinvDropReceive a b s
  | .dcflushComplete => execDcflushComplete a b s
  | .channelPacketSend => execChannelPacketSend a b c d s
  | .channelPacketArrive => execChannelPacketArrive a s
  | .ackSend => execAckSend a b s
  | .channelAckReceive => execChannelAckReceive a s
  | .nakReceive => execNakReceive a s
  | .sclReceive => execSclReceive a s
  | .rsqReceive => execRsqReceive a s
  | .rsaReceive => execRsaReceive a s
  | .q0CommandEnqueue => execQ0CommandEnqueue a b s
  | .matrixWordStart => execMatrixWordStart a s
  | .matrixWordEnd => execMatrixWordEnd a s
  | .mldaGTransfer => execMldaGTransfer a s
  | .mdrainComplete => execMdrainComplete a b s
  | .tollgateWindow => execTollgateWindow a s
  | .resampleStepBegin => execResampleStepBegin a (b != 0) c s
  | .resampleStepEnd => execResampleStepEnd a (b != 0) c s
  | .l2MissTranslate => execL2MissTranslate a b c s
  | .faultRecord => execFaultRecord a s
  | .faultRingRoom => execFaultRingRoom a s
  | .faultResume => execFaultResume a b s
  | .shootdownReceive => execShootdownReceive a s
  | .migrationLineMove => execMigrationLineMove a b s
  | .cutBroadcastReceive => execCutBroadcastReceive a (b != 0) c s
  | .milestoneMarkerSend => execMilestoneMarkerSend a (b != 0) c d s
  | .milestoneMarkerReceive => execMilestoneMarkerReceive a (b != 0) c d s
  | .milestoneDrainPage => execMilestoneDrainPage a s
  | .revertExecute => execRevertExecute a s
  | .nopPacket => execNopPacket a s
  | .launchPacket => execLaunchPacket a s
  | .waitPacket => execWaitPacket a s
  | .waitConditionMet => execWaitConditionMet a s
  | .signalPacket => execSignalPacket a s
  | .copyPacket => execCopyPacket a s
  | .hubCopyComplete => execHubCopyComplete a b s
  | .snapPacket => execSnapPacket a s
  | .revertPacket => execRevertPacket a s
  | .appendPacket => execAppendPacket a s
  | .dumpResumePacket => execDumpResumePacket a s
  | .unassignedPacket => execUnassignedPacket a s
  | .launchAdmission => execLaunchAdmission a s
  | .preemption => execPreemption a s
  | .contextSave => execContextSave a s
  | .launchResume => execLaunchResume a s
  | .haltBroadcastReceive => execHaltBroadcastReceive a s
  | .dumpWrite => execDumpWrite a s
  | .gangKill => execGangKill a b s
  | .gangRelaunch => execGangRelaunch a b s
  | .islandPointChangeDone => execIslandPointChangeDone a s
  | .deviceReset => execDeviceReset s
  | .fixedLatencyResult => execFixedLatencyResult a b s
  | .linkDownNotice => execLinkDownNotice a b s

/-- A turn. A word comes to issue only through its group's turn. -/
def runTurn (t : Turn) (s : State) : Host.Outcome State Fault Refusal :=
  match t with
  | .issue c g =>
    (match s.turnOf c g with
    | .done s => .next s
    | .word s w next => runWord w next s)
  | .happen i => if isWord i then .next s else exec i s
  | .event k a b c d => runEvent k a b c d s
  | .env e => .next (s.env e)

end Sys2Proof.Machine
end

