-- ==== Sys2Proof/Machine/Step.lean ====
section
/-! DEFINITION. A step: the turn at the head of the agenda; an empty agenda is filled with a round. -/

namespace Sys2Proof.Machine

open Sys2Proof

/-- One step. -/
def step (s : State) : Host.Outcome State Fault Refusal :=
  match s.turns with
  | [] => .next { s with turns := s.round }
  | t :: ts => runTurn t { s with turns := ts }

/-- `s` with an instruction where the next step takes its word from: the fetched clause of the only group of core 0, whose turn is next. -/
def State.withFetchWord (s : State) (nbits w : Nat) : State := s.placeWords (fetchWords nbits w)

end Sys2Proof.Machine
end

