-- ==== Sys2Proof/Safety.lean ====
section
/-! DEFINITION. What counts as a safe run, and the terms in which the statements say what a word does: when it comes to issue, and what it may change. -/

namespace Sys2Proof

open Sys2Proof.Machine

/-- Device and host memory is in its canonical form. -/
def MemOk (s : State) : Prop := s.mem.wf = true

/-- The step answers a next state. -/
def Runs (s : State) : Prop := ∃ t, step s = .next t

/-! ## When a word issues -/

/-- The group that `cur` names comes to issue the word: its workgroup runs, it has its clause, no acquire read holds it (R270), the counter that the word names can go up
(R128), and no register file holds an uncorrectable error (R425). -/
def Issues (s : State) (h : Head) (op : Nat) (lit : Lit) (x : Ctx) : Prop :=
  s.ctx? h op lit = some x ∧ x.grp.holdOp = none ∧ (h.ct = 0 ∨ x.grp.ct h.ct.toNat < 31) ∧ s.regsSound = true

/-- R131: the checking scoreboard has nothing to report: it is off, or no lane executes, or no place named has a write still to come. -/
def Checked (x : Ctx) (places : List Loc) : Prop :=
  x.r.chk = false ∨ x.ex = [] ∨ places.any (x.wg.busyAt x.now) = false

/-- R127, R129: no write to the places is still to come, so that a result written to one of them replaces nothing still outstanding. -/
def Quiet (x : Ctx) (ws : List (Loc × Word32)) : Prop := ∀ p ∈ ws, x.wg.busyAt x.now p.1 = false

/-! ## What a word changes -/

/-- The value that a list of results leaves at a place: the last one written there, if any. -/
def written (ws : List (Loc × Word32)) (l : Loc) : Option Word32 := ws.foldl (fun a p => if p.1 = l then some p.2 else a) none

/-- The ports that the sources of a word pop. -/
def pops (x : Ctx) (srcs : List Src) : List Nat := if x.ex.isEmpty then [] else srcs.filterMap srcPort

/-- The handles that the sources of a word free. -/
def frees (x : Ctx) (srcs : List Src) : List Nat := if x.ex.isEmpty then [] else srcs.filterMap srcHandle

/-- A group but for what a word of it may change. -/
def Machine.Group.kept (g : Group) : Group :=
  { g with
    sregs := [], handles := [], ports := [], q2Started := 0, q2Gens := [], cts := [], flags := 0, hdr := 0, wix := 0, fetched := false, tested := false
    notBefore := 0, settle := false, lastIssue := 0, seen := [], wait := none }

/-- What a group's slot holds after a word: the next word's place, the results in scalar registers, its flags, the counter that the word
names, the handles freed, the queues popped and pushed; nothing else but the times of issue. -/
structure GroupAfter (x : Ctx) (g : Group) (ws : List (Loc × Word32)) (fl : Word32) (srcs : List Src) (push : Option (Nat × Word32)) : Prop where
  rest : g.kept = x.grp.kept
  wait : g.wait = none
  place : (g.hdr, g.wix, g.fetched) = ((x.grp.next x.lit.isSome).hdr, (x.grp.next x.lit.isSome).wix, (x.grp.next x.lit.isSome).fetched)
  sregs : ∀ r, g.sreg r = (written ws (.sca x.grp.uid r)).getD (x.grp.sreg r)
  flags : g.flags = x.grp.flags ||| fl
  cts : ∀ n, n ≠ 0 → g.ct n = x.grp.ct n + (if n = x.h.ct.toNat then 1 else 0)
  handles : ∀ n, SMap.get? g.handles n = if n ∈ frees x srcs then none else SMap.get? x.grp.handles n
  ports : ∀ p, p < 6 → g.port p = (if p ∈ pops x srcs then (x.grp.port p).drop 1 else x.grp.port p) ++
    (match push with | some q => if q.1 = p then [q.2] else [] | none => [])

/-- A thread but for its predicates. -/
def Machine.Thread.noPreds (t : Thread) : Thread := { t with preds := 0 }

/-- What a workgroup holds after a word of one of its groups that writes `ws`, raises the flags `fl`, takes its sources and pushes to a queue. -/
structure WgAfter (x : Ctx) (w : Wg) (ws : List (Loc × Word32)) (fl : Word32) (srcs : List Src) (push : Option (Nat × Word32)) : Prop where
  rest : w = { x.wg with
    threads := w.threads, groups := w.groups, vregs := w.vregs, stageQ := w.stageQ, flights := w.flights, parked := w.parked
    lastIssue := w.lastIssue, issues := w.issues, hist := w.hist, reasons := w.reasons }
  parked : (∀ p ∈ x.wg.parked, p.group.uid ≠ x.grp.uid) → w.parked = x.wg.parked
  vregs : ∀ slot r, r < 256 → w.vreg slot r = (written ws (.vec slot r)).getD (x.wg.vreg slot r)
  threads : ∀ slot, (SMap.get? w.threads slot).map Thread.noPreds = (SMap.get? x.wg.threads slot).map Thread.noPreds
  preds : ∀ slot th th', SMap.get? x.wg.threads slot = some th → SMap.get? w.threads slot = some th' → ∀ p, p < 7 →
    th'.pred p = ((written ws (.pred slot p)).map (· != 0)).getD (th.pred p)
  group : ∃ g, w.group? x.g = some g ∧ GroupAfter x g ws fl srcs push
  others : ∀ j y, j ≠ x.g → x.wg.group? j = some y → y.uid ≠ x.grp.uid → w.group? j = some y
  stageQ : ∀ k, SMap.getD w.stageQ k [] =
    (if (6 ∈ pops x srcs ∧ k = 2 * (x.grp.stage - 1)) ∨ (7 ∈ pops x srcs ∧ k = 2 * (x.grp.stage - 1) + 1) then (SMap.getD x.wg.stageQ k []).drop 1
     else SMap.getD x.wg.stageQ k []) ++
    (match push with | some q => if 6 ≤ q.1 ∧ k = 2 * x.grp.stage + (q.1 - 6) then [q.2] else [] | none => [])

/-- What the module holds after such a word: every byte of memory, every other core, every die, tenant, queue, launch and platform register is
as before; of the core, its clock, its issue ports, its workgroup, and its L1 where a handle or q3 is joined (R275). -/
structure After (s t : State) (x : Ctx) (ws : List (Loc × Word32)) (fl : Word32) (srcs : List Src) (push : Option (Nat × Word32)) : Prop where
  world : t = { s with cores := t.cores, free := t.free, nextId := t.nextId }
  cores : ∀ d, d ≠ x.c → t.core d = s.core d
  core : t.core x.c = { s.core x.c with
    ck := (t.core x.c).ck, vecFree := (t.core x.c).vecFree, sideFree := (t.core x.c).sideFree, l1 := (t.core x.c).l1, wg := (t.core x.c).wg }
  l1 : frees x srcs = [] → 3 ∉ pops x srcs → (t.core x.c).l1 = (s.core x.c).l1
  wg : ∃ w, t.wg? x.c = some w ∧ WgAfter x w ws fl srcs push

/-- The registers that a result goes to: none where the destination is a queue. -/
def results (x : Ctx) (n : Nat) (d : Dst) (f : Nat → Word64) : List (Loc × Word32) := if (dstPort d).isSome then [] else dstWrites x n d f

/-- The push that a result makes: where the destination is a queue and a lane executes. -/
def pushOf (x : Ctx) (d : Dst) (v : Word64) : Option (Nat × Word32) := (dstPort d).bind fun p => if x.ex.isEmpty then none else some (p, lo32 v)

end Sys2Proof
end

