-- ==== Sys2Proof/Certificates/Slice0/Obligations.lean ====
section
/-! DEFINITION. The statements for the provers, and the tables of instructions that they speak of. -/

namespace Sys2Proof.Claims

open Sys2Proof Sys2Proof.Machine

/-! ## Words of the vector row with one result -/

/-- A word with one result: its head, opcode and literal; the registers of its result; its sources with their types; the destination; and what one
lane computes from the values of the sources. -/
structure Row where
  h : Head
  op : Nat
  lit : Lit
  n : Nat
  tys : List OTy
  d : Dst
  srcs : List Src
  f : List Word64 → Word64 × Fl
  /-- R174: a scalar destination may have vector sources. -/
  mixed : Bool := false

/-- R120 to R125, R143: the operands are legal. -/
def Row.Legal (r : Row) (x : Ctx) : Prop :=
  dstOk x r.n r.d = true ∧ (r.d.sca = true → r.mixed = true ∨ r.srcs.any srcIsVec = false) ∧ (∀ p ∈ r.tys.zip r.srcs, srcOk x p.1 p.2 = true) ∧
    twice (portsOf (some r.d) r.srcs) = false

/-- The registers and predicates that the word reads and writes. -/
def Row.places (r : Row) (x : Ctx) : List Loc :=
  (headLocs x ++ (r.tys.zip r.srcs).flatMap fun p => srcLocs x p.1 p.2) ++ dstLocs x r.n r.d

/-- What the word computes for a thread slot: one slot stands for the group where the destination is scalar (R143). -/
def Row.value (r : Row) (s : State) (x : Ctx) (slot : Nat) : Word64 × Fl := r.f ((r.tys.zip r.srcs).map fun p => srcVal s x p.1 slot p.2)

def Row.results (r : Row) (s : State) (x : Ctx) : List (Loc × Word32) :=
  Sys2Proof.results x r.n r.d fun t => (r.value s x (if r.d.sca then (x.ex.map (·.2)).headD 0 else t)).1

def Row.flags (r : Row) (s : State) (x : Ctx) : Word32 := (Fl.all ((workSlots x r.d).map fun t => (r.value s x t).2)).word

/-- The instruction of the row completes wherever it issues with legal operands, no source or destination queue holds it up, no write to its
destination is outstanding and no flag it raises traps: its results are written, its flags set, its queues and handles taken, and nothing else changes. -/
def Row.Completes (r : Row) (i : Instr) : Prop :=
  ∀ s x, Issues s r.h r.op r.lit x → r.Legal x → Checked x (r.places x) → operandWait x (some r.d) r.srcs = none → Quiet x (r.results s x) →
    trapped (r.flags s x) x.r.tmask = false →
    ∃ t, exec i s = .next t ∧ After s t x (r.results s x) (r.flags s x) r.srcs (pushOf x r.d (r.value s x 0).1)

/-- R131, R134, R128, R75: what a word meets first: the reply that its group awaits, an illegal operand, a counter at 31, a queue or a handle that is not ready; only a word that then issues
is checked for writes still to come. -/
def Row.Ordered (r : Row) (i : Instr) : Prop :=
  ∀ s x, s.ctx? r.h r.op r.lit = some x →
    let counts := r.h.ct ≠ 0 ∧ 31 ≤ x.grp.ct r.h.ct.toNat
    let raised (code : Nat) := (s.advanceTo x.c x.now).raise x.c ⟨code, 0, x.g, laneMask x.ex % 2 ^ 32, x.grp.pc⟩ (laneMask x.ex)
    (x.grp.holdOp ≠ none → exec i s = .next (s.setWait x.c x.g (some .reply))) ∧
    (x.grp.holdOp = none → ¬ r.Legal x → exec i s = .next (raised 0x03)) ∧
    (x.grp.holdOp = none → r.Legal x → counts → exec i s = .next (s.setWait x.c x.g (some .counter31))) ∧
    (x.grp.holdOp = none → r.Legal x → ¬ counts → ∀ w, operandWait x (some r.d) r.srcs = some w → exec i s = .next (s.setWait x.c x.g (some w))) ∧
    (x.grp.holdOp = none → r.Legal x → ¬ counts → operandWait x (some r.d) r.srcs = none → ¬ Checked x (r.places x) → exec i s = .next (raised 0x05))

/-- After `u`, FP_TRAP stands at the word, whose results and flags are there (R91). -/
def FpTrapped (u : State) (x : Ctx) : State := u.raise x.c ⟨0x31, 0, x.g, laneMask x.ex % 2 ^ 32, x.grp.pc⟩ (laneMask x.ex)

/-- R91: where a flag that the word raises traps, its results are written and its flags set as without the trap, and then FP_TRAP is taken. -/
def Row.Traps (r : Row) (i : Instr) : Prop :=
  ∀ s x, Issues s r.h r.op r.lit x → r.Legal x → Checked x (r.places x) → operandWait x (some r.d) r.srcs = none → Quiet x (r.results s x) →
    trapped (r.flags s x) x.r.tmask = true →
    ∃ u, exec i s = .next (FpTrapped u x) ∧ After s u x (r.results s x) (r.flags s x) r.srcs (pushOf x r.d (r.value s x 0).1)

/-- A function of one, two or three source values that raises no flag. -/
def one (f : Word64 → Word64) : List Word64 → Word64 × Fl
  | [a] => (f a, Fl.none)
  | _ => (0, Fl.none)
def two (f : Word64 → Word64 → Word64) : List Word64 → Word64 × Fl
  | [a, b] => (f a b, Fl.none)
  | _ => (0, Fl.none)
def three (f : Word64 → Word64 → Word64 → Word64) : List Word64 → Word64 × Fl
  | [a, b, c] => (f a b c, Fl.none)
  | _ => (0, Fl.none)

/-- A 32-bit result in a 64-bit value. -/
def wide (v : Word32) : Word64 := v.setWidth 64

/-- The low `n` bits of a value as an unsigned or a two's complement number (R81, R149). -/
def num (n : Nat) (u : Bool) (v : Word64) : Int := if u then Int.ofNat (v.setWidth n).toNat else (v.setWidth n).toInt

/-- R150: an exact result brought into the range of the type. -/
def clamp (n : Nat) (u : Bool) (t : Int) : Int :=
  if u then max 0 (min t (2 ^ n - 1)) else max (-2 ^ (n - 1)) (min t (2 ^ (n - 1) - 1))

/-- R150: an exact result, saturated where the word says so, modulo 2^n. -/
def narrow (n : Nat) (sat u : Bool) (t : Int) : Word64 := (BitVec.ofInt n (if sat then clamp n u t else t)).setWidth 64

/-- R153: the field of `len` bits at `pos`, sign-extended or not. -/
def field (u : Bool) (a : Word32) (pos len : Nat) : Word32 :=
  if len = 0 then 0
  else
    let v := (a >>> pos).setWidth len
    if u then v.setWidth 32 else v.signExtend 32

/-- R153: the position and the length that a field operand names. -/
def fieldPos (b : Word64) : Nat := b.toNat % 256
def fieldLen (b : Word64) : Nat := min (b.toNat / 256 % 256) 32

/-- R149 to R153: integer and address arithmetic, logic, shifts and bitfields, on bit vectors. -/
def intRow : Instr → Option Row
  | .iadd h sat u d a b lit => some ⟨h, 0x01, lit, 1, [.i32, .i32], d, [a, b], two fun a b => narrow 32 sat u (num 32 u a + num 32 u b), false⟩
  | .iaddB64 h sat u d a b lit => some ⟨h, 0x02, lit, 2, [.i64, .i64], d, [a, b], two fun a b => narrow 64 sat u (num 64 u a + num 64 u b), false⟩
  | .isub h sat u d a b lit => some ⟨h, 0x04, lit, 1, [.i32, .i32], d, [a, b], two fun a b => narrow 32 sat u (num 32 u a - num 32 u b), false⟩
  | .isubB64 h sat u d a b lit => some ⟨h, 0x05, lit, 2, [.i64, .i64], d, [a, b], two fun a b => narrow 64 sat u (num 64 u a - num 64 u b), false⟩
  | .imul h d a b lit => some ⟨h, 0x06, lit, 1, [.i32, .i32], d, [a, b], two fun a b => wide (lo32 a * lo32 b), false⟩
  | .imulB64 h d a b lit => some ⟨h, 0x07, lit, 2, [.i64, .i64], d, [a, b], two fun a b => a * b, false⟩
  | .imulh h u d a b lit => some ⟨h, 0x08, lit, 1, [.i32, .i32], d, [a, b], two fun a b => BitVec.ofInt 64 ((num 32 u a * num 32 u b) / 2 ^ 32), false⟩
  | .imad h d a b c lit => some ⟨h, 0x09, lit, 1, [.i32, .i32, .i32], d, [a, b, c], three fun a b c => wide (lo32 a * lo32 b + lo32 c), false⟩
  | .imadB64 h u d a b c lit =>
    some ⟨h, 0x0A, lit, 2, [.i32, .i32, .i64], d, [a, b, c], three fun a b c => BitVec.ofInt 64 (num 32 u a * num 32 u b) + c, false⟩
  | .imin h u d a b lit => some ⟨h, 0x0B, lit, 1, [.i32, .i32], d, [a, b], two fun a b => BitVec.ofInt 64 (min (num 32 u a) (num 32 u b)), false⟩
  | .imax h u d a b lit => some ⟨h, 0x0C, lit, 1, [.i32, .i32], d, [a, b], two fun a b => BitVec.ofInt 64 (max (num 32 u a) (num 32 u b)), false⟩
  | .iabs h sat d a lit => some ⟨h, 0x0D, lit, 1, [.i32], d, [a], one fun a => narrow 32 sat false (num 32 false a).natAbs, false⟩
  | .ineg h sat d a lit => some ⟨h, 0x0E, lit, 1, [.i32], d, [a], one fun a => narrow 32 sat false (-num 32 false a), false⟩
  | .lea h sx n d a b lit =>
    some ⟨h, 0x0F, lit, 2, [.i64, .i32], d, [a, b], two fun a b => a + ((if sx then (lo32 b).signExtend 64 else wide (lo32 b)) <<< n.toNat), false⟩
  | .and h d a b lit => some ⟨h, 0x10, lit, 1, [.i32, .i32], d, [a, b], two fun a b => wide (lo32 a &&& lo32 b), false⟩
  | .or h d a b lit => some ⟨h, 0x11, lit, 1, [.i32, .i32], d, [a, b], two fun a b => wide (lo32 a ||| lo32 b), false⟩
  | .xor h d a b lit => some ⟨h, 0x12, lit, 1, [.i32, .i32], d, [a, b], two fun a b => wide (lo32 a ^^^ lo32 b), false⟩
  | .not h d a lit => some ⟨h, 0x13, lit, 1, [.i32], d, [a], one fun a => wide (~~~ lo32 a), false⟩
  | .shl h d a b lit => some ⟨h, 0x14, lit, 1, [.i32, .i32], d, [a, b], two fun a b => wide (lo32 a <<< b.toNat), false⟩
  | .shr h d a b lit => some ⟨h, 0x15, lit, 1, [.i32, .i32], d, [a, b], two fun a b => wide (lo32 a >>> b.toNat), false⟩
  | .sar h d a b lit => some ⟨h, 0x16, lit, 1, [.i32, .i32], d, [a, b], two fun a b => wide ((lo32 a).sshiftRight b.toNat), false⟩
  | .rol h d a b lit => some ⟨h, 0x17, lit, 1, [.i32, .i32], d, [a, b], two fun a b => wide ((lo32 a).rotateLeft b.toNat), false⟩
  | .bfx h u d a b lit => some ⟨h, 0x18, lit, 1, [.i32, .i32], d, [a, b], two fun a b => wide (field u (lo32 a) (fieldPos b) (fieldLen b)), false⟩
  | .bfi h d a b c lit =>
    some ⟨h, 0x19, lit, 1, [.i32, .i32, .i32], d, [a, b, c], three fun a b c =>
      let m : Word32 := (BitVec.ofNat 32 (2 ^ fieldLen b - 1)) <<< fieldPos b
      wide ((lo32 c &&& ~~~ m) ||| ((lo32 a <<< fieldPos b) &&& m)), false⟩
  | .popc h d a lit => some ⟨h, 0x1A, lit, 1, [.i32], d, [a], one fun a => BitVec.ofNat 64 ((List.range 32).countP fun i => (lo32 a).getLsbD i), false⟩
  | .clz h d a lit =>
    some ⟨h, 0x1B, lit, 1, [.i32], d, [a], one fun a => BitVec.ofNat 64 ((List.range 32).takeWhile fun i => !(lo32 a).getLsbD (31 - i)).length, false⟩
  | .brev h d a lit => some ⟨h, 0x1C, lit, 1, [.i32], d, [a], one fun a => wide (lo32 a).reverse, false⟩
  | .shlB64 h d a b lit => some ⟨h, 0x1D, lit, 2, [.i64, .i32], d, [a, b], two fun a b => a <<< b.toNat, false⟩
  | .shrB64 h d a b lit => some ⟨h, 0x1E, lit, 2, [.i64, .i32], d, [a, b], two fun a b => a >>> b.toNat, false⟩
  | .sarB64 h d a b lit => some ⟨h, 0x1F, lit, 2, [.i64, .i32], d, [a, b], two fun a b => a.sshiftRight b.toNat, false⟩
  | .mov h d a lit => some ⟨h, 0x50, lit, 1, [.i32], d, [a], one fun a => a, false⟩
  | .movB64 h d a lit => some ⟨h, 0x51, lit, 2, [.i64], d, [a], one fun a => a, false⟩
  | _ => none

/-! ## Floating point -/

/-- R154: a `.f32` operand, negated where the word says so. -/
def f32Of (neg : Bool) (v : Word64) : FV := if neg then (F32.decode (lo32 v).toNat).negate else F32.decode (lo32 v).toNat

/-- A code and flags as a result. -/
def coded (r : Nat × Fl) : Word64 × Fl := (BitVec.ofNat 64 r.1, r.2)

def fone (na : Bool) (f : FV → Nat × Fl) : List Word64 → Word64 × Fl
  | [a] => coded (f (f32Of na a))
  | _ => (0, Fl.none)
def ftwo (na : Bool) (f : FV → FV → Nat × Fl) : List Word64 → Word64 × Fl
  | [a, b] => coded (f (f32Of na a) (f32Of false b))
  | _ => (0, Fl.none)
def fthree (na nc : Bool) (f : FV → FV → FV → Nat × Fl) : List Word64 → Word64 × Fl
  | [a, b, c] => coded (f (f32Of na a) (f32Of false b) (f32Of nc c))
  | _ => (0, Fl.none)

/-- R155, on codes of a format: -0 is below +0, one NaN gives the other operand, two give the canonical NaN; a signalling one sets NV. -/
def smallerLarger (f : FFmt) (larger : Bool) (a b : Nat) : Nat × Fl :=
  let x := f.decode a
  let y := f.decode b
  let below := fvLt x y || (x.isZero && y.isZero && x.neg? && !y.neg?)
  let r := match x.isNan, y.isNan with
    | true, true => f.canon
    | true, false => b
    | false, true => a
    | false, false => if below = larger then b else a
  (r, { Fl.none with nv := x.isSig || y.isSig })

/-- R154: the code of an operand, its sign bit inverted where the word says so. -/
def codeOf (neg : Bool) (v : Word64) : Nat := (if neg then lo32 v ^^^ 0x80000000 else lo32 v).toNat

def fselect (na larger : Bool) : List Word64 → Word64 × Fl
  | [a, b] => coded (smallerLarger F32 larger (codeOf na a) (lo32 b).toNat)
  | _ => (0, Fl.none)

/-- R146, R158: the elements of a packed operand, and both results. -/
def half (e : Nat) (v : Word64) : Nat := (v.extractLsb' (16 * e) 16).toNat
def both (f : Nat → Nat × Fl) : Word64 × Fl := (BitVec.ofNat 64 ((f 0).1 + 65536 * (f 1).1), (f 0).2.or (f 1).2)
def htwo (m : FFmt) (f : FV → FV → Nat × Fl) : List Word64 → Word64 × Fl
  | [a, b] => both fun e => f (m.decode (half e a)) (m.decode (half e b))
  | _ => (0, Fl.none)
def hthree (m : FFmt) (f : FV → FV → FV → Nat × Fl) : List Word64 → Word64 × Fl
  | [a, b, c] => both fun e => f (m.decode (half e a)) (m.decode (half e b)) (m.decode (half e c))
  | _ => (0, Fl.none)
def hselect (m : FFmt) (larger : Bool) : List Word64 → Word64 × Fl
  | [a, b] => both fun e => smallerLarger m larger (half e a) (half e b)
  | _ => (0, Fl.none)

/-- R160: the value of a float or integer source. -/
def floatValue (t : FTy) (v : Word64) : FV := (ftyFmt t).decode (v.toNat % 2 ^ (ftyFmt t).bits)

/-- R154 to R160: FP32 and packed arithmetic, and conversions. -/
def fpRow : Instr → Option Row
  | .fadd h na rnd d a b lit => some ⟨h, 0x20, lit, 1, [.f32, .f32], d, [a, b], ftwo na (F32.add rnd), false⟩
  | .fsub h na rnd d a b lit => some ⟨h, 0x21, lit, 1, [.f32, .f32], d, [a, b], ftwo na fun x y => F32.add rnd x y.negate, false⟩
  | .fmul h na rnd d a b lit => some ⟨h, 0x22, lit, 1, [.f32, .f32], d, [a, b], ftwo na (F32.mul rnd), false⟩
  | .ffma h nc na rnd d a b c lit => some ⟨h, 0x23, lit, 1, [.f32, .f32, .f32], d, [a, b, c], fthree na nc (F32.fma rnd), false⟩
  | .fmin h na d a b lit => some ⟨h, 0x24, lit, 1, [.f32, .f32], d, [a, b], fselect na false, false⟩
  | .fmax h na d a b lit => some ⟨h, 0x25, lit, 1, [.f32, .f32], d, [a, b], fselect na true, false⟩
  | .frnd h na rnd d a lit => some ⟨h, 0x26, lit, 1, [.f32], d, [a], fone na (F32.integral rnd), false⟩
  | .frcp h na d a lit => some ⟨h, 0x27, lit, 1, [.f32], d, [a], fone na F32.rcp, false⟩
  | .frsq h na d a lit => some ⟨h, 0x28, lit, 1, [.f32], d, [a], fone na F32.rsq, false⟩
  | .fsqrt h na d a lit => some ⟨h, 0x29, lit, 1, [.f32], d, [a], fone na F32.sqrt, false⟩
  | .fexp2 h na d a lit => some ⟨h, 0x2A, lit, 1, [.f32], d, [a], fone na F32.exp2, false⟩
  | .flog2 h na d a lit => some ⟨h, 0x2B, lit, 1, [.f32], d, [a], fone na F32.log2, false⟩
  | .fsin h na d a lit => some ⟨h, 0x2C, lit, 1, [.f32], d, [a], fone na F32.sinpi, false⟩
  | .fcos h na d a lit => some ⟨h, 0x2D, lit, 1, [.f32], d, [a], fone na F32.cospi, false⟩
  | .hadd2 h bf rnd d a b lit => some ⟨h, 0x30, lit, 1, [halfTy bf, halfTy bf], d, [a, b], htwo (halfFmt bf) ((halfFmt bf).add rnd), false⟩
  | .hmul2 h bf rnd d a b lit => some ⟨h, 0x31, lit, 1, [halfTy bf, halfTy bf], d, [a, b], htwo (halfFmt bf) ((halfFmt bf).mul rnd), false⟩
  | .hfma2 h rnd d a b c lit => some ⟨h, 0x32, lit, 1, [.f16, .f16, .f16], d, [a, b, c], hthree F16 (F16.fma rnd), false⟩
  | .bfma2 h rnd d a b c lit => some ⟨h, 0x33, lit, 1, [.bf16, .bf16, .bf16], d, [a, b, c], hthree BF16 (BF16.fma rnd), false⟩
  | .hmin2 h bf d a b lit => some ⟨h, 0x34, lit, 1, [halfTy bf, halfTy bf], d, [a, b], hselect (halfFmt bf) false, false⟩
  | .hmax2 h bf d a b lit => some ⟨h, 0x35, lit, 1, [halfTy bf, halfTy bf], d, [a, b], hselect (halfFmt bf) true, false⟩
  | .cvtFF h dt st rnd d a lit => some ⟨h, 0x36, lit, 1, [ftyTy st], d, [a], fun
      | [a] => coded ((ftyFmt dt).convert rnd false (floatValue st a))
      | _ => (0, Fl.none), false⟩
  | .cvtIF h st dt rnd d a lit => some ⟨h, 0x37, lit, ityBits dt / 32, [ftyTy st], d, [a], fun
      | [a] =>
        let r := convInt (ityBits dt) (ityU dt) rnd (floatValue st a)
        ((BitVec.ofInt (ityBits dt) r.1).setWidth 64, r.2)
      | _ => (0, Fl.none), false⟩
  | .cvtFI h dt st rnd d a lit => some ⟨h, 0x38, lit, 1, [ityTy st], d, [a], fun
      | [a] => coded ((ftyFmt dt).convert rnd false (fvOfInt (num (ityBits st) (ityU st) a)))
      | _ => (0, Fl.none), false⟩
  | _ => none

/-! ## Words whose one result depends on the issue -/

/-- Words whose result depends on the launch, the group or the executing lanes: the row, whether the word's own checks pass, and further places it
reads. -/
def issueRow (s : State) (x : Ctx) : Instr → Option (Row × Prop × List Loc)
  | .cvtn h slot pos d a b c lit => some (⟨h, 0x39, lit, 1, [.f32, .f32, .i32], d, [a, b, c], cvtnVal (x.r.slot slot.toNat) pos.toNat, false⟩,
      narrowOk (slotFmt (x.r.slot slot.toNat)) pos.toNat true = true, [])
  | .cvtw h slot pos d a lit => some (⟨h, 0x3A, lit, 1, [.i32], d, [a], cvtwVal (x.r.slot slot.toNat) pos.toNat, false⟩,
      narrowOk (slotFmt (x.r.slot slot.toNat)) pos.toNat false = true, [])
  | .movc h bank d a lit => some (⟨h, 0x52, lit, 1, [.i32], d, [a],
      one fun a => wide (bankWord s x.l (s.asidOf x.c) x.ctr bank.toNat (lo32 a).toNat), false⟩, True, [])
  | .voteBallot h pn p d => some (⟨h, 0x59, none, 2, [], d, [],
      fun _ => (BitVec.ofNat 64 (laneMask (x.ex.filter fun l => predVal x l.2 p != pn)), Fl.none), true⟩, True,
      if p = 7 then [] else x.ex.map fun l => .pred l.2 p.toNat)
  | .redg h ty op d a lit => some (⟨h, 0x5A, lit, 1, [rtyTy ty], d, [a],
      fun _ => combineAll ty op (x.ex.map fun l => srcVal s x (rtyTy ty) l.2 a), true⟩, True, [])
  | .sread h sr d => if d.sca then some (⟨h, 0x5D, none, sregRegs sr, [], d, [], fun _ => (sregVal s x sr (0, 0), Fl.none), true⟩,
      sregPerLane sr = false, []) else none
  | _ => none

/-! ## Words whose executing lanes each write -/

/-- A word whose executing lanes each write registers or predicates: what one lane writes and the flags it raises. -/
structure LaneRow where
  h : Head
  op : Nat
  lit : Lit
  srcs : List (OTy × Src)
  legal : Prop
  reads : List Loc
  writes : List Loc
  out : Nat × Nat → List (Loc × Word32) × Fl

def LaneRow.Legal (r : LaneRow) (x : Ctx) : Prop :=
  r.legal ∧ (∀ p ∈ r.srcs, srcOk x p.1 p.2 = true) ∧ twice (portsOf none (r.srcs.map (·.2))) = false

def LaneRow.places (r : LaneRow) (x : Ctx) : List Loc := (headLocs x ++ r.reads ++ r.srcs.flatMap fun p => srcLocs x p.1 p.2) ++ r.writes

def LaneRow.results (r : LaneRow) (x : Ctx) : List (Loc × Word32) := x.ex.flatMap fun l => (r.out l).1

def LaneRow.flags (r : LaneRow) (x : Ctx) : Word32 := (Fl.all (x.ex.map fun l => (r.out l).2)).word

/-- The destination is a vector register; a predicate. -/
def vecDst (x : Ctx) (d : Dst) : Prop := d.sca = false ∧ dstOk x 1 d = true
def predDst (d : Dst) : Prop := d.sca = false ∧ d.f.toNat < 8

/-- R147: a predicate written, or discarded at pt. -/
def putPred (slot : Nat) (d : Dst) (b : Bool) : List (Loc × Word32) := if d.f = 7 then [] else [(.pred slot d.f.toNat, b32 b)]
def predLocs (x : Ctx) (p : Nat) : List Loc := if p = 7 then [] else x.ex.map fun l => .pred l.2 p
def vecLocs (x : Ctx) (d : Dst) : List Loc := x.ex.map fun l => .vec l.2 d.f.toNat

/-- R165: a comparison, combined with a predicate. -/
def cmpRow (s : State) (x : Ctx) (h : Head) (op : Nat) (lit : Lit) (ty : OTy) (comb : Comb) (pc : BitVec 3) (d : Dst) (a b : Src)
    (t : Word64 → Word64 → Bool × Fl) : LaneRow :=
  { h := h, op := op, lit := lit, srcs := [(ty, a), (ty, b)], legal := predDst d
    reads := if comb = .none then [] else predLocs x pc.toNat
    writes := predLocs x d.f.toNat
    out := fun l =>
      let r := t (srcVal s x ty l.2 a) (srcVal s x ty l.2 b)
      let q := predVal x l.2 pc
      (putPred l.2 d (match comb with | .none => r.1 | .and => r.1 && q | .or => r.1 || q | .xor => r.1 ^^ q), r.2) }

/-- R165: a comparison of integers. -/
def itest (u : Bool) (f : Int → Int → Bool) (a b : Word64) : Bool × Fl := (f (num 32 u a) (num 32 u b), Fl.none)

/-- R166: a comparison of `.f32` values: what a NaN gives, and whether every NaN or only a signalling one sets NV. -/
def ftest (unordered anyNan : Bool) (f : FV → FV → Bool) (a b : Word64) : Bool × Fl :=
  let x := f32Of false a
  let y := f32Of false b
  if x.isNan || y.isNan then (unordered, { Fl.none with nv := anyNan || x.isSig || y.isSig }) else (f x y, Fl.none)

/-- R172: the value of a vector register in the lane `j` of the group, or in the lane itself. -/
def shflRow (s : State) (x : Ctx) (h : Head) (op : Nat) (lit : Lit) (d : Dst) (a b : Src) (j : Nat → Nat → Int) : LaneRow :=
  let from_ (l : Nat × Nat) : Nat :=
    let k := j l.1 (srcVal s x .i32 l.2 b).toNat
    if 0 ≤ k then ((x.lanes[k.toNat]?).map (·.2)).getD l.2 else l.2
  { h := h, op := op, lit := lit, srcs := [(.i32, b)], legal := vecDst x d ∧ srcIsVec a = true ∧ srcOk x .i32 a = true
    reads := match a with
      | .vec r => x.ex.map fun l => .vec (from_ l) r.toNat
      | _ => []
    writes := vecLocs x d
    out := fun l => ([(.vec l.2 d.f.toNat, lo32 (srcVal s x .i32 (from_ l) a))], Fl.none) }

/-- R175: the combination of the values in the executing lanes that a test of the lane number picks, or the identity. -/
def scanRow (s : State) (x : Ctx) (h : Head) (op : Nat) (lit : Lit) (ty : RTy) (o : ROp) (d : Dst) (a : Src) (t : Nat → Nat → Bool) : LaneRow :=
  { h := h, op := op, lit := lit, srcs := [(rtyTy ty, a)], legal := vecDst x d, reads := [], writes := vecLocs x d
    out := fun l =>
      let r := match (x.ex.filter fun m => t m.1 l.1).map fun m => srcVal s x (rtyTy ty) m.2 a with
        | [] => (identity ty o, Fl.none)
        | vs => combineAll ty o vs
      ([(.vec l.2 d.f.toNat, lo32 r.1)], r.2) }

/-- R150, R165 to R167, R172 to R179. -/
def laneRow (s : State) (x : Ctx) : Instr → Option LaneRow
  | .iaddc h cout cin d a b lit => some
    { h := h, op := 0x03, lit := lit, srcs := [(.i32, a), (.i32, b)], legal := vecDst x d
      reads := predLocs x cin.toNat
      writes := vecLocs x d ++ predLocs x cout.toNat
      out := fun l =>
        let t := (srcVal s x .i32 l.2 a).toNat + (srcVal s x .i32 l.2 b).toNat + (if cin ≠ 7 ∧ predVal x l.2 cin = true then 1 else 0)
        ((.vec l.2 d.f.toNat, BitVec.ofNat 32 t) :: putPred l.2 ⟨false, cout.setWidth 8⟩ (decide (2 ^ 32 ≤ t)), Fl.none) }
  | .icmpEq h comb pc u d a b lit => some (cmpRow s x h 0x40 lit .i32 comb pc d a b (itest u fun a b => decide (a = b)))
  | .icmpNe h comb pc u d a b lit => some (cmpRow s x h 0x41 lit .i32 comb pc d a b (itest u fun a b => decide (a ≠ b)))
  | .icmpLt h comb pc u d a b lit => some (cmpRow s x h 0x42 lit .i32 comb pc d a b (itest u fun a b => decide (a < b)))
  | .icmpLe h comb pc u d a b lit => some (cmpRow s x h 0x43 lit .i32 comb pc d a b (itest u fun a b => decide (a ≤ b)))
  | .icmpGt h comb pc u d a b lit => some (cmpRow s x h 0x44 lit .i32 comb pc d a b (itest u fun a b => decide (a > b)))
  | .icmpGe h comb pc u d a b lit => some (cmpRow s x h 0x45 lit .i32 comb pc d a b (itest u fun a b => decide (a ≥ b)))
  | .fcmpEq h comb pc d a b lit => some (cmpRow s x h 0x46 lit .f32 comb pc d a b (ftest false false fun x y => !fvLt x y && !fvLt y x))
  | .fcmpNe h comb pc d a b lit => some (cmpRow s x h 0x47 lit .f32 comb pc d a b (ftest true false fun x y => fvLt x y || fvLt y x))
  | .fcmpLt h comb pc d a b lit => some (cmpRow s x h 0x48 lit .f32 comb pc d a b (ftest false true fun x y => fvLt x y))
  | .fcmpLe h comb pc d a b lit => some (cmpRow s x h 0x49 lit .f32 comb pc d a b (ftest false true fun x y => !fvLt y x))
  | .fcmpGt h comb pc d a b lit => some (cmpRow s x h 0x4A lit .f32 comb pc d a b (ftest false true fun x y => fvLt y x))
  | .fcmpGe h comb pc d a b lit => some (cmpRow s x h 0x4B lit .f32 comb pc d a b (ftest false true fun x y => !fvLt x y))
  | .fcmpUn h comb pc d a b lit => some (cmpRow s x h 0x4C lit .f32 comb pc d a b (ftest true false fun _ _ => false))
  | .sel h pn p d a b lit => some
    { h := h, op := 0x4D, lit := lit, srcs := [(.i32, a), (.i32, b)], legal := vecDst x d, reads := predLocs x p.toNat, writes := vecLocs x d
      out := fun l => ([(.vec l.2 d.f.toNat, lo32 (srcVal s x .i32 l.2 (if predVal x l.2 p ^^ pn then a else b)))], Fl.none) }
  | .pset h d a lit => some
    { h := h, op := 0x4E, lit := lit, srcs := [(.i32, a)], legal := predDst d, reads := [], writes := predLocs x d.f.toNat
      out := fun l => (putPred l.2 d (decide (srcVal s x .i32 l.2 a ≠ 0)), Fl.none) }
  | .pmovGet h d => some
    { h := h, op := 0x4F, lit := none, srcs := [], legal := vecDst x d
      reads := x.ex.flatMap fun l => (List.range 7).map fun i => .pred l.2 i
      writes := vecLocs x d
      out := fun l => ([(.vec l.2 d.f.toNat,
        BitVec.ofNat 32 ((List.range 7).foldl (fun m i => m + (if predVal x l.2 (BitVec.ofNat 3 i) then 2 ^ i else 0)) 0))], Fl.none) }
  | .pmovPut h dk a b lit => some
    { h := h, op := 0x4F, lit := lit, srcs := [(.i32, a), (.i32, b)], legal := dk = false, reads := []
      writes := x.ex.flatMap fun l => ((List.range 7).filter fun i => (srcVal s x .i32 l.2 b).getLsbD i).map fun i => .pred l.2 i
      out := fun l => (((List.range 7).filter fun i => (srcVal s x .i32 l.2 b).getLsbD i).map fun i =>
        (.pred l.2 i, b32 ((srcVal s x .i32 l.2 a).getLsbD i)), Fl.none) }
  | .shflIdx h d a b lit => some (shflRow s x h 0x53 lit d a b fun _ v => v)
  | .shflUp h d a b lit => some (shflRow s x h 0x54 lit d a b fun l v => (l : Int) - v)
  | .shflDown h d a b lit => some (shflRow s x h 0x55 lit d a b fun l v => (l : Int) + v)
  | .shflXor h d a b lit => some (shflRow s x h 0x56 lit d a b fun l v => (l ^^^ v : Nat))
  | .voteAny h pn p d => some
    { h := h, op := 0x57, lit := none, srcs := [], legal := predDst d, reads := predLocs x p.toNat, writes := predLocs x d.f.toNat
      out := fun l => (putPred l.2 d (x.ex.any fun m => predVal x m.2 p ^^ pn), Fl.none) }
  | .voteAll h pn p d => some
    { h := h, op := 0x58, lit := none, srcs := [], legal := predDst d, reads := predLocs x p.toNat, writes := predLocs x d.f.toNat
      out := fun l => (putPred l.2 d (x.ex.all fun m => predVal x m.2 p ^^ pn), Fl.none) }
  | .scanInc h ty op d a lit => some (scanRow s x h 0x5B lit ty op d a fun m l => decide (m ≤ l))
  | .scanExc h ty op d a lit => some (scanRow s x h 0x5C lit ty op d a fun m l => decide (m < l))
  | .sread h sr d => if d.sca then none else some
    { h := h, op := 0x5D, lit := none, srcs := [], legal := dstOk x (sregRegs sr) d = true, reads := []
      writes := x.ex.flatMap fun l => (List.range (sregRegs sr)).map fun i => .vec l.2 (d.f.toNat + i)
      out := fun l => (if sr = .cyc then
          [(.vec l.2 d.f.toNat, lo32 (sregVal s x sr l)), (.vec l.2 (d.f.toNat + 1), lo32 (sregVal s x sr l >>> 32))]
        else [(.vec l.2 d.f.toNat, lo32 (sregVal s x sr l))], Fl.none) }
  | .rand h f d a lit => some
    { h := h, op := 0x5F, lit := lit, srcs := [(.i32, a)], legal := vecDst x d, reads := [], writes := vecLocs x d
      out := fun l =>
        let r := randWord x.r.key (((SMap.get? x.wg.threads l.2).map (·.tid.toNat)).getD 0) (lo32 (srcVal s x .i32 l.2 a)).toNat
        ([(.vec l.2 d.f.toNat, if f then randUnit r else r)], Fl.none) }
  | _ => none

/-! ## Control words -/

/-- Where a thread or a group goes on: an address and the number of the word in its clause, 0 for the header (R49, R57). -/
abbrev Spot := Word64 × Nat

/-- The word after this one. -/
def nextSpot (x : Ctx) : Spot := ((x.grp.next x.lit.isSome).pc, (x.grp.next x.lit.isSome).wix)

/-- A word without a literal comes to issue, and nothing it reads or writes is checked. -/
def Comes (s : State) (h : Head) (op : Nat) (x : Ctx) (places : List Loc) : Prop := Issues s h op none x ∧ Checked x (headLocs x ++ places)

/-- Nothing of the module changes outside the core of the word, and nothing of the core but its clock, its issue ports and its workgroup. -/
structure OnlyCore (s t : State) (x : Ctx) : Prop where
  world : t = { s with cores := t.cores, free := t.free, nextId := t.nextId }
  cores : ∀ d, d ≠ x.c → t.core d = s.core d
  core : t.core x.c = { s.core x.c with ck := (t.core x.c).ck, vecFree := (t.core x.c).vecFree, sideFree := (t.core x.c).sideFree, wg := (t.core x.c).wg }

/-- The vector registers, predicates, flag word, barriers and stage queues of the workgroup, and its other groups, are as before, but for the results
`ws`. -/
def VecRegs (t : State) (x : Ctx) (ws : List (Loc × Word32)) : Prop :=
  ∃ w, t.wg? x.c = some w ∧ (∀ slot r, r < 256 → w.vreg slot r = (written ws (.vec slot r)).getD (x.wg.vreg slot r)) ∧
    w.stageQ = x.wg.stageQ ∧ w.parked = x.wg.parked ∧ w.flags = x.wg.flags ∧ w.phases = x.wg.phases ∧ w.gen = x.wg.gen ∧
    (∀ k th th', SMap.get? x.wg.threads k = some th → SMap.get? w.threads k = some th' → ∀ p, p < 7 →
      th'.pred p = ((written ws (.pred k p)).map (· != 0)).getD (th.pred p)) ∧
    (∀ k, (SMap.get? w.threads k).map (·.tid) = (SMap.get? x.wg.threads k).map (·.tid)) ∧
    ∀ j, j ≠ x.g → w.group? j = x.wg.group? j

/-- The issuing group's scalar registers, ports, flags and lease are as before, its handles are as given, and its counter goes up where the word counts
until it completes (R128). -/
def GroupRegs (t : State) (x : Ctx) (hs : Nat → Option Handle) (counted : Bool) : Prop :=
  ∃ g, t.group? x.c x.g = some g ∧ g.uid = x.grp.uid ∧ g.stage = x.grp.stage ∧ g.sregs = x.grp.sregs ∧ (∀ n, SMap.get? g.handles n = hs n) ∧
    g.ports = x.grp.ports ∧ g.flags = x.grp.flags ∧ g.lease = x.grp.lease ∧
    ∀ n, n ≠ 0 → g.ct n = x.grp.ct n + (if counted ∧ n = x.h.ct.toNat then 1 else 0)

/-- All registers, queues and handles are as before, but for results in vector registers, and the counter of a word that counts. -/
structure Regs (t : State) (x : Ctx) (ws : List (Loc × Word32)) (counted : Bool) : Prop where
  vec : VecRegs t x ws
  grp : GroupRegs t x (SMap.get? x.grp.handles) counted

/-- The group stands at a place, with these threads, and does not wait. -/
def At (t : State) (x : Ctx) (p : Spot) (slots : List Nat) : Prop :=
  ∃ g, t.group? x.c x.g = some g ∧ g.pc = p.1 ∧ g.wix = p.2 ∧ g.slots = slots ∧ g.wait = none

/-- R56, R57: each of the threads has a spawn entry for a place, and its mr and predicates in it. -/
def Spawned (t : State) (x : Ctx) (p : Spot) (slots : List Nat) : Prop :=
  ∀ k ∈ slots, ∀ th, SMap.get? x.wg.threads k = some th → ∃ w e, t.wg? x.c = some w ∧ SMap.get? w.spawn k = some e ∧ (e.pc, e.wix) = p ∧
    e.pred = th.preds ∧ e.mr = th.mr.setWidth 6 ∧ e.stage = th.stage ∧ e.held = false ∧ e.written = x.now

/-- The spawn entries and the mr of the threads but for some are as before. -/
def Others (t : State) (x : Ctx) (slots : List Nat) : Prop :=
  ∃ w, t.wg? x.c = some w ∧ w.meet = x.wg.meet ∧ (∀ k, k ∉ slots → SMap.get? w.spawn k = SMap.get? x.wg.spawn k) ∧
    (∀ k, k ∉ slots → SMap.get? w.threads k = SMap.get? x.wg.threads k) ∧
    ∀ k, (SMap.get? w.threads k).map (·.mr) = (SMap.get? x.wg.threads k).map (·.mr)

/-- R182, R56: the executing threads go to a target and the others to the next word; the larger side, the taken one where they are equal, stays as
the group, the other gets spawn entries. -/
structure Split (t : State) (x : Ctx) (target : Word64) : Prop where
  none : exSlots x = [] → At t x (nextSpot x) x.grp.slots ∧ Others t x []
  all : exSlots x ≠ [] → idleSlots x = [] → At t x (target, 0) x.grp.slots ∧ Others t x []
  taken : exSlots x ≠ [] → idleSlots x ≠ [] → (idleSlots x).length ≤ (exSlots x).length →
    At t x (target, 0) (x.grp.slots.filter fun k => !(idleSlots x).contains k) ∧ Spawned t x (nextSpot x) (idleSlots x) ∧ Others t x (idleSlots x)
  rest : exSlots x ≠ [] → (exSlots x).length < (idleSlots x).length →
    At t x (nextSpot x) (x.grp.slots.filter fun k => !(exSlots x).contains k) ∧ Spawned t x (target, 0) (exSlots x) ∧ Others t x (exSlots x)

/-- R116: the address of a direct target. -/
def target (x : Ctx) (off : BitVec 24) : Word64 := x.grp.hdr + off.signExtend 64 * 8

/-- R186: every thread goes to its own place; the group goes on with those at the place of the least thread id, the others get spawn entries. -/
def Resolved (t : State) (x : Ctx) (place : Nat → Spot) : Prop :=
  ∃ t0 ∈ x.grp.slots, (∀ k ∈ x.grp.slots, x.wg.tid t0 ≤ x.wg.tid k) ∧
    At t x (place t0) (x.grp.slots.filter fun k => decide (place k = place t0)) ∧
    (∀ k ∈ x.grp.slots, place k ≠ place t0 → Spawned t x (place k) [k]) ∧ Others t x (x.grp.slots.filter fun k => decide (place k ≠ place t0))

/-- R185: the place of an executing thread under an indirect word is the entry plus its offset, of another the next word. -/
def indirectSpot (x : Ctx) (r : XReg) (slot : Nat) : Spot :=
  if slot ∈ exSlots x then (x.r.entry + (xregVal x r slot).setWidth 64, 0) else nextSpot x

/-- R187, R424: BAD_TARGET at a thread. -/
def badTargetAt (x : Ctx) (s : State) (k : Nat) : State :=
  let lane := laneMask (x.lanes.filter fun l => l.2 == k)
  s.raise x.c ⟨0x15, 1, k, lane % 2 ^ 32, x.grp.pc⟩ lane

/-- R186, R187: the threads whose target is bad leave the group and stop at the word, each with BAD_TARGET, in ascending lanes; the others go to their places as without them; with
none left the group is gone. -/
structure Partly (s t : State) (x : Ctx) (bad : List Nat) (ws : List (Loc × Word32)) (counted : Bool) (place : Nat → Spot) : Prop where
  raised : ∃ u, t = bad.foldl (badTargetAt x) u ∧
    (∀ k ∈ bad, ∀ th, SMap.get? x.wg.threads k = some th →
      ∃ w, u.wg? x.c = some w ∧ SMap.get? w.threads k = some { th with stat := .stopped, stopPc := x.grp.pc }) ∧
    let good := x.grp.slots.filter fun k => !bad.contains k
    if good = [] then u.group? x.c x.g = none
    else OnlyCore s u x ∧ Regs u x ws counted ∧ ∃ t0 ∈ good, (∀ k ∈ good, x.wg.tid t0 ≤ x.wg.tid k) ∧
      At u x (place t0) (good.filter fun k => decide (place k = place t0)) ∧ ∀ k ∈ good, place k ≠ place t0 → Spawned u x (place k) [k]

/-- R188: the link register of each executing thread. -/
def links (x : Ctx) (ld : BitVec 8) (off : Word32) : List (Loc × Word32) := (exSlots x).map fun k => (.vec k ld.toNat, off)

/-- R63, R64: the mr that the threads of the group share. -/
def sharedMr (x : Ctx) (mr : Word32) : Prop := ∀ k ∈ x.grp.slots, slotMr x k = mr

/-- The entries of a map are listed by rising key, each key once. -/
def Rising {α : Type} (m : SMap α) : Prop := (SMap.keys m).Pairwise (· < ·)

/-- R71, R199, R200: the places that a fetch writes. -/
def fetched (x : Ctx) (vec : Bool) (ld p : Nat) : List Loc :=
  (if vec then (exSlots x).map fun k => Loc.vec k ld else [.sca x.grp.uid ld]) ++ (if p = 7 then [] else (exSlots x).map fun k => .pred k p)

/-- R71, R200, R201: the dispenser can take a request of the group now: none of the group's waits, and its space is closed, is no stream, or holds as
many coordinates as are asked for with those ahead of it. -/
def TakesRequest (x : Ctx) (n : Nat) : Prop :=
  (∀ q ∈ x.l.disp.reqs, q.uid = x.grp.uid → q.blocked = false) ∧
  (x.r.stream = true → x.l.disp.ended = false →
    (x.l.disp.reqs.map fun q => if q.vec then q.lanes.length else 1).sum + n ≤ x.l.disp.returned.length + (x.l.disp.extent - x.l.disp.given))

/-- A request of a fetch has joined the dispenser's, its places await their values, and its group has gone on; a lease that it replaces has ended. -/
def Requested (s t : State) (x : Ctx) (vec : Bool) (ld p : Nat) : Prop :=
  ∃ w, t.wg? x.c = some w ∧ At t x (nextSpot x) x.grp.slots ∧
    (t.launch? x.l.uid).map (·.disp.reqs) =
      some (x.l.disp.reqs ++ [⟨x.c, x.grp.uid, vec, ld, p, x.h.ct.toNat, exSlots x, false, s.nextId⟩]) ∧
    w.pend = x.wg.pend ++ (fetched x vec ld p).map (fun l => (s.nextId, l)) ∧ w.vregs = x.wg.vregs ∧
    (if vec then ∀ k ∈ exSlots x, ∀ th, SMap.get? w.threads k = some th → th.lease = none
     else ∃ g, w.group? x.g = some g ∧ g.lease = none) ∧
    (∃ g, w.group? x.g = some g ∧ g.sregs = x.grp.sregs ∧ ∀ n, n ≠ 0 → g.ct n = x.grp.ct n + (if n = x.h.ct.toNat then 1 else 0)) ∧ t.mem = s.mem

/-- R194: the barrier of a word: the workgroup's 0, a stage's 1 to 4, the gang's 5, the launch's 6. -/
def barrier (x : Ctx) (stageForm : Bool) : Nat := if stageForm then x.grp.stage + 1 else 0
def plaza (launchForm : Bool) : Nat := if launchForm then 6 else 5

/-- R195: the phase in which a thread has arrived at a barrier. -/
def arrivedIn (w : Wg) (b k : Nat) : Option Nat := (SMap.get? w.threads k).bind fun th => SMap.get? th.arr b

/-- R195: no thread of the group is counted at the barrier in a phase that is still to complete. -/
def MayArrive (x : Ctx) (b : Nat) : Prop := x.grp.arrived = [] ∧ x.grp.slots ≠ [] ∧ ∀ k ∈ x.grp.slots, ∀ p, arrivedIn x.wg b k = some p → p < x.wg.phase b

/-- R195: every thread of the group has arrived, under this word for a plain form, and the phase of its arrival has completed. -/
def MayPass (x : Ctx) (b : Nat) : Prop := ∀ k ∈ x.grp.slots, ∃ p, arrivedIn x.wg b k = some p ∧ p < x.wg.phase b

/-- R269: nothing that a release of the group would wait for is outstanding. -/
def Released (x : Ctx) : Prop := x.wg.replay = [] ∧ x.wg.before x.grp.slots = []

/-- R195: the arrival bits of the group's threads at a barrier are clear, its other threads' bits as before, and the group has gone on. -/
def Passed (s t : State) (x : Ctx) (b : Nat) : Prop :=
  ∃ w, t.wg? x.c = some w ∧ At t x (nextSpot x) x.grp.slots ∧ t.mem = s.mem ∧ w.vregs = x.wg.vregs ∧
    (∀ k ∈ x.grp.slots, arrivedIn w b k = none) ∧ (∀ k, k ∉ x.grp.slots → ∀ a, arrivedIn w a k = arrivedIn x.wg a k) ∧
    (∀ k a, a ≠ b → arrivedIn w a k = arrivedIn x.wg a k)

/-- R195: the threads of the group that are there have arrived in the present phase. -/
def Arrived (t : State) (x : Ctx) (b : Nat) : Prop :=
  ∃ w, t.wg? x.c = some w ∧ ∀ k ∈ x.grp.slots, (SMap.get? x.wg.threads k).isSome → arrivedIn w b k = some (x.wg.phase b)

/-- R195: the group has been counted, whole, in the phase, which has not completed at its core, and waits at the word. -/
def Counted (s t : State) (x : Ctx) (b : Nat) : Prop :=
  Arrived t x b ∧ t.mem = s.mem ∧ ∃ w g, t.wg? x.c = some w ∧ w.phase b = x.wg.phase b ∧ w.vregs = x.wg.vregs ∧ w.group? x.g = some g ∧
    g.wait = some .barrier ∧ g.arrived = x.grp.slots ∧ g.slots = x.grp.slots ∧ (g.pc, g.wix) = (x.grp.pc, x.grp.wix) ∧ g.sregs = x.grp.sregs

/-! ## Memory words -/

/-- A load, store, atomic or reduction: how it names its location; the bytes of one access; its data registers, those of them that hold a compare
value, and those that receive a result. -/
structure MemRow where
  h : Head
  op : Nat
  form : AddrForm
  m : MOpnd
  aop : AOp
  lk : LKind := .plain
  sx : Bool := false
  bytes : Nat
  regs : Nat
  cmp : Nat := 0
  back : Nat
  chan : Option (BitVec 4) := none
  scope : Scope
  order : Order

def loadRow (h : Head) (op : Nat) (form : AddrForm) (m : MOpnd) (lk : LKind) (sx : Bool) (scope : Scope) (order : Order) (z : Size) : MemRow :=
  { h := h, op := op, form := form, m := m, aop := .load, lk := lk, sx := sx, bytes := sizeBytes z, regs := sizeRegs z, back := sizeRegs z, scope := scope
    order := order }
def storeRow (h : Head) (op : Nat) (form : AddrForm) (m : MOpnd) (chan : Option (BitVec 4)) (scope : Scope) (order : Order) (z : Size) : MemRow :=
  { h := h, op := op, form := form, m := m, aop := .store, bytes := sizeBytes z, regs := sizeRegs z, back := 0, chan := chan, scope := scope, order := order }
def atomRow (h : Head) (op : Nat) (m : MOpnd) (o : Nat) (u : Bool) (chan : Option (BitVec 4)) (scope : Scope) (order : Order) (z : Size) : MemRow :=
  { h := h, op := op, form := .generic, m := m, aop := .atom o u, bytes := sizeBytes z, regs := sizeRegs z, back := sizeRegs z, chan := chan, scope := scope
    order := order }
def redRow (h : Head) (op : Nat) (m : MOpnd) (o : Nat) (u : Bool) (chan : Option (BitVec 4)) (scope : Scope) (order : Order) (z : Size) : MemRow :=
  { h := h, op := op, form := .generic, m := m, aop := .red o u, bytes := sizeBytes z, regs := sizeRegs z, back := 0, chan := chan, scope := scope
    order := order }

/-- R226 to R233. -/
def memRow : Instr → Option MemRow
  | .ld h sx m scope order z => some (loadRow h 0x80 .generic m .plain sx scope order z)
  | .ldNc h sx m scope order z => some (loadRow h 0x81 .generic m .nc sx scope order z)
  | .ldStr h sx m scope order z => some (loadRow h 0x82 .generic m .str sx scope order z)
  | .lds h sx m scope order z => some (loadRow h 0x83 .own m .plain sx scope order z)
  | .ldp h rank m scope order z => some (loadRow h 0x84 (.peer rank) m .plain false scope order z)
  | .st h m chan scope order z => some (storeRow h 0x90 .generic m chan scope order z)
  | .sts h m scope order z => some (storeRow h 0x91 .own m none scope order z)
  | .stp h rank m scope order z => some (storeRow h 0x92 (.peer rank) m none scope order z)
  | .atomAdd h m chan scope order z => some (atomRow h 0x93 m 3 false chan scope order z)
  | .atomMin h u m chan scope order z => some (atomRow h 0x94 m 4 u chan scope order z)
  | .atomMax h u m chan scope order z => some (atomRow h 0x95 m 5 u chan scope order z)
  | .atomAnd h m chan scope order z => some (atomRow h 0x96 m 6 false chan scope order z)
  | .atomOr h m chan scope order z => some (atomRow h 0x97 m 7 false chan scope order z)
  | .atomXor h m chan scope order z => some (atomRow h 0x98 m 8 false chan scope order z)
  | .atomExch h m chan scope order z => some (atomRow h 0x99 m 9 false chan scope order z)
  | .atomCas h m chan scope order z =>
    some { atomRow h 0x9A m 10 false chan scope order z with regs := 2 * sizeRegs z, cmp := sizeRegs z }
  | .atomFadd h m chan scope order => some (atomRow h 0x9B m 11 false chan scope order .b32)
  | .redAdd h m chan scope order z => some (redRow h 0x9C m 3 false chan scope order z)
  | .redMin h u m chan scope order z => some (redRow h 0x9D m 4 u chan scope order z)
  | .redMax h u m chan scope order z => some (redRow h 0x9E m 5 u chan scope order z)
  | .redFadd h ty slot m chan scope order =>
    some { redRow h 0x9F m 0 false chan scope order .b32 with
      aop := if chan.isSome then .contrib ty slot.toNat else .fadd ty, bytes := if ty = .f32 then 4 else 2 }
  | _ => none

def MemRow.load (r : MemRow) : Bool := r.aop == .load

/-- R222, R224: the operands are legal: a result in scalar registers needs a scalar base. -/
def MemRow.Legal (r : MemRow) (x : Ctx) : Prop :=
  baseOk x r.form r.m = true ∧ dataOk x r.m r.regs = true ∧ (r.back ≠ 0 → r.m.dk = true → r.m.bk ≠ 0)

/-- The registers that the word reads and writes. -/
def MemRow.places (r : MemRow) (x : Ctx) : List Loc :=
  baseLocs x r.form r.m ++ (if r.load then [] else dataLocs x r.m r.regs) ++ dataLocs x r.m r.back

/-- The access that the word puts in flight, each lane at its place. -/
def MemRow.access (r : MemRow) (s : State) (x : Ctx) (ps : List (Space × Nat)) : MemOp :=
  { id := s.nextId, uid := x.grp.uid, gslot := x.g, pc := x.grp.pc, word := x.grp.words.getD (x.grp.wix - 1) 0, aop := r.aop, lk := r.lk, bytes := r.bytes
    sx := r.sx, mask := laneMask x.ex
    lanes := (memLanes x r.m).zipWith (fun l p =>
      { lane := l.1, slot := l.2, ea := memEa x r.form r.m r.bytes l.2, space := p.1, off := p.2
        data := if r.load then 0 else memData x r.m r.cmp (r.regs - r.cmp) l.2
        cmp := if r.load then 0 else memData x r.m 0 r.cmp l.2, stat := .waiting, old := 0, flags := 0
        peer := r.form.namesPeer (memEa x r.form r.m r.bytes l.2) }) ps
    data := r.m.data.toNat, sca := r.m.dk, ct := x.h.ct.toNat, scope := r.scope, acq := r.order = .acq ∨ r.order = .ar, chan := none, gen := x.cr.ms
    acked := r.load, replied := r.back = 0, rel := !r.load && isRel r.order }

/-- R221, R260: every lane that accesses has its place. -/
def MemRow.Places (r : MemRow) (s : State) (x : Ctx) (ps : List (Space × Nat)) : Prop :=
  (memLanes x r.m).map (fun l => memPlace s x r.form r.m r.bytes (!r.load) r.aop.isRmw l.2) = ps.map .ok

/-- R237: a lane that a channel may carry: in device memory, no window, no destination whose session of the channel has severed. -/
def MemRow.Carried (r : MemRow) (s : State) (x : Ctx) (k : Nat) (ps : List (Space × Nat)) : Prop :=
  (∀ l ∈ memLanes x r.m, isWindow (memEa x r.form r.m r.bytes l.2).toNat = false) ∧
  ∀ p ∈ ps, p.1 = .trans ∧ s.isHost (s.asidOf x.c) p.2 = false ∧ x.wg.severedTo k (s.chanDest x.c (s.asidOf x.c) p.2) = false

/-- R236, R298: the access of a channelled word as it stands with its workgroup, and its operations. -/
def MemRow.channelled (r : MemRow) (s : State) (x : Ctx) (k : Nat) (ps : List (Space × Nat)) : State × List ChanOp :=
  let o := r.access s x ps
  let t := (s.modWg x.c fun w => { w with ops := w.ops ++ [{ o with
    chan := some k, scope := .none, acq := false, rel := false, lanes := o.lanes.map fun l => { l with stat := .channelled } }] }).fresh
  (t, o.lanes.map fun l => (chanOpOf t x k o l (match r.aop with | .contrib _ n => slotScale (x.r.slot n) | _ => 0)).1)

/-- The group has only gone on to its next word. -/
def OnlyMoved (s t : State) (x : Ctx) : Prop := OnlyCore s t x ∧ Regs t x [] false ∧ At t x (nextSpot x) x.grp.slots

/-- A word of the memory row comes to issue: its operand log is not full (R382). -/
def MemComes (s : State) (h : Head) (op : Nat) (x : Ctx) (places : List Loc) : Prop := Comes s h op x places ∧ x.wg.log.length < 64

/-- R247: the access of a WOWN: each lane names a window of a rank's allocation and the rank that may write it. -/
def wownAccess (s : State) (x : Ctx) (rank : BitVec 5) (m : MOpnd) (ps : List (Space × Nat)) : MemOp :=
  { MemRow.access { h := x.h, op := 0xAA, form := .peer rank, m := m, aop := .wown, bytes := 1, regs := 1, back := 0, scope := .gang, order := .rlx } s x ps with
    acq := false }

/-- The scalar registers of the group after a word: the results at `d` and after, the others as before, and so its handles, ports and flags. -/
def ScalarsAre (t : State) (x : Ctx) (d : Nat) (vs : List Word32) : Prop :=
  ∃ g, t.group? x.c x.g = some g ∧ g.handles = x.grp.handles ∧ g.ports = x.grp.ports ∧ g.flags = x.grp.flags ∧ ∀ r, g.sreg r = if d ≤ r ∧ r < d + vs.length then vs.getD (r - d) 0 else x.grp.sreg r

/-- No write to the scalar registers from `d` on is outstanding. -/
def ScalarsQuiet (x : Ctx) (d n : Nat) : Prop := Quiet x ((List.range n).map fun i => (.sca x.grp.uid (d + i), 0))

/-- The handles of the group, one of them changed. -/
def handlesWith (x : Ctx) (n : Nat) (y : Option Handle) : Nat → Option Handle := fun j => if j = n then y else SMap.get? x.grp.handles j

/-- R76: the word has started an operation: its handle is pending with it, and it stands in the core's engine; no register has changed. -/
structure Started (s t : State) (x : Ctx) (hd : BitVec 8) (op : HOp) (kind : EngKind) (refused : Option Nat) : Prop where
  at_ : At t x (nextSpot x) x.grp.slots
  vec : VecRegs t x []
  handles : GroupRegs t x (handlesWith x (handleNo hd) (some ⟨op, s.nextId, false, 0⟩)) false
  eng : (t.core x.c).eng = (s.core x.c).eng ++ [newEng s x (some (handleNo hd)) kind refused]
  mem : t.mem = s.mem
  cores : ∀ d, d ≠ x.c → t.core d = s.core d

/-- The four registers of a quad, as numbers. -/
def quad (x : Ctx) (q : BitVec 8) (i : Nat) : Nat := (x.read (.sca x.grp.uid (q.toNat + i))).toNat

/-- R76, R258: the operation of a handle that is pending, with the core where it stands. -/
def pendingOp (s : State) (x : Ctx) (hs : BitVec 8) : Option (Nat × EngOp) :=
  match SMap.get? x.grp.handles (handleNo hs) with
  | some y => if y.done then none else s.eng? y.id
  | none => none

/-! ## Matrix words -/

/-- A matrix word: the registers it reads and those the engine will write, whether its operands are legal (R316), whether its checks pass (R350), and
what it takes with it. -/
structure MatRow where
  h : Head
  op : Nat
  reads : List Loc := []
  writes : List Loc := []
  legal : Prop := True
  passes : Prop := True
  issue : MIssue := {}

/-- R317: bytes of the allocation from an offset on. -/
def spans (x : Ctx) (off n a : Nat) : Prop := off % a = 0 ∧ off + n ≤ x.r.scratch

/-- R321: the slot is of a block format. -/
def blockSlot (x : Ctx) (f : BitVec 3) : Prop := slotFmt (x.r.slot f.toNat) = 8

/-- R322: bytes of B. -/
def bBytes (x : Ctx) (half : Bool) (f : BitVec 3) (kb : Nat) : Nat :=
  winLogical half (slotMb (x.r.slot f.toNat)) * packedBytes (slotMb (x.r.slot f.toNat)) kb

/-- R323: bytes of rows of A, and whether a row may hold the blocks. -/
def aBytes (x : Ctx) (f : BitVec 3) (rows kb : Nat) : Nat := rows * packedBytes (slotMa (x.r.slot f.toNat)) kb
def aFits (x : Ctx) (f : BitVec 3) (kb : Nat) : Prop := kb ≤ 64 ∧ kb ≤ 256 / slotMa (x.r.slot f.toNat)

/-- A matrix word with one offset, in sx. -/
def offRow (x : Ctx) (h : Head) (op : Nat) (sx : BitVec 8) (passes : Prop) (reads : Option (Nat × Nat × Nat)) : MatRow :=
  { h := h, op := op, reads := [.sca x.grp.uid sx.toNat], legal := sx.toNat < 64, passes := passes, issue := { sx := scaVal x sx, reads := reads } }

/-- R322 to R336, R343: the words that join the queue as soon as they are checked. `m` are the records as the words before will leave them. -/
def matRow (s : State) (x : Ctx) (m : MRecs) : Instr → Option MatRow
  | .mldb h half fb _ kb sx => some (offRow x h 0xC0 sx (blockSlot x fb ∧ spans x (scaVal x sx) (bBytes x half fb (kb.toNat + 1)) 8)
      (some (x.wg.rank, scaVal x sx, bBytes x half fb (kb.toNat + 1))))
  | .mldbPe h half fb _ kb sx sy => some
    { h := h, op := 0xC1, reads := [.sca x.grp.uid sx.toNat, .sca x.grp.uid sy.toNat], legal := sx.toNat < 64 ∧ sy.toNat < 64
      passes := blockSlot x fb ∧ spans x (scaVal x sx) (bBytes x half fb (kb.toNat + 1)) 8 ∧ scaVal x sy < x.r.gangSize ∧
        s.rankAt x.wg.launch x.wg.gang (scaVal x sy) ≠ .gone
      issue := { sx := scaVal x sx, sy := scaVal x sy, reads := some (scaVal x sy, scaVal x sx, bBytes x half fb (kb.toNat + 1)) } }
  | .mlda h fa _ rows kb sx => some (offRow x h 0xC2 sx
      (blockSlot x fa ∧ aFits x fa (kb.toNat + 1) ∧ spans x (scaVal x sx) (aBytes x fa (rows.toNat + 1) (kb.toNat + 1)) 8)
      (some (x.wg.rank, scaVal x sx, aBytes x fa (rows.toNat + 1) (kb.toNat + 1))))
  | .mldaV h fa _ kb sy => some
    { h := h, op := 0xC3, reads := runLocs x sy (16 * (kb.toNat + 1)), legal := runOk x sy (16 * (kb.toNat + 1)) = true
      passes := blockSlot x fa ∧ aFits x fa (kb.toNat + 1), issue := { vals := (runLocs x sy (16 * (kb.toNat + 1))).map x.read } }
  | .mldaG h fa _ rows kb sx => some (offRow x h 0xC4 sx
      ((∀ r ∈ mSet m.gn x.wg.rank, s.rankAt x.wg.launch x.wg.gang r ≠ .gone) ∧ blockSlot x fa ∧ aFits x fa (kb.toNat + 1) ∧
        spans x (scaVal x sx) (aBytes x fa (rows.toNat + 1) (kb.toNat + 1)) 8)
      (some (x.wg.rank, scaVal x sx, aBytes x fa (rows.toNat + 1) (kb.toNat + 1))))
  | .mzero h _ _ _ _ _ => some { h := h, op := 0xC5 }
  | .mma h half fa fb row col rows => some { h := h, op := 0xC6, passes := passOk x.r m half fa fb row.toNat (rows.toNat + 1) col = true }
  | .mmaZ h half fa fb row col rows => some { h := h, op := 0xC7, passes := passOk x.r m half fa fb row.toNat (rows.toNat + 1) col = true }
  | .mmas h fa _ _ _ => some { h := h, op := 0xC8, passes := blockSlot x fa ∧ slotMa (x.r.slot fa.toNat) ≤ 8 }
  | .mscale h _ _ _ rows sx => some (offRow x h 0xC9 sx (spans x (scaVal x sx) (4 * (rows.toNat + 1)) 4)
      (some (x.wg.rank, scaVal x sx, 4 * (rows.toNat + 1))))
  | .mscaleL h _ _ _ _ => some { h := h, op := 0xC9 }
  | .mside h _ rows sx => some (offRow x h 0xCA sx (spans x (scaVal x sx) (8 * (rows.toNat + 1)) 8) none)
  | .msideQ h _ _ => some { h := h, op := 0xCA }
  | .msideW h _ rows sx => some (offRow x h 0xD6 sx (spans x (scaVal x sx) (8 * (rows.toNat + 1)) 8)
      (some (x.wg.rank, scaVal x sx, 8 * (rows.toNat + 1))))
  | .mrdV h half _ _ sy => some
    { h := h, op := 0xCB, writes := runLocs x sy (winCols half), legal := runOk x sy (winCols half) = true, issue := { sy := sy.toNat } }
  | .mwrV h half _ _ sy => some
    { h := h, op := 0xCD, reads := runLocs x sy (winCols half), legal := runOk x sy (winCols half) = true
      issue := { vals := (runLocs x sy (winCols half)).map x.read } }
  | .mrdSp h half fa _ _ rows sx => some (offRow x h 0xCC sx (slotFmt (x.r.slot fa.toNat) ≤ 2 ∧
      spans x (scaVal x sx) ((rows.toNat + 1) * winCols half * fmtBytes (slotFmt (x.r.slot fa.toNat))) (fmtBytes (slotFmt (x.r.slot fa.toNat)))) none)
  | .mwrSp h half fa _ _ rows sx => some (offRow x h 0xCE sx (slotFmt (x.r.slot fa.toNat) ≤ 2 ∧
      spans x (scaVal x sx) ((rows.toNat + 1) * winCols half * fmtBytes (slotFmt (x.r.slot fa.toNat))) (fmtBytes (slotFmt (x.r.slot fa.toNat))))
      (some (x.wg.rank, scaVal x sx, (rows.toNat + 1) * winCols half * fmtBytes (slotFmt (x.r.slot fa.toNat)))))
  | .mcomp h fb n kb sx sy => some
    { h := h, op := 0xCF, reads := [.sca x.grp.uid sx.toNat, .sca x.grp.uid sy.toNat], legal := sx.toNat < 64 ∧ sy.toNat < 64
      passes := blockSlot x fb ∧ spans x (scaVal x sx) (64 * (kb.toNat + 1) * (n.toNat + 1)) 4 ∧
        spans x (scaVal x sy) (compBytes (slotMb (x.r.slot fb.toNat)) (kb.toNat + 1) (n.toNat + 1) + 2 * (kb.toNat + 1) * (n.toNat + 1)) 8
      issue := { sx := scaVal x sx, sy := scaVal x sy, reads := some (x.wg.rank, scaVal x sx, 64 * (kb.toNat + 1) * (n.toNat + 1)) } }
  | .mgang h log => some { h := h, op := 0xD4, passes := 2 ^ log.toNat ≤ x.r.gangSize }
  | .mchk h => some { h := h, op := 0xD5 }
  | _ => none

/-- R315, R346: a matrix word comes to issue: its group holds every lane, q0 is empty, the engine performs words and its queue has room. -/
def MatComes (s : State) (h : Head) (op : Nat) (x : Ctx) (places : List Loc) : Prop :=
  Issues s h op none x ∧ Checked x places ∧ x.r.w ≤ x.lanes.length ∧ x.grp.port 0 = [] ∧ x.wg.mtx.dead = false ∧ x.wg.mtx.queue.length < 16

/-- A word has joined the queue of the engine. -/
def Queued (s t : State) (x : Ctx) (q : MWord) (pend : List Loc) : Prop :=
  OnlyCore s t x ∧ ∃ w, t.wg? x.c = some w ∧ w.mtx = { x.wg.mtx with queue := x.wg.mtx.queue ++ [q] } ∧ w.pend = x.wg.pend ++ pend.map (fun l => (s.nextId, l))

/-! ## System words -/

/-- No port or handle of the sources holds the word up, and none is named twice. -/
def SysComes (s : State) (h : Head) (op : Nat) (lit : Lit) (x : Ctx) (srcs : List (OTy × Src)) : Prop :=
  Issues s h op lit x ∧ Checked x (headLocs x ++ srcs.flatMap fun p => srcLocs x p.1 p.2) ∧ twice (portsOf none (srcs.map (·.2))) = false ∧
    operandWait x none (srcs.map (·.2)) = none

/-- Memory, the other cores, and the registers of the workgroup's threads and of the group are as before. -/
def SysKept (s t : State) (x : Ctx) : Prop :=
  t.mem = s.mem ∧ (∀ d, d ≠ x.c → t.core d = s.core d) ∧ ∃ w g, t.wg? x.c = some w ∧ w.group? x.g = some g ∧ w.vregs = x.wg.vregs ∧
    w.threads = x.wg.threads ∧ g.sregs = x.grp.sregs ∧ g.flags = x.grp.flags ∧ w.mtx = x.wg.mtx ∧ w.scratch = x.wg.scratch

/-! ## Weighted populations -/

/-- R359: the position with number `j`. -/
def position (n rnd t j : Nat) : Nat := (j * 2 ^ 32 + rnd) * t / (n * 2 ^ 32)

/-- R359: the offspring of weights, by their positions, from a prefix sum on. -/
def byPositions (n rnd t : Nat) : Nat → List Nat → List Nat
  | _, [] => []
  | p, w :: ws => ((List.range n).countP fun j => decide (p ≤ position n rnd t j) && decide (position n rnd t j < p + w)) :: byPositions n rnd t (p + w) ws

/-! ## Accesses that are performed -/

/-- R230, R105: the value that an access leaves at its home, from the value there, its data and its compare value. -/
def left (a : AOp) (b old d cmp : Nat) : Nat :=
  let n := 8 * b
  let x : BitVec n := BitVec.ofNat n old
  let y : BitVec n := BitVec.ofNat n d
  let arith (op : Nat) (u : Bool) : Nat :=
    match op with
    | 3 => (x + y).toNat
    | 4 => if (if u then y.ult x else y.slt x) then y.toNat else x.toNat
    | 5 => if (if u then x.ult y else x.slt y) then y.toNat else x.toNat
    | 6 => (x &&& y).toNat
    | 7 => (x ||| y).toNat
    | 8 => (x ^^^ y).toNat
    | 9 => y.toNat
    | 10 => if old = cmp then y.toNat else x.toNat
    | _ => (F32.add .rne (F32.decode old) (F32.decode y.toNat)).1
  match a with
  | .store => y.toNat
  | .atom op u => arith op u
  | .red op u => arith op u
  | .fadd ty => ((faddFmt ty).add .rne ((faddFmt ty).decode old) ((faddFmt ty).decode y.toNat)).1
  | _ => old

/-- R223: the `i`th register of a loaded value of `b` bytes. -/
def loaded (b : Nat) (sx : Bool) (v i : Nat) : Word32 :=
  if 4 ≤ b then BitVec.ofNat 32 (v / 2 ^ (32 * i)) else if sx then (BitVec.ofNat (8 * b) v).signExtend 32 else (BitVec.ofNat (8 * b) v).setWidth 32

/-- Bytes of a store hold a number, lowest byte first, and the others are as before. -/
def Stored (m m' : Mem) (key n v : Nat) : Prop :=
  ∀ a, Mem.read m' a = if key ≤ a ∧ a < key + n then BitVec.ofNat 8 (v / 256 ^ (a - key)) else Mem.read m a

/-- R13, R289, R383: a lane of a write or an atomic in flight may be performed. -/
structure Performs (s : State) (c id n : Nat) (w : Wg) (o : MemOp) (l : LaneAcc) : Prop where
  wg : s.wg? c = some w
  op : w.op? id = some o
  lane : o.lane? n = some l
  write : o.aop ≠ .load
  bytes : o.bytes ∈ [1, 2, 4, 8, 16]
  chan : o.chan = none
  waits : l.stat = .waiting
  free : laneBlocked w o l = false
  clear : s.othersClear c o n = true

/-- The lane has been performed, and what it found is kept for the reply. -/
def PerformedLane (t : State) (c id n old : Nat) : Prop :=
  ∃ o l, t.memOp? c id = some o ∧ o.lane? n = some l ∧ l.stat = .performed ∧ l.old = old

/-- A write to the region is of the present generation of its home (R396, R398). -/
def Present (s : State) (asid va gen : Nat) : Prop :=
  ∀ ti, s.tenantOfAsid asid = some ti → s.isHost asid va = true ∨ (s.tenant ti).genAt (s.homeDie asid va) ≤ gen

/-- R129: no word in flight at a core completes a write to the place later than now: what is written there now stays. -/
def Lands (s : State) (c : Nat) (w : Wg) (l : Loc) : Prop := ∀ f ∈ w.flights, f.openAt (s.core c).ck = true → f.val? l = none

/-- R226, R225, R129: the registers of a reply hold their values, but for one that a later word in flight writes; the access is off the list of the places that
await one, and its counter has gone down. -/
def Replied (s t : State) (c : Nat) (w : Wg) (o : MemOp) (n : Nat) (ls : List LaneAcc) (v : LaneAcc → Nat → Word32) : Prop :=
  ∃ w', t.wg? c = some w' ∧ (∀ p, p ∈ w'.pend ↔ p ∈ w.pend ∧ p.1 ≠ o.id) ∧
    (o.sca = false → o.data + n ≤ 256 → (ls.map fun (l : LaneAcc) => l.slot).Nodup → ∀ l ∈ ls, ∀ i, i < n → (o.id, Loc.vec l.slot (o.data + i)) ∈ w.pend →
      Lands s c w (.vec l.slot (o.data + i)) → w'.vreg l.slot (o.data + i) = v l i) ∧
    ∀ g y, w.group? g = some y → y.uid = o.uid → ∃ y', w'.group? g = some y' ∧ ∀ k, k ≠ 0 → y'.ct k = y.ct k - (if k = o.ct then 1 else 0)

/-- R270: the lines that a core's L1, once `k`, holds after the reply of an access: none where the access acquires at a scope above the workgroup, or a copy of that
scope has stamped (R268, R275). -/
def Acquired (k : Core) (t : State) (c : Nat) (w : Wg) (o : MemOp) : Prop :=
  (t.core c).l1 = if o.acq = true ∧ (o.scope ∈ [.gang, .die, .dev, .sys] ∨ w.stamped = true) then [] else k.l1

/-! ## Operations of the engines -/

/-- R76: an operation stands in a core's engine: it has no error, is not cancelled, and its workgroup and group slot are there. -/
structure Engaged (s : State) (c id : Nat) (e : EngOp) : Prop where
  eng : (s.core c).eng.find? (·.id == id) = some e
  live : e.killed = false ∧ e.freed = false ∧ e.cancelled = false ∧ e.stopped = false
  good : e.refused = none ∧ e.fault = none

/-- R76, R254: after `u`, an operation of the workgroup `w` at core `d` ends with a status: it has left the engines, and its handle is done with the
status, or its status is the last of q3. Memory and registers are as they were. -/
structure Ended (u t : State) (d : Nat) (w : Wg) (e : EngOp) (status : Word32) : Prop where
  gone : ∀ c, ∀ q ∈ (t.core c).eng, q.id ≠ e.id
  mem : t.mem = u.mem
  vregs : (t.wg? d).map (·.vregs) = some w.vregs
  handle : ∀ n, e.handle = some n → ∀ g y h, w.group? g = some y → y.uid = e.uid → SMap.get? y.handles n = some h → h.id = e.id → h.done = false →
    ∃ y', t.group? d g = some y' ∧ SMap.get? y'.handles n = some { h with done := true, status := status } ∧ y'.sregs = y.sregs
  queue : e.handle = none → ∀ g y, w.group? g = some y → y.uid = e.uid → ∃ y', t.group? d g = some y' ∧ y'.port 3 = y.port 3 ++ [status] ∧ y'.sregs = y.sregs

/-- After `u`, the operation has ended with a status at its workgroup, wherever that is resident. -/
def EndsAt (u t : State) (e : EngOp) (status : Word32) : Prop :=
  ∀ d w, u.ownerCore e.launch e.wgno = some d → u.wg? d = some w → Ended u t d w e status

/-! ## Channels -/

/-- R294, R298, R41: after `u` a message has gone to a device: into the module's own fabric, or out over the Causeway; with no link up it is lost. -/
def Sent (u t : State) (dev : Nat) (m : ChanMsg) : Prop :=
  if dev = u.devNum.toNat then t.msgs = u.msgs ++ [m] ∧ t.out = u.out
  else t.out = u.out ++ (if u.linksUp = [] then [] else [.peerMsg dev m]) ∧ t.msgs = u.msgs

/-- R293, R304: the session of a number has become `y`. -/
def SessionIs (t : State) (c num k n : Nat) (y : Session) (orphan : Bool) : Prop := t.sess? c num = some (k, n, y, orphan)

/-- R308: no operation waits at a source for the orphans before it. -/
def AllInSession (s : State) : Prop := ∀ p ∈ s.cores, ∀ o ∈ p.2.chanOps, o.sess ≠ none

/-! ## The matrix engine -/

/-- R346: the word that the fields of a command stand for. -/
def commandWord (op : Nat) (half hi : Bool) (fa fb : BitVec 3) (row rows : BitVec 7) : Instr :=
  let h : Head := ⟨0, 0, 7, false⟩
  let col : BitVec 8 := if hi then 128 else 0
  match op with
  | 0 => .mma h half fa fb row col rows
  | 1 => .mmaZ h half fa fb row col rows
  | _ => .mzero h false half row col rows

/-- R337: a sparse pass, whose metadata is judged as it starts (R339). -/
def sparsePass : Instr → Bool
  | .mspma _ _ _ _ _ _ _ _ => true
  | .mspmaZ _ _ _ _ _ _ _ _ => true
  | _ => false

/-- R326: the word of a gang whose load comes from a gather. -/
def gathers (q : MWord) (gn : Nat) : Prop := 1 < gn ∧ ∃ h fa row rows kb sx, q.instr = .mldaG h fa row rows kb sx

/-- R128: the counter that a word of the engine names goes down with its end. -/
def CounterDown (t : State) (c : Nat) (w : Wg) (q : MWord) : Prop :=
  ∀ g y, w.group? g = some y → y.uid = q.uid → ∃ y', t.group? c g = some y' ∧ ∀ k, k ≠ 0 → y'.ct k = y.ct k - (if k = q.ct then 1 else 0)

/-! ## Faults, homes and milestones -/

/-- R384: the Depot has the tenant's fault ring at its end: as many records are unread as it holds. -/
def RingFull (s : State) (ti : Nat) : Prop :=
  ((s.tenant ti).ringW + 2 ^ 64 - Mem.readNat s.mem (memKey 2 ((s.tenant ti).cfg.ring + 8)) 8) % 2 ^ 64 = (s.tenant ti).cfg.ringCount

/-- R383, R384, R454: a fault record stands in the ring, its fields in their bytes, under an id that no unanswered record has; the write index is one
higher, and the tenant's interrupt is raised. -/
def RecordWritten (s t : State) (ti : Nat) (r : FRec) : Prop :=
  let c := (s.tenant ti).cfg
  let at? := memKey 2 (c.ring + 0x40 + 16 * ((s.tenant ti).ringW % max c.ringCount 1))
  ∃ id : BitVec 16, Mem.readNat t.mem at? 8 = r.va % 2 ^ 64 ∧ Mem.readNat t.mem (at? + 8) 2 = r.asid % 2 ^ 16 ∧
    Mem.readNat t.mem (at? + 10) 2 = r.core % 512 ∧ Mem.readNat t.mem (at? + 12) 1 = r.kind % 256 ∧ Mem.readNat t.mem (at? + 13) 1 = r.cause % 256 ∧
    Mem.readNat t.mem (at? + 14) 2 = id.toNat ∧ Mem.readNat t.mem (memKey 2 c.ring) 8 = ((s.tenant ti).ringW + 1) % 2 ^ 64 ∧
    (∀ k, ¬ (at? ≤ k ∧ k < at? + 16) → ¬ (memKey 2 c.ring ≤ k ∧ k < memKey 2 c.ring + 8) → Mem.read t.mem k = Mem.read s.mem k) ∧
    (t.tenant ti).ringW = (s.tenant ti).ringW + 1 ∧ (t.tenant ti).unanswered = (s.tenant ti).unanswered ++ [{ r with id := some id }] ∧
    (∀ q ∈ (s.tenant ti).unanswered, q.id ≠ some id) ∧ t.out = s.out ++ [.interrupt ti c.vec]

/-- R382, R383: the log entry has a fault at a page that has no answer yet. -/
def FaultAt (e : LogEntry) (page : Nat) : Prop := ∃ q ∈ e.faults, q.1 = page

/-- No resequencer holds a packet, so that nothing waits for the answer of a fault or the move of a line. -/
def NothingHeld (s : State) : Prop := ∀ p ∈ s.dies, ∀ e ∈ p.2.reseq, e.held = []

/-- R383: the exception that the cause of a fault stands for. -/
def refusedCode (cause : Nat) : Nat := if cause = 1 then 0x11 else if cause = 2 then 0x14 else 0x10

/-- R469: after a shoot-down the byte lies in a frame of a confidential tenant that a mapping of its had before, and none has now. -/
def Freed (s t : State) (asid k : Nat) : Prop :=
  ∃ ti, s.tenantOfAsid asid = some ti ∧ (s.tenant ti).cfg.conf = true ∧ ∃ r ∈ s.recordedFrames asid, ∃ i < r.2 / 2 ^ 16,
    r.1 + i * 2 ^ 16 ≤ k ∧ k < r.1 + (i + 1) * 2 ^ 16 ∧ inRuns (({ t with mem := s.mem } : State).framesOf (s.tenant ti)) (r.1 + i * 2 ^ 16) = false

/-! ## Packets -/

/-- R402, R404: a queue stands at a packet of a type that may start, and whose header's reserved fields are zero. -/
structure AtPacket (s : State) (q ty : Nat) (p : Pkt) : Prop where
  head : s.headPkt q = some (.ok p)
  type : p.ty = ty
  resv : bits (p.word 0).toNat 53 44 = 0 ∧ bits (p.word 0).toNat 31 0 = 0

/-- R402, R404, R405: after `u` a packet has completed: it is off its queue's list, its token slot holds its value where that is larger, its interrupt
is raised; nothing else has changed but the read index `ix`. -/
structure PacketEnded (u t : State) (q : Nat) (p : Pkt) (ix : Nat) : Prop where
  queue : t.queue q = { u.queue q with readIx := ix, pkts := (u.queue q).pkts.filter fun k => k.num != p.num }
  others : ∀ r, r ≠ q → t.queue r = u.queue r
  tokens : ∀ n, t.token (u.queue q).tenant n = if n = p.tok ∧ n ≠ 0xFFF ∧ (u.token (u.queue q).tenant n).toNat < p.tval.toNat then p.tval
    else u.token (u.queue q).tenant n
  out : t.out = u.out ++ if p.irq then [.interrupt (u.queue q).tenant (u.tenant (u.queue q).tenant).cfg.vec] else []
  mem : t.mem = u.mem
  cores : t.cores = u.cores

/-- R401, R402: the packet has started and stands on its queue's list; the read index is past it. -/
def PacketStarted (s t : State) (q : Nat) (p : Pkt) : Prop :=
  t.queue q = { s.queue q with readIx := p.num + 1, pkts := ((s.queue q).pkts.filter fun k => k.num != p.num) ++ [{ p with started := true }] }

/-- R403: the queue halts; packets that have not started are off its list; an error record with the cause, the queue and the packet's number is on its way
to the tenant's ring. -/
structure QueueHalted (s t : State) (q cause : Nat) : Prop where
  queue : t.queue q = { s.queue q with halted := true, pkts := (s.queue q).pkts.filter (·.started) }
  record : ∃ r, (t.tenant (s.queue q).tenant).arriving = (s.tenant (s.queue q).tenant).arriving ++ [r] ∧ r.kind = 0xFF ∧ r.cause = cause ∧ r.core = q ∧
    r.va = (s.queue q).base + 64 * ((s.queue q).readIx % 2 ^ (s.queue q).log) ∧ r.id = some (BitVec.ofNat 16 (s.queue q).readIx) ∧
    r.asid = (s.tenant (s.queue q).tenant).cfg.asid
  mem : t.mem = s.mem

/-- R407: the condition of a WAIT on a value, unsigned. -/
def waitHolds (cond : Nat) (v cmp : Word64) : Prop := match cond with | 0 => v = cmp | 1 => v ≠ cmp | 2 => cmp.toNat ≤ v.toNat | _ => v.toNat < cmp.toNat
/-! ## Launches -/

/-- R45, R46, R314: workgroup `n` of a launch stands fresh on a core: its place in the gang; thread slot j holds the thread n T + j, its own parent and root;
group g holds its threads at the entry; registers, scratchpad and private memory are zero. -/
def Seated (t : State) (c uid n gangNo rank : Nat) (r : LaunchRec) : Prop :=
  ∃ w, t.wg? c = some w ∧ w.launch = uid ∧ w.wgno = n ∧ w.gangNo = gangNo ∧ w.rank = rank ∧ w.gangSize = r.gangSize ∧
    w.vregs = [] ∧ w.scratch = [] ∧ w.priv = [] ∧ w.flags = 0 ∧ w.halt = none ∧
    (∀ j < r.t, ∃ x, SMap.get? w.threads j = some x ∧ x.tid = BitVec.ofNat 32 (n * r.t + j) ∧ x.par = x.tid ∧ x.root = x.tid ∧ x.copy = 0 ∧ x.mr = 0 ∧
      x.preds = 0 ∧ x.stat = .running) ∧
    ∀ g < r.t / r.w, ∃ y, w.group? g = some y ∧ y.pc = r.entry ∧ y.slots = (List.range r.w).map (fun i => g * r.w + i) ∧ y.sregs = [] ∧ y.handles = [] ∧
      y.ports = [] ∧ y.cts = []

/-- R415, R419: what a save keeps of a workgroup and a resume gives back: threads, registers, memories, barriers, sessions, the matrix engine's records. -/
def Kept (v w : Wg) : Prop :=
  w.launch = v.launch ∧ w.wgno = v.wgno ∧ w.rank = v.rank ∧ w.threads = v.threads ∧ w.vregs = v.vregs ∧ w.scratch = v.scratch ∧ w.priv = v.priv ∧
    w.stageQ = v.stageQ ∧ w.mtx = v.mtx ∧ w.log = v.log ∧ w.replay = v.replay ∧ w.flags = v.flags ∧ w.hist = v.hist ∧
    ∀ g y, v.group? g = some y → ∃ y', w.group? g = some y' ∧ y'.sregs = y.sregs ∧ y'.handles = y.handles ∧ y'.ports = y.ports ∧ y'.cts = y.cts ∧
      y'.hdr = y.hdr ∧ y'.slots = y.slots ∧ y'.lease = y.lease

/-- R413: a launch is told to stop on every core: its workgroups that have not retired are saved from now on; no other workgroup, and no memory, changes. -/
def Preempted (s t : State) (held : Nat → Prop) : Prop :=
  t.mem = s.mem ∧ ∀ c w, s.wg? c = some w → ∃ w', t.wg? c = some w' ∧ (held w.launch ∧ w.retired = false → w' = { w with saving := true, saveReason := 0 }) ∧
    (¬ (held w.launch ∧ w.retired = false) → w' = w)

/-- R79, R422: a core has left its launch, with the flags and counters of its workgroup. -/
def CoreLeft (s t : State) (c : Nat) (l : Launch) (w : Wg) : Prop :=
  t.wg? c = none ∧ t.mem = s.mem ∧ ∃ l', t.launch? l.uid = some l' ∧ l'.left = l.left ++ [⟨w.wgno, c, w.histogram⟩] ∧
    l'.flags = l.flags ||| w.allGroups.foldl (fun f g => f ||| g.flags) w.flags

/-- The matrix queue is idle, so that a save or a dump has nothing to withdraw. -/
def MatrixIdle (w : Wg) : Prop := w.mtx.queue = [] ∧ w.mtx.running = none ∧ w.mtx.gather = false ∧ w.mtx.passOpen = none

/-- What a halted workgroup's dump stands at. -/
def HaltIs (t : State) (c : Nat) (h : Halt) : Prop := (t.wg? c).bind (·.halt) = some h

/-- R413: a core can be given to a launch of a priority. -/
def NeedsFrom (s : State) (l : Launch) (cs : List Nat) : Prop :=
  (l.stat = .pending ∧ (∀ c ∈ l.rcd.part, s.coreYields l.rcd.prio c = true) ∧ cs = l.rcd.part) ∨
    (l.stat = .saved ∧ ∃ ps, s.placement l (s.coreYields l.rcd.prio) = some ps ∧ cs = ps.map (·.2))
/-! ## Debug, capabilities, the host and the module -/

/-- R439: the command's reference names this workgroup. -/
def Named (wg : Word32) (w : Wg) : Prop := wg = 0xFFFFFFFF ∨ wg.toNat = w.wgno

/-- R439: a workgroup that issues again: no exception, every group at its word, a group that TRAP stopped at the word after it. -/
def IssuesAgain (w w' : Wg) : Prop :=
  w'.halt = none ∧ w'.excs = [] ∧ w'.threads = w.threads ∧ w'.vregs = w.vregs ∧ w'.scratch = w.scratch ∧
    ∀ g y, w.group? g = some y → ∃ y', w'.group? g = some y' ∧ y'.sregs = y.sregs ∧ y'.fetched = false ∧ y'.wait = none ∧
      ((∀ e ∈ w.excs, e.code = 0x50 → e.slot ≠ g) → y'.hdr = y.hdr ∧ y'.wix = y.wix) ∧
      ((∃ e ∈ w.excs, e.code = 0x50 ∧ e.slot = g) → y'.hdr = y.skip.hdr ∧ y'.wix = y.skip.wix)

/-- R437: a capability has been granted: its slot was free, its reference has been given out, with its tenant, rights, slot and nonce in their bits. -/
def Granted (s t : State) (k : CapSlot) : Prop :=
  (∀ x ∈ s.caps, x.slot ≠ k.slot) ∧ k.slot < 2 ^ 16 ∧ t.caps = s.caps ++ [k] ∧ t.mem = s.mem ∧ t.cores = s.cores ∧
    ∃ ref, t.out = s.out ++ [.capRef ref] ∧ capTenant ref = k.tenant % 16 ∧ capSlotNo ref = k.slot ∧ capNonce ref = k.nonce ∧ capDbg ref = k.dbg ∧
      capTrace ref = k.trace ∧ capProf ref = k.prof ∧ bits ref.toNat 59 59 = 0

/-- R446: a byte of the first tier. -/
def tierByte (s : State) (pa : Nat) : Byte := Mem.read s.mem (memKey 0 pa)

/-- R452: the fields of a tenant entry at their offsets. -/
def EntryField (o n : Nat) (v : Nat) (c d : TenantCfg) : Prop :=
  (o = 0x00 ∧ n = 4 ∧ d = { c with conf := v / 2 % 2 == 1 }) ∨ (o = 0x04 ∧ n = 2 ∧ d = { c with asid := v % 2 ^ 16 }) ∨
  (o = 0x06 ∧ n = 2 ∧ d = { c with vec := v % 2 ^ 16 }) ∨ (o = 0x08 ∧ n = 8 ∧ d = { c with ring := v }) ∨
  (o = 0x10 ∧ n = 4 ∧ d = { c with ringCount := v % 2 ^ 32 }) ∨ (o = 0x18 ∧ n = 8 ∧ d = { c with dump := v }) ∨
  (o = 0x20 ∧ n = 4 ∧ d = { c with slotSize := v % 2 ^ 32 }) ∨ (o = 0x24 ∧ n = 4 ∧ d = { c with slotCount := v % 2 ^ 32 }) ∨
  (o = 0x28 ∧ n = 8 ∧ d = { c with pool := v }) ∨ (o = 0x30 ∧ n = 4 ∧ d = { c with frames := v % 2 ^ 32 }) ∨
  (o = 0x38 ∧ n = 8 ∧ d = { c with area := v }) ∨ (o = 0x40 ∧ n = 8 ∧ d = { c with root := v })

/-- R464, R465, R450: the module has reset and booted: nothing runs, no tenant, queue or capability is left, the owner, the fuses' counts and the sensors stay,
and the boot has ended ready, waiting for an owner, or failed; without an owner it is not ready. -/
structure Rebooted (t : State) (owner : Option (BitVec 256)) (islands : SMap Island) : Prop where
  empty : t.cores = [] ∧ t.tenants = [] ∧ t.queues = [] ∧ t.launches = [] ∧ t.caps = [] ∧ t.homeMap = []
  up : t.trip = false ∧ t.devNumSet = false ∧ t.nonceOut = none
  key : t.ownerKey = owner
  stage : t.status.toNat % 16 = 3 ∧ owner.isSome = true ∨ t.status.toNat % 16 = 4 ∧ owner = none ∨ t.status.toNat % 16 = 15
  temps : ∀ i x, SMap.get? islands i = some x → ∃ y, SMap.get? t.islands i = some y ∧ y.temp = x.temp ∧ y.budget = Island.reset.budget ∧ y.cur = Island.reset.cur

/-- R457, R458: the module has tripped: status 0x50F, every core stopped and every launch and tenant gone. -/
structure Tripped (t : State) : Prop where
  flag : t.trip = true
  status : t.status = 0x50F
  empty : t.cores = [] ∧ t.launches = [] ∧ t.tenants = [] ∧ t.queues = [] ∧ t.caps = []

/-- A reset leaves device memory as it is: no confidential tenant has frames, and no TRANSFER waits for its completion. -/
def KeepsMemory (s : State) : Prop := s.transfer = none ∧ ∀ p ∈ s.tenants, p.2.live = true → p.2.cfg.conf = false

/-- R466: the answer goes out, signed, and nothing else changes. -/
def Answers (i : Instr) (s : State) (a : Spdm) (body : List Nat) : Prop := exec i s = .next { s with out := s.out ++ [.spdm a body (some (Config.sign body))] }

/-- R466: a signed answer holds the request's nonce and the digests of the five measurements, and is signed whole. -/
def SignedAnswer (s t : State) (a : Spdm) (nonce : Nat) (digests : List Nat) : Prop :=
  ∃ r, t.out = s.out ++ [.spdm a (nonce :: r :: digests) (some (Config.sign (nonce :: r :: digests)))] ∧ t.mem = s.mem ∧ t.cores = s.cores ∧ t.caps = s.caps
/-! ## The machine as a whole -/

/-- R133: the unassigned opcodes. -/
def UnassignedCode (n : Nat) : Prop :=
  n = 0x00 ∨ n = 0x2E ∨ n = 0x2F ∨ 0x3B ≤ n ∧ n ≤ 0x3F ∨ 0x67 ≤ n ∧ n ≤ 0x6F ∨ n = 0x7F ∨ 0x85 ≤ n ∧ n ≤ 0x8F ∨ 0xAB ≤ n ∧ n ≤ 0xAF ∨ 0xBC ≤ n ∧ n ≤ 0xBF ∨
    0xD7 ≤ n ∧ n ≤ 0xDF ∨ 0xE7 ≤ n ∧ n ≤ 0xEF ∨ 0xF0 ≤ n ∧ n ≤ 0xFF

/-- R50, R55, R110, R111: the turn of a group comes to a word: its workgroup issues, it has its clause, the header's waits are over, and no other group goes
before it. -/
structure ComesTo (s : State) (c g : Nat) (x : Group) (w : Word64) : Prop where
  group : s.group? c g = some x
  issues : s.issues c = true
  fetched : x.fetched = true
  waits : x.tested = true ∨ x.countersMet = true ∧ x.handlesMet = true
  word : x.words[x.wix - 1]? = some w
  first : s.first c g x = true

end Sys2Proof.Claims

open Sys2Proof Sys2Proof.Machine Sys2Proof.Claims

/-- R149 to R153, R168, R131, R134: every form of the integer, address, logic, shift, bitfield and move words, with its result; and what comes first where it cannot complete. -/
def Obligations.IntegerWordsComplete : Prop := ∀ i r, intRow i = some r → r.Completes i ∧ r.Ordered i

/-- R154 to R160, R91, R131, R134: every form of the FP32 words, the packed words and CVT, with the value and the flags of each element; FP_TRAP after the results where a flag
traps; and what comes first where it cannot complete.
The working precision of R157 is the model's choice (log entry 22). -/
def Obligations.FloatWordsComplete : Prop := ∀ i r, fpRow i = some r → r.Completes i ∧ r.Traps i ∧ r.Ordered i

/-- R162 to R164, R169, R173, R174, R176, R177: CVTN, CVTW, MOVC, VOTE.ballot, REDG and SREAD into a scalar destination.
Which value a read meeting a pending write supplies is a free value (log entry 10); that REDG takes one copy of a uniform source for each executing lane is the model's choice (log
entry 94). -/
def Obligations.IssueWordsComplete : Prop :=
  ∀ i s x r ok more, issueRow s x i = some (r, ok, more) → Issues s r.h r.op r.lit x → r.Legal x → ok → Checked x (r.places x ++ more) →
    operandWait x (some r.d) r.srcs = none → Quiet x (r.results s x) → trapped (r.flags s x) x.r.tmask = false →
    ∃ t, exec i s = .next t ∧ After s t x (r.results s x) (r.flags s x) r.srcs (pushOf x r.d (r.value s x 0).1)

/-- R150, R165 to R167, R172, R173, R175, R177, R179, R91: the words whose executing lanes each write a vector register or a predicate; FP_TRAP after the results where a flag traps. -/
def Obligations.LaneWordsComplete : Prop :=
  ∀ i s x r, laneRow s x i = some r → Issues s r.h r.op r.lit x → r.Legal x → Checked x (r.places x) → operandWait x none (r.srcs.map (·.2)) = none →
    Quiet x (r.results x) →
    ∃ u, exec i s = .next (if trapped (r.flags x) x.r.tmask then FpTrapped u x else u) ∧ After s u x (r.results x) (r.flags x) (r.srcs.map (·.2)) none

/-- R178: SWRITE sets the count of `%cyc`: it is the value in the fourth ck after the issue ends and goes on from there. Nothing else changes but the
place of the group. -/
def Obligations.CycleCountWritten : Prop :=
  ∀ s x h a lit, Issues s h 0x5E lit x → srcIsVec a = false → srcOk x .i64 a = true → Checked x (headLocs x ++ srcLocs x .i64 a) → x.ex ≠ [] →
    ∃ t, exec (.swrite h .cyc ⟨false, 0⟩ a lit) s = .next t ∧
      (∀ n, (t.core x.c).cycAtCk (x.fin + 4 + n) = srcVal s x .i64 0 a + BitVec.ofNat 64 n) ∧
      (∀ ck, ck < x.fin + 4 → (t.core x.c).cycAtCk ck = (s.core x.c).cycAtCk ck) ∧
      Regs t x [] true ∧ At t x (nextSpot x) x.grp.slots ∧ t.mem = s.mem ∧ ∀ d, d ≠ x.c → t.core d = s.core d

/-- R133: the 72 unassigned opcodes; a word with one of them, whatever else it holds, a word of zeros among them, raises ILLEGAL_INSTR in the group that comes to
it, at its own PC. -/
def Obligations.UnassignedOpcodeRaises : Prop :=
  (∀ w next, w < 2 ^ 64 → UnassignedCode (w / 2 ^ 56) →
    decodeWord w next = .ok (.unassignedOpcode (BitVec.ofNat 8 (w / 2 ^ 56)) (BitVec.ofNat 56 w))) ∧
  (∃ l : List Nat, l.length = 72 ∧ l.Nodup ∧ ∀ n, n ∈ l ↔ n < 256 ∧ UnassignedCode n) ∧
  ∀ s x (code : BitVec 8) (body : BitVec 56), s.ctx? (headOf (code.toNat * 2 ^ 56 + body.toNat)) code.toNat none = some x →
    exec (.unassignedOpcode code body) s = .next ((s.advanceTo x.c x.now).raise x.c ⟨0x01, 0, x.g, laneMask x.ex % 2 ^ 32, x.grp.pc⟩ (laneMask x.ex))

/-- R181, R182, R185 to R190, R204: NOP, BRA, CALL and YIELD, and BRX, CALLX and RET: where the group goes, which threads leave it, and nothing else; and where executing threads' targets
are bad, or a CALL has no return offset of 32 bits: those threads stop with BAD_TARGET and the others go on.
The model's choices: what one place is (log entry 18), and a YIELD without an executing lane (log entry 19). -/
def Obligations.BranchesComplete : Prop :=
  ((∀ s x h, Comes s h 0x60 x [] → ∃ t, exec (.nop h false) s = .next t ∧ OnlyCore s t x ∧ Regs t x [] false ∧ At t x (nextSpot x) x.grp.slots ∧ Others t x []) ∧
   (∀ s x h off, Comes s h 0x61 x [] → ∃ t, exec (.bra h false off) s = .next t ∧ OnlyCore s t x ∧ Regs t x [] false ∧ Split t x (target x off)) ∧
   (∀ s x h ld off v, Comes s h 0x64 x ((exSlots x).map fun k => .vec k ld.toNat) → ld.toNat < x.r.v → returnOffset x = some v → Quiet x (links x ld v) →
     ∃ t, exec (.call h false ld off) s = .next t ∧ OnlyCore s t x ∧ Regs t x (links x ld v) true ∧ Split t x (target x off)) ∧
   (∀ s x h, Comes s h 0x7C x [] → ∃ t, exec (.yield h false) s = .next t ∧ OnlyCore s t x ∧ Regs t x [] false ∧ Others t x [] ∧
     At t x (if x.ex = [] then nextSpot x else (x.grp.hdr + BitVec.ofNat 64 (8 * (x.grp.words.length + 1)), 0)) x.grp.slots)) ∧
  ((∀ s x h r, Comes s h 0x63 x (xregLocs x r) → xregOk x r = true → x.grp.slots ≠ [] → badThreads s x true r = [] →
     ∃ t, exec (.brx h false r) s = .next t ∧ OnlyCore s t x ∧ Regs t x [] false ∧ Resolved t x (indirectSpot x r)) ∧
   (∀ s x h ld r v, Comes s h 0x65 x (xregLocs x r ++ (exSlots x).map fun k => .vec k ld.toNat) → xregOk x r = true → ld.toNat < x.r.v →
     x.grp.slots ≠ [] → badThreads s x true r = [] → returnOffset x = some v → Quiet x (links x ld v) →
     ∃ t, exec (.callx h false ld r) s = .next t ∧ OnlyCore s t x ∧ Regs t x (links x ld v) true ∧ Resolved t x (indirectSpot x r)) ∧
   (∀ s x h r, Comes s h 0x66 x (xregLocs x r) → xregOk x r = true → x.grp.slots ≠ [] → badThreads s x false r = [] →
     ∃ t, exec (.ret h false r) s = .next t ∧ OnlyCore s t x ∧ Regs t x [] false ∧ Resolved t x (indirectSpot x r))) ∧
  ((∀ s x h r, Comes s h 0x63 x (xregLocs x r) → xregOk x r = true → badThreads s x true r ≠ [] →
     ∃ t, exec (.brx h false r) s = .next t ∧ Partly s t x (badThreads s x true r) [] false (indirectSpot x r)) ∧
   (∀ s x h ld r v, Comes s h 0x65 x (xregLocs x r ++ (exSlots x).map fun k => .vec k ld.toNat) → xregOk x r = true → ld.toNat < x.r.v →
     badThreads s x true r ≠ [] → returnOffset x = some v → Quiet x (links x ld v) →
     ∃ t, exec (.callx h false ld r) s = .next t ∧ Partly s t x (badThreads s x true r)
       (((exSlots x).filter fun k => !(badThreads s x true r).contains k).map fun k => (.vec k ld.toNat, v)) true (indirectSpot x r)) ∧
   (∀ s x h r, Comes s h 0x66 x (xregLocs x r) → xregOk x r = true → badThreads s x false r ≠ [] →
     ∃ t, exec (.ret h false r) s = .next t ∧ Partly s t x (badThreads s x false r) [] false (indirectSpot x r)) ∧
   (∀ s x h ld off, Comes s h 0x64 x ((exSlots x).map fun k => .vec k ld.toNat) → ld.toNat < x.r.v → exSlots x ≠ [] → returnOffset x = none →
     ∃ t, exec (.call h false ld off) s = .next t ∧ Partly s t x (exSlots x) [] false fun _ => nextSpot x) ∧
   ∀ s x h ld r, Comes s h 0x65 x (xregLocs x r ++ (exSlots x).map fun k => .vec k ld.toNat) → xregOk x r = true → ld.toNat < x.r.v → exSlots x ≠ [] →
     returnOffset x = none → ∃ t, exec (.callx h false ld r) s = .next t ∧ Partly s t x (exSlots x) [] false fun _ => nextSpot x)

/-- R183: a BRA.u whose executing set is every thread of the group, or none of them, branches with all of them, or goes on, and writes no spawn entry; with any
other set it raises ILLEGAL_CONVERGENCE at its own PC, and the group stays whole at the word. -/
def Obligations.UniformBranch : Prop :=
  ∀ s x h off, Comes s h 0x62 x [] →
    (exSlots x = [] ∨ idleSlots x = [] → ∃ t w, exec (.braU h false off) s = .next t ∧ OnlyCore s t x ∧ Regs t x [] false ∧
      At t x (if exSlots x = [] then nextSpot x else (target x off, 0)) x.grp.slots ∧ t.wg? x.c = some w ∧ w.spawn = x.wg.spawn ∧ Others t x []) ∧
    (exSlots x ≠ [] → idleSlots x ≠ [] → ∃ t, t = (s.advanceTo x.c x.now).raise x.c ⟨0x04, 0, x.g, laneMask x.ex % 2 ^ 32, x.grp.pc⟩ (laneMask x.ex) ∧
      exec (.braU h false off) s = .next t ∧ t.group? x.c x.g = some x.grp ∧ (t.wg? x.c).map (·.spawn) = some x.wg.spawn)

/-- R191, R192: MEET opens the lowest free record with the label, the number of threads of the group and the mr they had, which their link registers
receive; MRSET gives the executing threads their operand's mr.
That MEET takes the lowest free record is the model's choice (log entry 79). -/
def Obligations.MeetingWordsComplete : Prop :=
  (∀ s x h ld off mr n, Comes s h 0x70 x (x.grp.slots.map fun k => .vec k ld.toNat) → ld.toNat < x.r.v → x.grp.slots ≠ [] → sharedMr x mr →
    SMap.lowestFree x.wg.meet 32 = some n → Quiet x (x.grp.slots.map fun k => (.vec k ld.toNat, mr)) →
    ∃ t w, exec (.meet h false ld off) s = .next t ∧ OnlyCore s t x ∧ Regs t x (x.grp.slots.map fun k => (.vec k ld.toNat, mr)) true ∧
      At t x (nextSpot x) x.grp.slots ∧ t.wg? x.c = some w ∧ w.spawn = x.wg.spawn ∧
      (∀ j, SMap.get? w.meet j = if j = n then some ⟨target x off, x.grp.slots.length, 0, mr⟩ else SMap.get? x.wg.meet j) ∧
      ∀ k, (SMap.get? w.threads k).map (·.mr) = (SMap.get? x.wg.threads k).map fun th => if k ∈ x.grp.slots then BitVec.ofNat 32 (32 + n) else th.mr) ∧
  (∀ s x h r, Comes s h 0x71 x (xregLocs x r) → xregOk x r = true → (∀ k ∈ exSlots x, (xregVal x r k).toNat < 64) →
    (∀ k ∈ exSlots x, ∀ n, mrRec (xregVal x r k) = some n → (SMap.get? x.wg.meet n).isSome) →
    ∃ t w, exec (.mrset h false r) s = .next t ∧ OnlyCore s t x ∧ Regs t x [] false ∧ At t x (nextSpot x) x.grp.slots ∧ t.wg? x.c = some w ∧
      w.spawn = x.wg.spawn ∧ w.meet = x.wg.meet ∧
      ∀ k, (SMap.get? w.threads k).map (·.mr) = (SMap.get? x.wg.threads k).map fun th => if k ∈ exSlots x then xregVal x r k else th.mr)

/-- R71, R199, R200: a FETCH or FETCH.V sends its request to the dispenser and goes on; with no executing lane it only goes on. COORDINATE_DELIVERY serves the
request at its head: the k-th lane of a FETCH.V receives the k-th coordinate, the group of a FETCH the one coordinate, or 0xFFFF_FFFF, each where it is still
awaited; predicates and leases say which, and a thread slot that awaits none keeps the lease it has. -/
def Obligations.CoordinatesFetched : Prop :=
  ((∀ s x h ld p, Comes s h 0x78 x (if x.ex.isEmpty then [] else fetched x false ld.toNat p.toNat) → ld.toNat < 64 →
     (x.ex = [] → ∃ t, exec (.fetch h true ld p) s = .next t ∧ OnlyCore s t x ∧ Regs t x [] false ∧ At t x (nextSpot x) x.grp.slots) ∧
     (x.ex ≠ [] → TakesRequest x 1 → ∃ t, exec (.fetch h true ld p) s = .next t ∧ Requested s t x false ld.toNat p.toNat)) ∧
   (∀ s x h ld p, Comes s h 0x79 x (fetched x true ld.toNat p.toNat) → ld.toNat < x.r.v →
     (x.ex = [] → ∃ t, exec (.fetchV h false ld p) s = .next t ∧ OnlyCore s t x ∧ Regs t x [] false ∧ At t x (nextSpot x) x.grp.slots) ∧
     (x.ex ≠ [] → TakesRequest x (exSlots x).length → ∃ t, exec (.fetchV h false ld p) s = .next t ∧ Requested s t x true ld.toNat p.toNat))) ∧
  (∀ s n l q qs w, s.launch? n = some l → l.disp.reqs = q :: qs → q.blocked = false → q.lanes.Nodup → q.dst < 256 → s.wg? q.core = some w →
     l.disp.mustWait l.rcd (if q.vec then q.lanes.length else 1) = false →
     ∀ vs p, ({ l.disp with reqs := qs } : Dispenser).takeN l.rcd (if q.vec then q.lanes.length else 1) = (vs, p) →
     ∃ t v, exec (.coordinateDelivery n) s = .next t ∧ t.wg? q.core = some v ∧ t.mem = s.mem ∧ (t.launch? n).map (·.disp) = some p ∧
       (∀ a, a ∈ v.pend ↔ a ∈ w.pend ∧ a.1 ≠ q.id) ∧
       (∀ (k slot : Nat) (c : Word32 × Bool), q.lanes[k]? = some slot → vs[if q.vec then k else 0]? = some c →
         (q.pred < 7 → w.pend.contains (q.id, .pred slot q.pred) = true → Lands s q.core w (.pred slot q.pred) → ∀ th, SMap.get? v.threads slot = some th → th.pred q.pred = c.2) ∧
         (q.vec = true → (w.pend.contains (q.id, .vec slot q.dst) = true → Lands s q.core w (.vec slot q.dst) → v.vreg slot q.dst = c.1) ∧
           ∀ th, SMap.get? v.threads slot = some th → th.lease =
             if w.pend.contains (q.id, .vec slot q.dst) then (if c.2 then some c.1 else none) else (SMap.get? w.threads slot).bind (·.lease))) ∧
       (q.vec = false → ∀ (c : Word32 × Bool) j g, vs[0]? = some c → v.group? j = some g → g.uid = q.uid →
         (w.pend.contains (q.id, .sca q.uid q.dst) = true → Lands s q.core w (.sca q.uid q.dst) → g.sreg q.dst = c.1) ∧ g.lease = if c.2 then some c.1 else none))

/-- R77, R202, R203, R78, R79: EXIT ends the executing threads, TAIL stops those of the group; when no thread of the workgroup is left, it retires, its
channels with operations outstanding being no more than the retirement tracker holds. -/
def Obligations.ThreadsEnd : Prop :=
  (∀ s x h, Comes s h 0x7A x [] → x.ex = [] →
    ∃ t, exec (.exit h false) s = .next t ∧ OnlyCore s t x ∧ Regs t x [] false ∧ At t x (nextSpot x) x.grp.slots ∧ Others t x []) ∧
  (∀ s x h, Comes s h 0x7A x [] → x.ex ≠ [] → idleSlots x ≠ [] →
    (∀ k ∈ idleSlots x, ∃ th, SMap.get? x.wg.threads k = some th ∧ th.stat ≠ .atTail) →
    ∃ t w, exec (.exit h false) s = .next t ∧ t.wg? x.c = some w ∧ t.mem = s.mem ∧ At t x (nextSpot x) (idleSlots x) ∧ w.retired = x.wg.retired ∧
      (∀ k ∈ exSlots x, SMap.get? w.threads k = none ∧ SMap.get? w.spawn k = none) ∧
      ∀ p ∈ w.pend, p ∈ x.wg.pend ∧ ∀ k ∈ exSlots x, ∀ r, p.2 ≠ .vec k r ∧ p.2 ≠ .pred k r) ∧
  (∀ s x h, Comes s h 0x7A x [] → x.ex ≠ [] → x.wg.retired = false → (s.openChannels x.wg).length ≤ 14 →
    (∀ p ∈ x.wg.threads, p.1 ∈ exSlots x ∨ (p.2.stat = .atTail ∧ SMap.get? x.wg.spawn p.1 = none)) →
    ∃ t w, exec (.exit h false) s = .next t ∧ t.wg? x.c = some w ∧ w.retired = true ∧ w.threads = [] ∧ w.spawn = [] ∧ ∀ j, w.group? j = none) ∧
  (∀ s x h, Comes s h 0x7B x [] → (∀ k ∈ x.grp.slots, mrRec (slotMr x k) = none ∧ SMap.get? x.wg.spawn k = none) →
    (∃ k ∈ x.grp.slots, ∃ th, SMap.get? x.wg.threads k = some th ∧ th.stat ≠ .atTail) →
    (∀ j th, SMap.get? x.wg.threads j = some th → j ∉ x.grp.slots → th.stat ≠ .atTail →
      ∃ t w, exec (.tail h false) s = .next t ∧ t.wg? x.c = some w ∧ t.mem = s.mem ∧ w.retired = x.wg.retired ∧
        (∃ g, w.group? x.g = some g ∧ g.wait = some .tail ∧ g.slots = x.grp.slots ∧ g.wix = x.grp.wix) ∧
        ∀ k ∈ x.grp.slots, (SMap.get? w.threads k).map (·.stat) = (SMap.get? x.wg.threads k).map fun _ => .atTail) ∧
    (x.wg.retired = false → (s.openChannels x.wg).length ≤ 14 → Rising x.wg.threads →
      (∀ p ∈ x.wg.threads, p.1 ∈ x.grp.slots ∨ (p.2.stat = .atTail ∧ SMap.get? x.wg.spawn p.1 = none)) →
      ∃ t w, exec (.tail h false) s = .next t ∧ t.wg? x.c = some w ∧ w.retired = true ∧ w.threads = [] ∧ w.spawn = [] ∧ ∀ j, w.group? j = none))

/-- R194 to R197: the barrier words of the workgroup and of the stages: an arrival that fills the phase completes it and passes; after one that does not, the group is counted and
waits; a group whose threads have been counted passes when their phase has completed; `.arv` arrives and goes on; `.wait` passes and clears the bits.
That a phase needs a live thread is the model's choice (log entry 34). -/
def Obligations.WorkgroupBarriersComplete : Prop :=
  (∀ s x h sf, Comes s h 0x72 x [] → MayArrive x (barrier x sf) → Released x → Rising x.wg.threads →
    (∀ p ∈ x.wg.threads, p.2.stat ≠ .atTail → (sf = true → p.2.stage = x.grp.stage) →
      p.1 ∈ x.grp.slots ∨ SMap.get? p.2.arr (barrier x sf) = some (x.wg.phase (barrier x sf))) →
    (∃ p ∈ x.wg.threads, p.2.stat ≠ .atTail ∧ (sf = true → p.2.stage = x.grp.stage)) → x.grp.stage < 4 →
    ∃ t w, exec (.bar h false sf) s = .next t ∧ Passed s t x (barrier x sf) ∧ t.wg? x.c = some w ∧
      w.phase (barrier x sf) = x.wg.phase (barrier x sf) + 1) ∧
  (∀ s x h sf, Comes s h 0x72 x [] → MayArrive x (barrier x sf) → Released x → (∀ k ∈ x.grp.slots, (SMap.get? x.wg.threads k).isSome) →
    (∃ p ∈ x.wg.threads, p.1 ∉ x.grp.slots ∧ p.2.stat ≠ .atTail ∧ (sf = true → p.2.stage = x.grp.stage) ∧
      SMap.get? p.2.arr (barrier x sf) ≠ some (x.wg.phase (barrier x sf))) → x.grp.stage < 4 →
    ∃ t, exec (.bar h false sf) s = .next t ∧ Counted s t x (barrier x sf)) ∧
  (∀ s x h sf, Comes s h 0x72 x [] → MayPass x (barrier x sf) → (∀ k ∈ x.grp.slots, k ∈ x.grp.arrived) → x.grp.slots.length ≤ x.grp.arrived.length →
    ∃ t, exec (.bar h false sf) s = .next t ∧ Passed s t x (barrier x sf)) ∧
  (∀ s x h sf, Comes s h 0x73 x [] → MayArrive x (barrier x sf) → Released x →
    ∃ t, exec (.barArv h false sf) s = .next t ∧ Arrived t x (barrier x sf) ∧ At t x (nextSpot x) x.grp.slots ∧ t.mem = s.mem) ∧
  (∀ s x h sf, Comes s h 0x74 x [] → MayPass x (barrier x sf) → ∃ t, exec (.barWait h false sf) s = .next t ∧ Passed s t x (barrier x sf))

/-- R194 to R198, R203: the barrier words of the gang and of the launch, whose completion comes from the Plaza: a group that arrives is counted and waits for it; having passed one, a core reads none of its L1
lines (R270). The core reports ILLEGAL_CONVERGENCE 4096 ck after the last issue of a workgroup whose threads all wait at TAIL or are held, of both some. -/
def Obligations.PlazaBarriersComplete : Prop :=
  ((∀ s x h lx, Comes s h 0x75 x [] → MayArrive x (plaza lx) → Released x → (∀ k ∈ x.grp.slots, (SMap.get? x.wg.threads k).isSome) →
     (if lx then s.gangPhaseOn x.wg.launch = false else s.launchPhaseOn x.wg.launch = false) →
     ∃ t, exec (.barg h false lx) s = .next t ∧ Counted s t x (plaza lx)) ∧
   (∀ s x h lx, Comes s h 0x75 x [] → MayPass x (plaza lx) → (∀ k ∈ x.grp.slots, k ∈ x.grp.arrived) → x.grp.slots.length ≤ x.grp.arrived.length →
     ∃ t, exec (.barg h false lx) s = .next t ∧ Passed s t x (plaza lx) ∧ (t.core x.c).l1 = []) ∧
   (∀ s x h lx, Comes s h 0x76 x [] → MayArrive x (plaza lx) → Released x →
     (if lx then s.gangPhaseOn x.wg.launch = false else s.launchPhaseOn x.wg.launch = false) →
     ∃ t, exec (.bargArv h false lx) s = .next t ∧ Arrived t x (plaza lx) ∧ At t x (nextSpot x) x.grp.slots ∧ t.mem = s.mem) ∧
   (∀ s x h lx, Comes s h 0x77 x [] → MayPass x (plaza lx) →
     ∃ t, exec (.bargWait h false lx) s = .next t ∧ Passed s t x (plaza lx) ∧ (t.core x.c).l1 = []) ∧
   (∀ s c w l lx, s.wg? c = some w → s.launchOf c = some l →
     ∃ t v, exec (.plazaBarrierComplete c lx) s = .next t ∧ t.wg? c = some v ∧ v.phase (plaza lx) = l.plazaPhase (if lx then 64 else w.gang) ∧
       (∀ b, b ≠ plaza lx → v.phase b = w.phase b) ∧ v.threads = w.threads ∧ v.vregs = w.vregs ∧ t.mem = s.mem)) ∧
  (∀ s c w, s.wg? c = some w → w.halt = none → w.retired = false → (∀ p ∈ w.threads, p.2.stat = .atTail ∨ p.2.stat = .held) →
     (∃ p ∈ w.threads, p.2.stat = .held) → (∃ p ∈ w.threads, p.2.stat = .atTail) →
     exec (.tailDeadlockTimeout c) s = .next ((s.advanceTo c (w.lastIssue + 4096)).raise c ⟨cIllegalConvergence, 2, 0, 0, 0⟩))

/-- R219 to R233: a load, store, atomic or reduction puts its access in flight: one lane for each executing lane, or one for the group, with its
address, its place and its data; its results are pending, and with an acquire the group is held. Nothing else changes. With no lane it only goes on. -/
def Obligations.AccessesIssue : Prop :=
  ∀ i r s x ps, memRow i = some r → r.chan = none → MemComes s r.h r.op x (r.places x) → r.Legal x → r.Places s x ps →
    (r.order = .rel ∨ r.order = .ar → Released x) →
    if memLanes x r.m = [] then ∃ t, exec i s = .next t ∧ OnlyMoved s t x
    else ∃ t w g, exec i s = .next t ∧ OnlyCore s t x ∧ Regs t x [] (r.back ≠ 0) ∧ At t x (nextSpot x) x.grp.slots ∧ t.wg? x.c = some w ∧
      w.ops = x.wg.ops ++ [r.access s x ps] ∧ w.pend = x.wg.pend ++ (dataLocs x r.m r.back).map (fun l => (s.nextId, l)) ∧
      t.group? x.c x.g = some g ∧ g.holdOp = if r.order = .acq ∨ r.order = .ar then some s.nextId else none

/-- R236, R237: a channelled store, atomic or reduction whose operations all join their sessions goes on with them in the channel engine. -/
def Obligations.ChannelledAccessesJoin : Prop :=
  ∀ i r s x ps k, memRow i = some r → r.chan = some k → MemComes s r.h r.op x (r.places x) → r.Legal x → r.Places s x ps → r.Carried s x k.toNat ps →
    x.grp.part = none → x.wg.op? s.nextId = none → memLanes x r.m ≠ [] → s.overLimit x.c (memLanes x r.m).length = false →
    ((r.channelled s x k.toNat ps).1.joinAll x.c (r.channelled s x k.toNat ps).2).2 = (memLanes x r.m).length → trapped 0x1F x.r.tmask = false →
    ∃ t, exec i s = .next t ∧ At t x (nextSpot x) x.grp.slots ∧
      (t.core x.c).chanOps = (((r.channelled s x k.toNat ps).1.joinAll x.c (r.channelled s x k.toNat ps).2).1.core x.c).chanOps

/-- R234, R235, R247, R268 to R270: WOWN, FENCE and MWAIT. A WOWN puts its access in flight; a FENCE goes on when what it orders is complete, and its acquire
part drops the L1; an MWAIT whose condition a value of the monitored place meets takes that value and goes on, else it places its monitor and waits, until
MWAIT_RETEST finds a value held since that meets it.
What a FENCE waits for besides is the model's choice (log entry 37), and so is that an acquire at .wg drops every line where a .wg copy has written its stamp (log entry 21). -/
def Obligations.SynchronisationWordsComplete : Prop :=
  ((∀ s x h rank m ps, MemComes s h 0xAA x (baseLocs x (.peer rank) m ++ dataLocs x m 1) → baseOk x (.peer rank) m = true → dataOk x m 1 = true →
     (memLanes x m).map (fun l => wownPlace s x m (memRank x (.peer rank)) l.2) = ps.map .ok → Released x →
     if memLanes x m = [] then ∃ t, exec (.wown h rank m) s = .next t ∧ OnlyMoved s t x
     else ∃ t w, exec (.wown h rank m) s = .next t ∧ OnlyMoved s t x ∧ t.wg? x.c = some w ∧ w.ops = x.wg.ops ++ [wownAccess s x rank m ps] ∧
       w.pend = x.wg.pend) ∧
   (∀ s x h scope order, MemComes s h 0xA0 x [] → (order = .rel ∨ order = .ar → Released x) → (order = .acq ∨ order = .ar → readsOpen x = false) →
     ∃ t, exec (.fence h scope order) s = .next t ∧ Regs t x [] false ∧ At t x (nextSpot x) x.grp.slots ∧ t.mem = s.mem ∧
       (t.core x.c).l1 =
         if x.ex ≠ [] ∧ (order = .acq ∨ order = .ar) ∧ (scope ∈ [Scope.gang, .die, .dev, .sys] ∨ x.wg.stamped = true) then [] else (s.core x.c).l1) ∧
   (∀ s x h (b64 eq : Bool) m scope order p s' vs seen v,
     MemComes s h (if b64 then 0xA2 else 0xA1) x (baseLocs x .generic m ++ dataLocs x m (if b64 then 2 else 1)) → baseOk x .generic m = true →
     m.dk = true → m.bk = 1 → scaOk m.data (if b64 then 2 else 1) = true → x.ex ≠ [] → x.grp.monitor = none →
     mwaitPlace s x (if b64 then 8 else 4) (memEa x .generic m (if b64 then 8 else 4) 0) = .ok p → mwaitBehind x p (if b64 then 8 else 4) = false →
     s.monitorVals x.c p (if b64 then 8 else 4) none = (s', .vals vs seen) → ScalarsQuiet x m.data.toNat (if b64 then 2 else 1) →
     vs.find? (fun v => (v == memData x m 0 (if b64 then 2 else 1) 0) == eq) = some v →
     ∃ t, exec (if b64 then .mwaitB64 h eq m scope order else .mwait h eq m scope order) s = .next t ∧ At t x (nextSpot x) x.grp.slots ∧
       ScalarsAre t x m.data.toNat ((List.range (if b64 then 2 else 1)).map fun i => BitVec.ofNat 32 (v / 2 ^ (32 * i))))) ∧
  ((∀ s x h (b64 eq : Bool) m scope order p s' vs seen,
     MemComes s h (if b64 then 0xA2 else 0xA1) x (baseLocs x .generic m ++ dataLocs x m (if b64 then 2 else 1)) → baseOk x .generic m = true →
     m.dk = true → m.bk = 1 → scaOk m.data (if b64 then 2 else 1) = true → x.ex ≠ [] → x.grp.monitor = none →
     mwaitPlace s x (if b64 then 8 else 4) (memEa x .generic m (if b64 then 8 else 4) 0) = .ok p → mwaitBehind x p (if b64 then 8 else 4) = false →
     s.monitorVals x.c p (if b64 then 8 else 4) none = (s', .vals vs seen) →
     vs.find? (fun v => (v == memData x m 0 (if b64 then 2 else 1) 0) == eq) = none →
     ∃ t g mon, exec (if b64 then .mwaitB64 h eq m scope order else .mwait h eq m scope order) s = .next t ∧ t.group? x.c x.g = some g ∧
       g.monitor = some mon ∧ g.wait = some .mwait ∧ g.wix = x.grp.wix ∧ g.sregs = x.grp.sregs ∧ mon.addr = memEa x .generic m mon.bytes 0 ∧
       mon.cmp = BitVec.ofNat 64 (memData x m 0 (if b64 then 2 else 1) 0) ∧ mon.dst = m.data.toNat ∧ mon.seen = seen ∧ mon.eq = eq) ∧
   (∀ s c g y m w l, s.wg? c = some w → w.group? g = some y → y.monitor = some m → s.launchOf c = some l → m.fault = false → w.saving = false →
     w.halt = none → w.mustReplay = false → (∀ i, i < m.bytes / 4 → Lands s c w (.sca y.uid (m.dst + i))) → ∃ t, exec (.mwaitRetest c g) s = .next t ∧
       ∀ p s' vs seen v x, x.c = c → x.wg = w → x.grp = y → x.l = l → mwaitPlace s x m.bytes m.addr = .ok p →
         s.monitorVals c p m.bytes (some m.seen) = (s', .vals vs seen) → vs.find? (fun v => (v == m.cmp.toNat) == m.eq) = some v →
         ∃ z, t.group? c g = some z ∧ z.monitor = none ∧ z.wait = none ∧ (z.pc, z.wix) = ((y.skip).pc, (y.skip).wix) ∧
           ∀ r, z.sreg r = if m.dst ≤ r ∧ r < m.dst + m.bytes / 4 then BitVec.ofNat 32 (v / 2 ^ (32 * (r - m.dst))) else y.sreg r))

/-- R238, R239, R241, R242, R256 to R259: CHAIN, CHAIN.all, DRAIN, CHSTAT and CHRESET; HTEST, HWAIT, HCANCEL and HMOV. Learning that an operation is done
joins it: the L1 lines it wrote are read no more (R275).
The model's choices: that a join drops every line (log entry 21); the status of a DRAIN of operations lost before it (log entry 87); the count that CHSTAT gives (log entry 45);
and when a cancel comes too late for a copy that stamps (log entry 24). -/
def Obligations.ChannelAndHandleWordsComplete : Prop :=
  ((∀ s x h (ka kb : BitVec 4) (all : Bool), MemComes s h (if all then 0xA4 else 0xA3) x [] →
     ∃ t w, exec (if all then .chainAll h ka else .chain h ka kb) s = .next t ∧ OnlyMoved s t x ∧ t.wg? x.c = some w ∧
       (x.ex = [] → w.chains = x.wg.chains) ∧
       (x.ex ≠ [] → ∃ c, w.chains = s.pruneChains { x.wg with chains := x.wg.chains ++ [c] } ∧ c.later = ka.toNat ∧
         (∀ j, j < 17 → c.mask.getLsbD j = if all then decide (j ≠ ka.toNat) else decide (j = kb.toNat)) ∧
         (∀ n, n ∈ c.ops ↔ ∃ p ∈ s.cores, ∃ o ∈ p.2.chanOps, o.id = n ∧ o.launch = x.wg.launch ∧ o.wgno = x.wg.wgno ∧ o.chan < 16 ∧ c.mask.getLsbD o.chan = true) ∧
         c.mems = if all then x.wg.anonymous else [])) ∧
   (∀ s x h hd k, MemComes s h 0xA5 x [] → handleFree x hd = true →
     if x.ex = [] then ∃ t, exec (.drain h hd k) s = .next t ∧ OnlyMoved s t x
     else if s.chanLive x.wg [k.toNat] = [] then
       ∃ t, exec (.drain h hd k) s = .next t ∧ OnlyCore s t x ∧ At t x (nextSpot x) x.grp.slots ∧ VecRegs t x [] ∧
         GroupRegs t x (handlesWith x (handleNo hd) (some ⟨.drain, 0, true, 0⟩)) false
     else ∃ t, exec (.drain h hd k) s = .next t ∧ Started s t x hd .drain (.drainChan k.toNat ((s.chanLive x.wg [k.toNat]).map (·.id)))
       (if k.toNat ∈ x.wg.lost then some cChannelSevered else none)) ∧
   (∀ s x h d k n, MemComes s h 0xA6 x (if x.ex.isEmpty then [] else [.sca x.grp.uid d.toNat]) → scaOk d 1 = true → ScalarsQuiet x d.toNat 1 →
     if x.ex = [] then ∃ t, exec (.chstat h d k n) s = .next t ∧ OnlyMoved s t x
     else ∃ t, exec (.chstat h d k n) s = .next t ∧ OnlyCore s t x ∧ VecRegs t x [] ∧ At t x (nextSpot x) x.grp.slots ∧
       ScalarsAre t x d.toNat [s.chstat x.c x.wg k.toNat n.toNat]) ∧
   (∀ s x h k, MemComes s h 0xA7 x [] →
     ∃ t w, exec (.chreset h k) s = .next t ∧ OnlyMoved s t x ∧ t.wg? x.c = some w ∧
       ∀ j n, w.session j n = if x.ex ≠ [] ∧ j = k.toNat ∧ (x.wg.session j n).state = .severed then
         { Session.closed with epoch := (x.wg.session j n).epoch } else x.wg.session j n)) ∧
  ((∀ s x h pd hs y, MemComes s h 0xB8 x (x.ex.map fun l => .pred l.2 pd.toNat) → pd.toNat < 8 → isHandle hs = true →
     SMap.get? x.grp.handles (handleNo hs) = some y → Quiet x (x.ex.map fun l => (.pred l.2 pd.toNat, 0)) →
     ∃ t, exec (.htest h pd hs) s = .next t ∧ At t x (nextSpot x) x.grp.slots ∧ t.mem = s.mem ∧
       Regs t x (x.ex.map fun l => (.pred l.2 pd.toNat, if y.done then 1 else 0)) (!x.ex.isEmpty) ∧
       (t.core x.c).l1 = if x.ex ≠ [] ∧ y.done = true then [] else (s.core x.c).l1) ∧
   (∀ s x h all d m lit, Issues s h 0xB9 lit x → x.wg.log.length < 64 → scaOk d 1 = true → plainSrcOk x m = true →
     Checked x (headLocs x ++ srcLocs x .i32 m ++ if x.ex.isEmpty then [] else [.sca x.grp.uid d.toNat]) → ScalarsQuiet x d.toNat 1 → x.ex ≠ [] →
     (let k := (srcVal s x .i32 0 m).toNat % 2 ^ 16
      let done := hwaitMask x.grp k
      (k = 0 ∨ (if all then maskOf done = k else done ≠ [])) →
      ∃ t, exec (.hwait h all d m lit) s = .next t ∧ VecRegs t x [] ∧ At t x (nextSpot x) x.grp.slots ∧ t.mem = s.mem ∧
        ScalarsAre t x d.toNat [BitVec.ofNat 32 (maskOf done)])) ∧
   (∀ s x h hs y, MemComes s h 0xBA x [] → Rising s.cores → isHandle hs = true → SMap.get? x.grp.handles (handleNo hs) = some y →
     ∃ t, exec (.hcancel h hs) s = .next t ∧ At t x (nextSpot x) x.grp.slots ∧ t.mem = s.mem ∧
       GroupRegs t x (SMap.get? x.grp.handles) false ∧
       (x.ex = [] ∨ y.done = true → OnlyMoved s t x) ∧
       ∀ c e, x.ex ≠ [] → pendingOp s x hs = some (c, e) → (∃ d, e.kind = .snap d) ∨ (∃ d, e.kind = .mdrain d) ∨
         ∃ e', t.eng? e.id = some (c, e') ∧ (∀ n ids, e.kind = .subscribe n ∨ e.kind = .drainChan n ids → e' = { e with cancelled := true }) ∧
           (∀ d f, e.kind = .copy d f ∨ (∃ k, e.kind = .gather k) →
             e' = if s.cancelLate c e then e else { e with cancelled := true, refused := some (e.refused.getD 0x70) })) ∧
   (∀ s x h hd hs sg y v, MemComes s h 0xBB x (if x.ex.isEmpty then [] else [.sca x.grp.uid sg.toNat]) → isHandle hd = true → isHandle hs = true →
     SMap.get? x.grp.handles (handleNo hs) = some y → x.ex ≠ [] → x.wg.group? (x.read (.sca x.grp.uid sg.toNat)).toNat = some v →
     SMap.get? v.handles (handleNo hd) = none →
     ∃ t u, exec (.hmov h hd hs sg) s = .next t ∧ At t x (nextSpot x) x.grp.slots ∧ t.mem = s.mem ∧
       t.group? x.c (x.read (.sca x.grp.uid sg.toNat)).toNat = some u ∧
       ((x.read (.sca x.grp.uid sg.toNat)).toNat = x.g →
         GroupRegs t x (fun n => if n = handleNo hd then some y else if n = handleNo hs then none else SMap.get? x.grp.handles n) false) ∧
       ((x.read (.sca x.grp.uid sg.toNat)).toNat ≠ x.g → GroupRegs t x (handlesWith x (handleNo hs) none) false ∧ u = { v with handles := u.handles } ∧
         ∀ n, SMap.get? u.handles n = if n = handleNo hd then some y else SMap.get? v.handles n)))

/-- R243, R245, R250, R253, R255: COPY, COPY.t, HGATHER, SUBSCRIBE and UNSUB. A channelled copy goes on when all its operations have joined (R236).
That UNSUB counts until UNSUB_COMPLETE is a reading (log entry 50). -/
def Obligations.CopyWordsStart : Prop :=
  (∀ s x h hd base k (tf : Option Size) e, MemComes s h (if tf.isSome then 0xB1 else 0xB0) x (if x.ex.isEmpty then [] else [.sca x.grp.uid base.toNat]) →
    handleFree x hd = true → scaOk base 1 = true → x.ex ≠ [] → x.grp.part = none → quad x base 0 % 32 = 0 → quad x base 0 + 96 ≤ x.r.scratch →
    x.wg.writesOpen x.grp.slots (quad x base 0) 96 = false →
    (let c := s.copyKind x.c x.wg (quad x base 0) (match tf with | some z => sizeBytes z | none => 1) tf.isSome (some k.toNat) .none
     newEng s x (some (handleNo hd)) c.1 c.2 = e) → s.copyFits x.c e = true → ((s.draw.addEng x.c e).joinCopy x.c e).2 = true →
    ∃ t g, exec (match tf with | some z => .copyT h hd base (some k) .none z | none => .copy h hd base (some k) .none) s = .next t ∧
      At t x (nextSpot x) x.grp.slots ∧ t.group? x.c x.g = some g ∧
      SMap.get? g.handles (handleNo hd) = some ⟨if tf.isSome then .copyT else .copy, s.nextId, false, 0⟩) ∧
  (∀ s x h hd base scope (tf : Option Size), MemComes s h (if tf.isSome then 0xB1 else 0xB0) x (if x.ex.isEmpty then [] else [.sca x.grp.uid base.toNat]) →
    handleFree x hd = true → scaOk base 1 = true → x.ex ≠ [] → x.grp.part = none → quad x base 0 % 32 = 0 → quad x base 0 + 96 ≤ x.r.scratch →
    x.wg.writesOpen x.grp.slots (quad x base 0) 96 = false →
    ∃ t, exec (match tf with | some z => .copyT h hd base none scope z | none => .copy h hd base none scope) s = .next t ∧
      Started s t x hd (if tf.isSome then .copyT else .copy)
        (s.copyKind x.c x.wg (quad x base 0) (match tf with | some z => sizeBytes z | none => 1) tf.isSome none scope).1
        (s.copyKind x.c x.wg (quad x base 0) (match tf with | some z => sizeBytes z | none => 1) tf.isSome none scope).2) ∧
  (∀ s x h hd base z, MemComes s h 0xB2 x (if x.ex.isEmpty then [] else [.sca x.grp.uid base.toNat]) → handleFree x hd = true → scaOk base 1 = true →
    x.ex ≠ [] → quad x base 0 % 32 = 0 → quad x base 0 + 32 ≤ x.r.scratch → x.wg.writesOpen x.grp.slots (quad x base 0) 32 = false →
    s.isPoisoned (scratchKey x.c (quad x base 0)) 32 = false →
    (gatherDescOf (s.scratchBytes x.c (quad x base 0) 32) (sizeBytes z)).ok = true →
    ∃ t, exec (.hgather h hd base z) s = .next t ∧
      Started s t x hd .hgather (.gather (gatherDescOf (s.scratchBytes x.c (quad x base 0) 32) (sizeBytes z))) none) ∧
  (∀ s x h hd q n, MemComes s h 0xA8 x (quadLocs x q) → handleFree x hd = true → scaOk q 4 = true → x.ex ≠ [] →
    subscribeOk x n.toNat (BitVec.ofNat 64 (quad x q 0 + 2 ^ 32 * quad x q 1)) (quad x q 2) (quad x q 3) = true →
    ∃ t w u, exec (.subscribe h hd q n) s = .next t ∧ Started s t x hd .subscribe (.subscribe n.toNat) none ∧ t.wg? x.c = some w ∧
      SMap.get? w.subs n.toNat = some u ∧ u.va = quad x q 0 + 2 ^ 32 * quad x q 1 ∧ u.off = quad x q 2 ∧ u.len = quad x q 3 ∧ u.filled = false ∧
      u.ending = false ∧ ∀ j, j ≠ n.toNat → SMap.get? w.subs j = SMap.get? x.wg.subs j) ∧
  (∀ s x h n u, MemComes s h 0xA9 x [] → x.ex ≠ [] → SMap.get? x.wg.subs n.toNat = some u → u.ending = false →
    ∃ t w, exec (.unsub h n) s = .next t ∧ OnlyCore s t x ∧ Regs t x [] true ∧ At t x (nextSpot x) x.grp.slots ∧ t.wg? x.c = some w ∧
      ∀ j, SMap.get? w.subs j = if j = n.toNat then some { u with ending := true, ct := x.h.ct.toNat, uid := x.grp.uid } else SMap.get? x.wg.subs j)

/-- R248, R249: CBSET makes a circular buffer; CBWAIT reserves entries and gives their offset, or, with too few of them or behind another group of its side, joins the buffer's
waiting groups and waits; CBREL releases entries reserved. -/
def Obligations.BufferWordsComplete : Prop :=
  (∀ s x h q (n : BitVec 3), MemComes s h 0xB3 x (quadLocs x q) → scaOk q 4 = true → x.ex ≠ [] →
    quad x q 0 % 16 = 0 → quad x q 1 % 16 = 0 → 16 ≤ quad x q 1 → quad x q 1 ≤ 65536 → 1 ≤ quad x q 2 → quad x q 2 ≤ 4096 → quad x q 3 = 0 →
    quad x q 0 + quad x q 1 * quad x q 2 ≤ x.r.scratch →
    (∀ p ∈ x.wg.subs, spanOverlap (quad x q 0) (quad x q 1 * quad x q 2) p.2.off p.2.len = false) →
    (∀ b, SMap.get? x.wg.cbs n.toNat = some b → b.waiters = []) → s.commitPending x.wg n.toNat = false →
    ∃ t w, exec (.cbset h q n) s = .next t ∧ OnlyMoved s t x ∧ t.wg? x.c = some w ∧
      ∀ j, SMap.get? w.cbs j = if j = n.toNat then some ⟨quad x q 0, quad x q 1, quad x q 2, 0, 0, 0, 0, 0, 0, 0, 0, []⟩ else SMap.get? x.wg.cbs j) ∧
  (∀ s x h (put : Bool) d cnt (n : BitVec 3) lit b k, Issues s h (if put then 0xB4 else 0xB5) lit x → x.wg.log.length < 64 → scaOk d 1 = true →
    plainSrcOk x cnt = true → Checked x (headLocs x ++ srcLocs x .i32 cnt ++ if x.ex.isEmpty then [] else [.sca x.grp.uid d.toNat]) →
    ScalarsQuiet x d.toNat 1 → x.ex ≠ [] → SMap.get? x.wg.cbs n.toNat = some b → (srcVal s x .i32 0 cnt).toNat % 2 ^ 32 = k → 1 ≤ k → k ≤ b.count →
    b.waiters = [] → (if put then (b.putRes - b.getDone).toNat + k ≤ b.count else k ≤ (b.putDone - b.getRes).toNat) →
    ∃ t w b', exec (if put then .cbwaitP h d cnt n lit else .cbwaitC h d cnt n lit) s = .next t ∧ VecRegs t x [] ∧ At t x (nextSpot x) x.grp.slots ∧ t.mem = s.mem ∧
      ScalarsAre t x d.toNat [BitVec.ofNat 32 (b.off + (if put then b.pPutRes else b.pGetRes) * b.esize)] ∧ t.wg? x.c = some w ∧
      (∀ j, SMap.get? w.cbs j = if j = n.toNat then some b' else SMap.get? x.wg.cbs j) ∧
      b' = if put then { b with putRes := b.putRes + BitVec.ofNat 32 k, pPutRes := (b.pPutRes + k) % b.count }
        else { b with getRes := b.getRes + BitVec.ofNat 32 k, pGetRes := (b.pGetRes + k) % b.count }) ∧
  (∀ s x h (put : Bool) d cnt (n : BitVec 3) lit b k, Issues s h (if put then 0xB4 else 0xB5) lit x → x.wg.log.length < 64 → scaOk d 1 = true →
    plainSrcOk x cnt = true → Checked x (headLocs x ++ srcLocs x .i32 cnt ++ if x.ex.isEmpty then [] else [.sca x.grp.uid d.toNat]) → x.ex ≠ [] →
    SMap.get? x.wg.cbs n.toNat = some b → (srcVal s x .i32 0 cnt).toNat % 2 ^ 32 = k → 1 ≤ k → k ≤ b.count → (∀ p ∈ b.waiters, p.1 ≠ x.grp.uid) →
    ((∃ p ∈ b.waiters, p.2 = put) ∨ (if put then b.count < (b.putRes - b.getDone).toNat + k else (b.putDone - b.getRes).toNat < k)) →
    ∃ t w g, exec (if put then .cbwaitP h d cnt n lit else .cbwaitC h d cnt n lit) s = .next t ∧ OnlyCore s t x ∧ Regs t x [] false ∧ t.wg? x.c = some w ∧
      w.group? x.g = some g ∧ g.wait = some (if put then .cbP else .cbC) ∧ (g.pc, g.wix) = (x.grp.pc, x.grp.wix) ∧ g.slots = x.grp.slots ∧
      ∀ j, SMap.get? w.cbs j = if j = n.toNat then some { b with waiters := b.waiters ++ [(x.grp.uid, put)] } else SMap.get? x.wg.cbs j) ∧
  (∀ s x h (put : Bool) cnt (n : BitVec 3) lit b k, Issues s h (if put then 0xB6 else 0xB7) lit x → x.wg.log.length < 64 → plainSrcOk x cnt = true →
    Checked x (headLocs x ++ srcLocs x .i32 cnt) → x.ex ≠ [] → SMap.get? x.wg.cbs n.toNat = some b → (srcVal s x .i32 0 cnt).toNat % 2 ^ 32 = k →
    1 ≤ k → k ≤ b.count → (if put then k ≤ (b.putRes - b.putDone).toNat else k ≤ (b.getRes - b.getDone).toNat) → Released x →
    ∃ t w b', exec (if put then .cbrelP h cnt n lit else .cbrelC h cnt n lit) s = .next t ∧ Regs t x [] false ∧ At t x (nextSpot x) x.grp.slots ∧
      t.mem = s.mem ∧ t.wg? x.c = some w ∧ (∀ j, SMap.get? w.cbs j = if j = n.toNat then some b' else SMap.get? x.wg.cbs j) ∧
      b' = if put then { b with putDone := b.putDone + BitVec.ofNat 32 k, pPutDone := (b.pPutDone + k) % b.count }
        else { b with getDone := b.getDone + BitVec.ofNat 32 k, pGetDone := (b.pGetDone + k) % b.count })

/-- R315 to R339, R343, R344: a matrix word whose group holds every lane and whose checks pass joins the engine's queue with what it takes from its issue; its
counter goes up and the registers that the engine will write are pending; nothing else changes. A sparse pass joins with its metadata, and its group waits at
the word until the engine has judged it. A drain starts an engine operation with the shape record it names, and joins with it.
That a sparse word is judged before the comparison of an open pass and before its permit is a reading (log entry 63). -/
def Obligations.MatrixWordsJoin : Prop :=
  (∀ i s x r, matRow s x (x.wg.mtx.issueRecs x.r) i = some r → MatComes s r.h r.op x (r.reads ++ r.writes) → r.legal → r.passes →
     ∃ t, exec i s = .next t ∧ Queued s t x (newWord s x i r.issue none) r.writes ∧ Regs t x [] true ∧ At t x (nextSpot x) x.grp.slots) ∧
  ((∀ s x h (z : Bool) half fa fb row col rows sx,
     MatComes s h (if z then 0xD1 else 0xD0) x [.sca x.grp.uid sx.toNat] → x.grp.mspmaId = none → sx.toNat < 64 →
     passOk x.r (x.wg.mtx.issueRecs x.r) half fa fb row.toNat (rows.toNat + 1) col = true →
     (let n := winLogical half (slotMb (x.r.slot fb.toNat)) * (4 * (x.wg.mtx.issueRecs x.r).kbB half col)
      scaVal x sx + n ≤ x.r.scratch →
      ∃ t g, exec (if z then .mspmaZ h half fa fb row col rows sx else .mspma h half fa fb row col rows sx) s = .next t ∧
        Queued s t x (newWord s x (if z then .mspmaZ h half fa fb row col rows sx else .mspma h half fa fb row col rows sx)
          { sx := scaVal x sx, reads := some (x.wg.rank, scaVal x sx, n) } none) [] ∧
        t.group? x.c x.g = some g ∧ g.mspmaId = some s.nextId ∧ g.wait = some .validate ∧ g.wix = x.grp.wix ∧ g.sregs = x.grp.sregs)) ∧
   (∀ s c w q qs j y h half fa fb row col rows sx off n (z : Bool), s.wg? c = some w → w.mtx.queue = q :: qs → w.mtx.running = none → w.mtx.dead = false →
     s.alive w.launch w.wgno q.before = false → s.coreOn c = true → q.fromQ0 = false → q.nibbles = none → q.reads = some (w.rank, off, n) →
     q.instr = (if z then .mspmaZ h half fa fb row col rows sx else .mspma h half fa fb row col rows sx) →
     s.isPoisoned (scratchKey c off) n = false → w.group? j = some y → y.uid = q.uid →
     ((List.range (2 * n)).all (fun g => nibbleOk (nibbleAt (q.taken (s.scratchBytes c off n)) 0 g)) = true ∨ slotLenient ((s.recOf c).slot fb.toNat) = true) →
     ∃ t g, exec (.matrixWordStart c) s = .next t ∧ t.group? c j = some g ∧ g.mspmaId = none ∧ g.wait = none ∧
       (g.pc, g.wix) = (y.skip.pc, y.skip.wix) ∧ ∀ k, k ≠ 0 → g.ct k = y.ct k + (if k = q.ct then 1 else 0))) ∧
  (∀ s x h (add : Bool) half fa row col rows sx sy d,
     MatComes s h (if add then 0xD3 else 0xD2) x [.sca x.grp.uid sx.toNat] → sx.toNat < 64 → handleFree x sy = true →
     (if add then slotFmt (x.r.slot fa.toNat) ≤ 2 else slotFmt (x.r.slot fa.toNat) ≤ 4) → spans x (scaVal x sx) 64 32 →
     x.wg.writesOpen x.grp.slots (scaVal x sx) 64 = false → s.isPoisoned (scratchKey x.c (scaVal x sx)) 64 = false →
     drainDescOf (s.scratchBytes x.c (scaVal x sx) 64) add (slotFmt (x.r.slot fa.toNat)) = d → d.resv = true →
     d.rs % Int.ofNat (fmtBytes (slotFmt (x.r.slot fa.toNat))) = 0 → d.cs % Int.ofNat (fmtBytes (slotFmt (x.r.slot fa.toNat))) = 0 →
     ∃ t w, exec (if add then .mdrainAdd h half fa row col rows sx sy else .mdrain h half fa row col rows sx sy) s = .next t ∧
       Started s t x sy (if add then .mdrainAdd else .mdrain) (.mdrain d) none ∧ t.wg? x.c = some w ∧
       ∃ q, w.mtx = { x.wg.mtx with queue := x.wg.mtx.queue ++ [q] } ∧ q.drain = some s.nextId ∧ q.uid = x.grp.uid ∧
         q.instr = (if add then .mdrainAdd h half fa row col rows sx sy else .mdrain h half fa row col rows sx sy))

/-- R206 to R208: TRAP takes TRAP with its operand; BRK takes BREAKPOINT where the launch has a valid debug capability, else it only goes on; so does
either with no executing lane.
That a BRK without a capability goes on to the next word is a reading of R208 (log entry 35). -/
def Obligations.TrapsTaken : Prop :=
  (∀ s x h a lit, SysComes s h 0xE0 lit x [(.i32, a)] → sysSrcOk x a = true →
    if x.ex = [] then ∃ t, exec (.trap h a lit) s = .next t ∧ OnlyMoved s t x
    else exec (.trap h a lit) s = .next ((s.advanceTo x.c x.now).raise x.c ⟨0x50, 0, x.g, (srcVal s x .i32 0 a).toNat % 2 ^ 16, x.grp.pc⟩ (laneMask x.ex))) ∧
  (∀ s x h, Comes s h 0xE1 x [] →
    if x.ex ≠ [] ∧ s.dbgOk x.l = true then
      exec (.brk h) s = .next ((s.advanceTo x.c x.now).raise x.c ⟨0x51, 0, x.g, laneMask x.ex % 2 ^ 32, x.grp.pc⟩ (laneMask x.ex))
    else ∃ t, exec (.brk h) s = .next t ∧ OnlyMoved s t x)

/-- R210, R213, R214, R394, R395, R441: ICINV and DCFLUSH start their operation on the lines of a range, all of them where the length is zero; TREC and TREC.v
make a trace record with the tag, the PC and the executing lanes; SNAP moves the core to the next generation and asks the hub for a cut, or with four
generations completes at once with BUSY.
Where the trace ring's entries begin, which cores an ICINV's scope names, that a SNAP which waits behind an open window counts as a frozen generation at once, and
which records take a number are the model's choices (log entries 20, 53, 55, 84). -/
def Obligations.CacheTraceAndSnapWords : Prop :=
  (∀ s x h (flush : Bool) scope a b lit, SysComes s h (if flush then 0xE3 else 0xE2) lit x [(.i64, a), (.i32, b)] → sysPairOk x a = true →
     sysSrcOk x b = true →
     if x.ex = [] then ∃ t, exec (if flush then .dcflush h a b lit else .icinv h scope a b lit) s = .next t ∧ OnlyMoved s t x
     else ∃ t o, exec (if flush then .dcflush h a b lit else .icinv h scope a b lit) s = .next t ∧ SysKept s t x ∧ At t x (nextSpot x) x.grp.slots ∧
       (t.core x.c).cacheOps = (s.core x.c).cacheOps ++ [o] ∧ o.id = s.nextId ∧ o.flush = flush ∧ o.ct = x.h.ct.toNat ∧ o.uid = x.grp.uid ∧
       o.asid = s.asidOf x.c ∧ (o.all = true ↔ lo32 (srcVal s x .i32 0 b) = 0) ∧ o.lo = (srcVal s x .i64 0 a).toNat / 128 ∧
       o.hi = ((srcVal s x .i64 0 a).toNat + (lo32 (srcVal s x .i32 0 b)).toNat - 1) / 128 ∧
       (flush = false → o.cores = s.scopeCores x.c scope) ∧
       (flush = true → (∀ l ∈ (t.core x.c).l1, l ∈ (s.core x.c).l1 ∧ o.covers l.asid l.line = false))) ∧
  ((∀ s x h a lit, SysComes s h 0xE4 lit x [(.i32, a)] → sysSrcOk x a = true → x.ex ≠ [] →
     ∃ u, exec (.trec h a lit) s = .next (u.traceRecord x.c 0 (lo32 (srcVal s x .i32 0 a)).toNat x.grp.pc (BitVec.ofNat 64 (laneMask x.ex)) []) ∧
       SysKept s u x ∧ At u x (nextSpot x) x.grp.slots) ∧
   (∀ s x h a b lit, SysComes s h 0xE5 lit x [(.i32, a), (.i32, b)] → srcIsVec a = true → srcOk x .i32 a = true → sysSrcOk x b = true → x.ex ≠ [] →
     ∃ u, exec (.trecV h a b lit) s = .next (u.traceRecord x.c 1 (lo32 (srcVal s x .i32 0 b)).toNat x.grp.pc (BitVec.ofNat 64 (laneMask x.ex))
         (laneEntries fun n => ((x.ex.find? (·.1 == n)).map fun l => (lo32 (srcVal s x .i32 l.2 a)).toNat).getD 0)) ∧
       SysKept s u x ∧ At u x (nextSpot x) x.grp.slots) ∧
   (∀ s x h d, Comes s h 0xE6 x [] → d.sca = true → handleFree x d.f = true → x.ex ≠ [] →
     if (s.tenant (s.tenantOf x.c)).generations < 4 then
       ∃ t, exec (.snap h d) s = .next t ∧ Started s t x d.f .snap (.snap (s.tenantOf x.c)) none ∧ (t.core x.c).ms = (s.core x.c).ms + 1 ∧
         (t.tenant (s.tenantOf x.c)).frozen.length = (s.tenant (s.tenantOf x.c)).frozen.length + 1
     else ∃ t, exec (.snap h d) s = .next t ∧ OnlyCore s t x ∧ At t x (nextSpot x) x.grp.slots ∧ VecRegs t x [] ∧
       GroupRegs t x (handlesWith x (handleNo d.f) (some ⟨.snap, 0, true, 0x71⟩)) false))

/-- R351 to R354: a RESAMPLE that may arrive does: each thread of the group holds its weight, the group N, pZ and the place where the new threads go on,
and it waits. -/
def Obligations.ResampleWordsArrive : Prop :=
  ∀ s x (gf : Bool) pz a b lit, Issues s ⟨0, 0, 7, false⟩ (if gf then 0x7E else 0x7D) lit x →
    Checked x (srcLocs x .i32 a ++ srcLocs x .i32 b) → weightSrcOk x a = true → plainSrcOk x b = true → x.grp.resN = none →
    (∀ k ∈ x.grp.slots, mrRec (slotMr x k) = none) → s.gangArrived x.wg.launch x.wg.gang (!gf) = false → lo32 (srcVal s x .i32 0 b) ≠ 0 →
    x.l.stepping (!gf) = false → Released x →
    ∃ t w g, exec (if gf then .resampleG pz a b lit else .resampleL pz a b lit) s = .next t ∧ t.mem = s.mem ∧ t.wg? x.c = some w ∧
      w.group? x.g = some g ∧ g.resN = some ⟨gf, lo32 (srcVal s x .i32 0 b), pz, (nextSpot x).1, (nextSpot x).2, false⟩ ∧ g.wait = some .resample ∧
      g.slots = x.grp.slots ∧ g.sregs = x.grp.sregs ∧ w.vregs = x.wg.vregs ∧
      ∀ k ∈ x.grp.slots, ∀ th, SMap.get? w.threads k = some th → th.weight = some (lo32 (srcVal s x .i32 k a))

/-- R359: counting the positions one by one gives the offspring that the model computes; the counts sum to N, and a weight of 0 has none. -/
def Obligations.OffspringByPositions : Prop :=
  ∀ n rnd ws, rnd < 2 ^ 32 → 0 < n → 0 < ws.sum → offspring n rnd ws.sum 0 ws = byPositions n rnd ws.sum 0 ws ∧ (byPositions n rnd ws.sum 0 ws).sum = n ∧
    ∀ (k c : Nat), ws[k]? = some 0 → (byPositions n rnd ws.sum 0 ws)[k]? = some c → c = 0

/-- R355 to R364, R371: a RESAMPLE step begins when every thread of the population has arrived with one N that its cores have room for: it holds the sum of the
weights, the random word of the largest %gen, and the offspring of every thread. At its end the first child of each parent that has one stands in the parent's
slot: its thread id is the number of children before it; it has the parent's id as par, its root, copy 0, mr at root and no weight, and it goes on after the
word; the generation of every workgroup is the next; the groups that had arrived are gone, and so is the step. A population that waits for threads held at a
meeting, with nothing issued for 4096 ck, takes ILLEGAL_CONVERGENCE.
What holds a step back, and the order of the ends and the arrivals of a step, are the model's choices (log entries 66, 34). -/
def Obligations.ResampleStepsBeginAndEnd : Prop :=
  (∀ s u l gf gang pop n, s.launch? u = some l → s.population u gf gang = pop → pop ≠ [] → s.popResident u gf gang = true →
     (∀ m ∈ pop, m.th.weight.isSome = true ∧ ∃ a, m.arr = some a ∧ a.gangForm = gf ∧ a.n.toNat = n ∧ a.refused = false) →
     (∀ p ∈ l.step, p.gangForm = gf → gf = true ∧ p.gang ≠ gang) →
     n ≤ (((dedup (pop.map fun (m : Member) => m.core)).filterMap s.wg?).map fun w => (availableSlots l.rcd w).length).sum →
     ∃ st t, exec (.resampleStepBegin u gf gang) s = .next t ∧ t = s.modLaunch u (fun l => { l with step := l.step ++ [st] }) ∧
       st.gangForm = gf ∧ st.gang = gang ∧ st.total = (pop.map fun (m : Member) => (m.th.weight.getD 0).toNat).sum ∧ (st.zero = true ↔ st.total = 0) ∧
       st.rnd = resampleRnd l.rcd.key st.g ∧
       (∀ c ∈ pop.map (fun (m : Member) => m.core), ∀ w, s.wg? c = some w → w.gen.toNat ≤ st.g.toNat) ∧
       st.counts.map (fun p => (p.1, p.2.1)) = pop.map (fun (m : Member) => (m.core, m.slot)) ∧
       st.counts.map (fun p => p.2.2) = offspring n st.rnd.toNat (if st.total = 0 then pop.length else st.total) 0
         (pop.map fun (m : Member) => if st.total = 0 then 1 else (m.th.weight.getD 0).toNat)) ∧
  (∀ s u gf gang l st base, s.launch? u = some l → l.step.find? (fun p => p.gangForm == gf && (!gf || p.gang == gang)) = some st →
     s.popBusy st.counts = false → s.badImage l.rcd st.counts = none → (st.counts.map fun p => (p.1, p.2.1)).Nodup →
     (∀ p ∈ st.counts, ∃ w th a, s.wg? p.1 = some w ∧ w.launch = u ∧ (gf = true → w.gang = gang ∧ base = w.gangNo * l.rcd.gangSize * 2048) ∧
       SMap.get? w.threads p.2.1 = some th ∧ w.arrivalOf p.2.1 = some a) → (gf = false → base = 0) →
     ∃ t, exec (.resampleStepEnd u gf gang) s = .next t ∧ (∀ l', t.launch? u = some l' → st ∉ l'.step) ∧
       (∀ p ∈ st.counts, ∃ w', t.wg? p.1 = some w' ∧ w'.gen = st.g + 1 ∧ ∀ g y, w'.group? g = some y → y.resN = none) ∧
       ∀ pre c k n post w th a, st.counts = pre ++ (c, k, n) :: post → 0 < n → s.wg? c = some w → SMap.get? w.threads k = some th → w.arrivalOf k = some a →
         ∃ w' th' e, t.wg? c = some w' ∧ SMap.get? w'.threads k = some th' ∧ SMap.get? w'.spawn k = some e ∧
           th'.tid = BitVec.ofNat 32 (base + (pre.map (·.2.2)).sum) ∧ th'.par = th.tid ∧ th'.root = th.root ∧ th'.copy = 0 ∧ th'.mr = 0 ∧
           th'.weight = none ∧ th'.stat = .ready ∧ th'.stage = th.stage ∧ th'.lease = th.lease ∧ e.pc = a.pc ∧ e.wix = a.wix ∧ e.held = false ∧
           e.q5 = [BitVec.ofNat 32 st.total, BitVec.ofNat 32 (st.total / 2 ^ 32), st.rnd] ∧
           (∀ q, q < 7 → th'.pred q = if q = a.pz.toNat then st.zero else th.pred q)) ∧
  (∀ s c w, s.wg? c = some w → w.halt = none → w.saving = false → w.retired = false → (∃ p ∈ w.threads, p.2.stat = .held) →
     (∀ p ∈ w.threads, p.2.stat = .atTail ∨ p.2.stat = .held ∨ p.2.weight ≠ none) →
     (∃ g a, g ∈ w.groups.map (·.2) ∧ g.resN = some a) → c ∈ s.coresOf w.launch →
     exec (.resampleStallTimeout c) s = .next ((s.advanceTo c (w.lastIssue + 4096)).raise c ⟨0x04, 2, 0, 0, 0⟩))

/-- R54, R109, R209, R184: a group without its clause that finds it in the loop buffer or the cluster's cache has it, and stands at its place in it; where
it finds it in neither it waits, and the fill of the lines that hold the clause lets it fetch.
That a group inside its clause fetches with no test for a meeting is a reading (log entry 15). -/
def Obligations.ClausesFetched : Prop :=
  (∀ s c g w x h ws, s.wg? c = some w → w.group? g = some x → w.halt = none → w.saving = false → x.fetched = false → x.wait ≠ some .clauseMiss →
    x.wait ≠ some .clauseFault → (x.wix = 0 → w.meetHeld x = []) → vaOk x.hdr = true → isWindow x.hdr.toNat = false → x.hdr.toNat % 8 = 0 →
    (s.loopClause c (s.asidOf c) x.hdr = some (h, ws) ∨ s.loopClause c (s.asidOf c) x.hdr = none ∧ s.icClause c (s.asidOf c) x.hdr = some (h, ws)) →
    clauseOk h ws = true → x.wix ≤ ws.length →
    ∃ t y, exec (.clauseFetch c g) s = .next t ∧ t.group? c g = some y ∧ y.fetched = true ∧ y.header = h ∧ y.words = ws ∧ y.wix = max 1 x.wix ∧
      y.hdr = x.hdr ∧ y.wait = none ∧ y.slots = x.slots ∧ y.sregs = x.sregs ∧ t.mem = s.mem ∧ ∀ d, d ≠ c → t.core d = s.core d) ∧
  (∀ s c g w x, s.wg? c = some w → w.group? g = some x → w.halt = none → w.saving = false → x.fetched = false → x.wait ≠ some .clauseMiss →
    x.wait ≠ some .clauseFault → (x.wix = 0 → w.meetHeld x = []) → vaOk x.hdr = true → isWindow x.hdr.toNat = false → x.hdr.toNat % 8 = 0 →
    s.loopClause c (s.asidOf c) x.hdr = none → s.icClause c (s.asidOf c) x.hdr = none →
    exec (.clauseFetch c g) s = .next (s.setWait c g (some .clauseMiss))) ∧
  (∀ s c g w x u h, s.wg? c = some w → w.group? g = some x → x.wait = some .clauseMiss → w.saving = false → headerOk h = true →
    s.fillLines c (s.asidOf c) (lineOf x.hdr.toNat) (lineOf (x.hdr.toNat + 8 * headerWords h) + 1 - lineOf x.hdr.toNat) = (u, none) →
    u.icWord c (s.asidOf c) x.hdr.toNat = some h →
    ∃ t, exec (.clauseFetchMissFill c g) s = .next t ∧ t = u.setWait c g none ∧ ∃ ws, t.icClause c (s.asidOf c) x.hdr = some (h, ws))

/-- R58 to R62: a group forms from the set that is next, in the lowest free slot, with as many threads as the launch's width; with no free slot the
group that has held its slot longest is parked for what waited too long; a parked group comes back whole.
That parking and formation are one turn each is the model's choice (log entry 17). -/
def Obligations.RoundaboutTurns : Prop :=
  (∀ s c w l slot k, s.wg? c = some w → s.launchOf c = some l → SMap.lowestFree w.groups 64 = some slot → w.nextCand l.rcd (s.core c).ck = some k →
    w.roundaboutOn (s.core c).ck = true → (k.first ≠ none ∨ w.returning = []) →
    ∃ t w' y, exec (.groupFormation c) s = .next t ∧ t.wg? c = some w' ∧ w'.group? slot = some y ∧ y.slots = k.slots.take l.rcd.w ∧ y.stage = k.stage ∧
      y.pc = k.pc ∧ y.wix = k.wix ∧ y.fetched = false ∧ y.flags = 0 ∧ y.handles = [] ∧ (∀ r, y.sreg r = 0) ∧ (∀ n, y.ct n = 0) ∧
      (∀ j, j ≠ slot → w'.group? j = w.group? j) ∧ (∀ p, p ∈ w'.spawn ↔ p ∈ w.spawn ∧ p.1 ∉ k.slots.take l.rcd.w) ∧ w'.vregs = w.vregs ∧ t.mem = s.mem) ∧
  (∀ s c w l slot g k, s.wg? c = some w → s.launchOf c = some l → SMap.lowestFree w.groups 64 = none → w.roundaboutOn (s.core c).ck = true →
    w.starved l.rcd (s.core c).ck = some (.inl k) → w.toPark = some (slot, g) →
    w.group? slot = some g →
    ∃ t w' y p, exec (.groupPark c) s = .next t ∧ t.wg? c = some w' ∧ w'.group? slot = some y ∧ y.slots = k.slots.take l.rcd.w ∧ y.pc = k.pc ∧
      w'.parked = w.parked ++ [p] ∧ p.group.uid = g.uid ∧ p.group.slots = g.slots ∧ p.group.sregs = g.sregs ∧ p.group.handles = g.handles ∧
      p.group.ports = g.ports ∧ p.group.lease = g.lease ∧ w'.flags = w.flags ||| g.flags ∧ w'.vregs = w.vregs ∧ t.mem = s.mem) ∧
  (∀ s c w p ps slot, s.wg? c = some w → SMap.lowestFree w.groups 64 = some slot → w.returning = p :: ps → w.roundaboutOn (s.core c).ck = true →
    (w.cands (s.core c).ck).any (fun k => k.first.isSome) = false →
    ∃ t w' y, exec (.parkedGroupReturn c) s = .next t ∧ t.wg? c = some w' ∧ w'.group? slot = some y ∧ y.uid = p.group.uid ∧ y.slots = p.group.slots ∧
      y.sregs = p.group.sregs ∧ y.handles = p.group.handles ∧ y.ports = p.group.ports ∧ y.lease = p.group.lease ∧ y.pc = p.group.pc ∧ y.wix = p.group.wix ∧
      (s.core c).ck < y.notBefore ∧ (∀ q ∈ w'.parked, q.group.uid ≠ p.group.uid) ∧ (∀ j, j ≠ slot → w'.group? j = w.group? j) ∧ w'.vregs = w.vregs ∧
      t.mem = s.mem)

/-- R223, R225, R226, R230, R232, R269: replies. A load whose lanes can all be read writes their values, extended, to its registers; an atomic whose lanes
are closed writes the old values and sets its flags, and takes FP_TRAP where they trap (R91); with the reply of an acquire the lines of the core's L1 drop and its
group goes on (R270); an acknowledged write leaves its flags at the workgroup.
That an acquire of a workgroup scope drops every line once a copy of that scope has stamped is the model's choice (log entry 21). -/
def Obligations.AccessesReply : Prop :=
  (∀ s c id w o u ls p, s.wg? c = some w → w.op? id = some o → o.aop = .load → o.logged = false → o.bytes ∈ [1, 2, 4, 8, 16] →
    s.readOpen c o o.lanes = (u, some ls, p) →
    ∃ t, exec (.loadReply c id) s = .next t ∧ t.memOp? c id = none ∧ t.mem = s.mem ∧ Acquired (u.core c) t c w o ∧
      (∀ g y, w.group? g = some y → y.uid = o.uid → ∃ y', t.group? c g = some y' ∧ y'.holdOp = if o.acq = true ∧ y.holdOp = some o.id then none else y.holdOp) ∧
      Replied s t c w o (max 1 (o.bytes / 4)) ls fun l i => loaded o.bytes o.sx l.old i) ∧
  (∀ s c id w o op u, s.wg? c = some w → w.op? id = some o → o.aop = .atom op u → o.replied = false → o.chan = none →
    (∀ l ∈ o.lanes, l.isOpen = false) →
    (let done := o.lanes.filter fun l => l.stat == .performed
     trapped (done.foldl (fun f l => f ||| l.flags) 0) (s.recOf c).tmask = false →
     ∃ t, exec (.atomReply c id) s = .next t ∧ t.mem = s.mem ∧ Acquired (s.core c) t c w o ∧
       Replied s t c w o (max 1 (o.bytes / 4)) done (fun l i => BitVec.ofNat 32 (l.old / 2 ^ (32 * i))) ∧
       ∀ g y, w.group? g = some y → y.uid = o.uid → ∃ y', t.group? c g = some y' ∧ y'.flags = done.foldl (fun f l => f ||| l.flags) y.flags ∧
         y'.holdOp = if y.holdOp = some o.id then none else y.holdOp)) ∧
  (∀ s c id w o op u l g y, s.wg? c = some w → s.launchOf c = some l → w.op? id = some o → o.aop = .atom op u → o.replied = false → o.chan = none →
    (∀ k ∈ o.lanes, k.isOpen = false) → w.group? g = some y → y.uid = o.uid → w.halt = none → w.saving = false →
    trapped ((o.lanes.filter fun k => k.stat == .performed).foldl (fun f k => f ||| k.flags) 0) l.rcd.tmask = true →
    ∃ t w', exec (.atomReply c id) s = .next t ∧ t.wg? c = some w' ∧ w'.excs = w.excs ++ [⟨0x31, 0, o.gslot, o.mask % 2 ^ 32, o.pc⟩] ∧
      ∃ h, w'.halt = some h ∧ h.code = 0x31) ∧
  (∀ s c id w o, s.wg? c = some w → w.op? id = some o → (∀ q ∈ w.ops, q.id = id → q = o) → o.aop ≠ .load → o.acked = false → o.chan = none →
    (∀ l ∈ o.lanes, l.isOpen = false) →
    ∃ t w', exec (.storeAck c id) s = .next t ∧ t.wg? c = some w' ∧ w'.op? id = (if o.replied then none else some { o with acked := true }) ∧
      w'.vregs = w.vregs ∧ w'.groups = w.groups ∧ t.mem = s.mem ∧
      w'.flags = if (match o.aop with | .atom _ _ => true | _ => false) then w.flags else w.flags ||| o.lanes.foldl (fun f l => f ||| l.flags) 0)

/-- R217, R228, R230, R244, R246, R247, R375, R378, R382: where the lanes of writes and atomics are performed: private memory, a scratchpad of the gang, the home
of the line: the bytes that the lane names hold the new value, and every other byte is as before. A lane that does not reach its line is translated: a load's
lane then has the bytes at the place that the walk names, a fault puts the lane into the operand log, and a write finds its place when it arrives.
That 16 bytes are read or stored in one event, and that a lane waits while another of its word may fault, are the model's choices (log entries 39, 47). -/
def Obligations.WritesPerformed : Prop :=
  ((∀ s c id n w o l k, Performs s c id n w o l → l.space = .priv k → s.isPoisoned (privUnitKey c k l.off) o.bytes = false →
     ∃ t w', exec (.homeWriteArrival c id n) s = .next t ∧ t.wg? c = some w' ∧ t.mem = s.mem ∧ w'.scratch = w.scratch ∧
       Stored w.priv w'.priv (k * 2 ^ 32 + l.off) o.bytes (left o.aop o.bytes (Mem.readNat w.priv (k * 2 ^ 32 + l.off) o.bytes) l.data l.cmp) ∧
       PerformedLane t c id n (Mem.readNat w.priv (k * 2 ^ 32 + l.off) o.bytes)) ∧
   (∀ s c id n w o l r d v, Performs s c id n w o l → l.space = .scratch r → s.rankAt w.launch w.gang r = .core d → s.wg? d = some v →
     SMap.getD v.writers (l.off / 128) v.rank = w.rank → o.aop ≠ .wown → (r = w.rank ∨ v.inReplica l.off o.bytes = false) →
     s.isPoisoned (scratchKey d l.off) o.bytes = false →
     ∃ t v', exec (if r = w.rank then .homeWriteArrival c id n else .peerScratchpadWrite c id n) s = .next t ∧ t.wg? d = some v' ∧ t.mem = s.mem ∧
       Stored v.scratch v'.scratch l.off o.bytes (left o.aop o.bytes (bytesToNat (s.scratchBytes d l.off o.bytes)) l.data l.cmp) ∧ v'.vregs = v.vregs ∧
       PerformedLane t c id n (bytesToNat (s.scratchBytes d l.off o.bytes))) ∧
   (∀ s c id n w o l r d v, Performs s c id n w o l → l.space = .scratch r → s.rankAt w.launch w.gang r = .core d → s.wg? d = some v →
     SMap.getD v.writers (l.off / 128) v.rank = w.rank → o.aop = .wown →
     ∃ t v', exec (if r = w.rank then .homeWriteArrival c id n else .peerScratchpadWrite c id n) s = .next t ∧ t.wg? d = some v' ∧ t.mem = s.mem ∧
       v'.scratch = v.scratch ∧ ∀ j, SMap.getD v'.writers j v'.rank = if j = l.off / 128 then l.data else SMap.getD v.writers j v.rank) ∧
   (∀ s c id n w o l u key v, Performs s c id n w o l → l.space = .trans → s.peerOf (s.asidOf c) l.off = none → s.reach (s.asidOf c) l.off o.aop.need = true →
     s.place (s.asidOf c) l.off o.aop.need = (u, .at key) → (o.aop.isRmw = true → s.isPoisoned key o.bytes = false) → Present s (s.asidOf c) l.off o.gen →
     v = left o.aop o.bytes (Mem.readNat s.mem key o.bytes) l.data l.cmp → (u.homeWrite (s.asidOf c) l.off key (natToBytes o.bytes v) o.gen false).isSome →
     ∃ t, exec (.homeWriteArrival c id n) s = .next t ∧ Stored s.mem t.mem key o.bytes v ∧ PerformedLane t c id n (Mem.readNat s.mem key o.bytes))) ∧
  ((∀ s c id n w o l u key, s.wg? c = some w → w.op? id = some o → o.lane? n = some l → l.stat = .waiting → o.chan = none → l.space = .trans →
     laneBlocked w o l = false → s.peerOf (s.asidOf c) l.off = none → s.reach (s.asidOf c) l.off o.aop.need = false → o.aop = .load → o.lk = .plain →
     (s.core c).l1Find (s.asidOf c) l.off = none → l.early = [] → s.place (s.asidOf c) l.off needRead = (u, .at key) → s.isPoisoned key o.bytes = false →
     ∃ t, exec (.l2MissTranslate c id n) s = .next t ∧ PerformedLane t c id n (Mem.readNat s.mem key o.bytes) ∧ t.mem = s.mem) ∧
   (∀ s c id n w o l u k j, s.wg? c = some w → w.op? id = some o → o.lane? n = some l → l.stat = .waiting → o.chan = none → l.space = .trans →
     laneBlocked w o l = false → s.peerOf (s.asidOf c) l.off = none → s.reach (s.asidOf c) l.off o.aop.need = false →
     (o.aop = .load → o.lk = .nc ∨ (s.core c).l1Find (s.asidOf c) l.off = none) → s.place (s.asidOf c) l.off o.aop.need = (u, .fault k) →
     (∀ p ∈ w.log, p.2.op ≠ id) → SMap.lowestFree w.log 64 = some j →
     ∃ t w' o' l' e, exec (.l2MissTranslate c id n) s = .next t ∧ t.wg? c = some w' ∧ w'.op? id = some o' ∧ o'.lane? n = some l' ∧ l'.stat = .logged j ∧
       SMap.get? w'.log j = some e ∧ e.op = id ∧ e.faults = [(l.off / 2 ^ 16, k)] ∧ e.kind = o.aop.kind ∧ e.mask = BitVec.ofNat 64 o.mask ∧
       e.addrs = o.lanes.map (·.ea) ∧ (id ∈ w'.replay ↔ o.aop ≠ .load ∨ id ∈ w.replay) ∧ t.mem = s.mem) ∧
   (∀ s c id n w o l u key, s.wg? c = some w → w.op? id = some o → o.lane? n = some l → l.stat = .waiting → o.chan = none → l.space = .trans →
     laneBlocked w o l = false → s.peerOf (s.asidOf c) l.off = none → s.reach (s.asidOf c) l.off o.aop.need = false → o.aop ≠ .load →
     s.place (s.asidOf c) l.off o.aop.need = (u, .at key) → exec (.l2MissTranslate c id n) s = .next u))

/-- R76, R238, R251, R254, R255, R258, R344: a copy, a gather, and a drain of the matrix engine or of a channel that meet no error
end with status 0 once what they wait for is done; a copy of one byte of device memory moves it.
That a copy is performed whole is the model's choice (log entry 24). -/
def Obligations.EngineOperationsEnd : Prop :=
  (∀ s c id e d tr u, Engaged s c id e → e.kind = .copy d tr → d.chan = none → d.stamp = 0 → d.commits = false → s.copyWaits e d = false →
    s.joining e = false → s.engReady e = true → s.runElems e d.esz (d.elems tr) = (u, none) →
    ∃ t, exec (.copyComplete c id) s = .next t ∧ EndsAt u t e 0) ∧
  (∀ s c id e d tr a b u ka v kb, Engaged s c id e → e.kind = .copy d tr → d.chan = none → d.stamp = 0 → d.commits = false → s.copyWaits e d = false →
    s.joining e = false → s.engReady e = true → e.done = [] → e.taken = [] → d.esz = 1 → d.elems tr = [(a, b)] → vaOk a = true → vaOk b = true → isWindow a.toNat = false →
    isWindow b.toNat = false →
    (let asid := s.asidOfLaunch e.launch
     s.peerOf asid a.toNat = none → s.peerOf asid b.toNat = none → s.chanOpen e a.toNat 1 = false →
     (s.engHear e a.toNat).place asid a.toNat needRead = (u, .at ka) → s.isPoisoned ka 1 = false → u.chanOpen e b.toNat 1 = false →
     (u.engHear e b.toNat).place asid b.toNat needWrite = (v, .at kb) → Present s asid b.toNat e.gen → (v.homeWrite asid b.toNat kb [Mem.read s.mem ka] e.gen false).isSome →
     ∃ t, exec (.copyComplete c id) s = .next t ∧ ∀ k, Mem.read t.mem k = if k = kb then Mem.read s.mem ka else Mem.read s.mem k)) ∧
  (∀ s c id e d u, Engaged s c id e → e.kind = .gather d → s.engReady e = true →
    s.runGather e d ((List.range d.count).filter fun i => !e.done.contains i) = (u, none) →
    ∃ t, exec (.hgatherComplete c id) s = .next t ∧ EndsAt u t e 0) ∧
  (∀ s c id e d es u, Engaged s c id e → e.kind = .mdrain d → d.elems = some es → s.engReady e = true → s.runDrain e d (e.left es) = (u, none) →
    ∃ t, exec (.mdrainComplete c id) s = .next t ∧ EndsAt u t e 0) ∧
  (∀ s c id e k ids, Engaged s c id e → e.kind = .drainChan k ids → (∀ p ∈ s.cores, ∀ o ∈ p.2.chanOps, o.id ∉ ids) →
    ∃ t, exec (.drainComplete c id) s = .next t ∧ EndsAt s t e 0)

/-- R210, R211, R213, R243, R245, R254, R258, R346: the fill of a replica puts the bytes of its range into the scratchpad and ends its SUBSCRIBE; an UNSUB removes
the record, keeps the bytes and brings its counter down. A command enters q2, or q0, behind those there; the head of q2 starts a copy, the head of q0 joins the
matrix engine's queue. An ICINV drops the lines of the range from the caches of each core of its scope, and completes with the last; a DCFLUSH leaves no dirty
line of the range in any L2.
That DCFLUSH writes nothing, and that an UNSUB's counter goes down with UNSUB_COMPLETE, are the model's choices (log entries 53, 50). -/
def Obligations.EngineQueuesAndCaches : Prop :=
  ((∀ s c n w u e r bs, s.wg? c = some w → SMap.get? w.subs n = some u → u.filled = false → u.ending = false → s.subEng c n w = some e → e.fault = none →
     e.killed = false → e.freed = false → s.ownerCore e.launch e.wgno = some c → s.readRun (s.asidOf c) u.va u.len = (r, .ok bs) →
     ∃ t w', exec (.subscribeFillComplete c n) s = .next t ∧ Ended s t c w e 0 ∧ t.wg? c = some w' ∧
       (∀ j, SMap.get? w'.subs j = if j = n then some { u with filled := true, refill := false } else SMap.get? w.subs j) ∧
       ∀ a, Mem.read w'.scratch a = if u.off ≤ a ∧ a < u.off + u.len then bs.getD (a - u.off) 0 else Mem.read w.scratch a) ∧
   (∀ s c n w u, s.wg? c = some w → SMap.get? w.subs n = some u → u.ending = true → s.subEng c n w = none →
     ∃ t w', exec (.unsubComplete c n) s = .next t ∧ t.wg? c = some w' ∧ t.mem = s.mem ∧ w'.scratch = w.scratch ∧
       (∀ j, SMap.get? w'.subs j = if j = n then none else SMap.get? w.subs j) ∧
       ∀ g y, w.group? g = some y → y.uid = u.uid → ∃ y', w'.group? g = some y' ∧ y'.sregs = y.sregs ∧
         ∀ k, k ≠ 0 → y'.ct k = y.ct k - (if k = u.ct then 1 else 0))) ∧
  ((∀ s c g y cmd, s.group? c g = some y → (y.port 0).length < 4 →
     ∃ t y', exec (.matrixQ0Command c g cmd) s = .next t ∧ t.group? c g = some y' ∧ y'.port 0 = y.port 0 ++ [cmd] ∧ (∀ p, p ≠ 0 → y'.port p = y.port p) ∧
       y'.sregs = y.sregs ∧ t.mem = s.mem) ∧
   (∀ s c g w y cmd cmds (op : Nat) (half hi : Bool) (fa fb : BitVec 3) (row rows : BitVec 7), s.wg? c = some w → w.group? g = some y →
     y.port 0 = cmd :: cmds → w.mtx.queue.length < 16 → w.mtx.dead = false → op < 3 →
     cmd.toNat = op * 2 ^ 30 + half.toNat * 2 ^ 29 + fa.toNat * 2 ^ 26 + fb.toNat * 2 ^ 23 + row.toNat * 2 ^ 16 + rows.toNat * 2 ^ 9 + hi.toNat * 2 ^ 8 →
     ∃ t w' y' q, exec (.q0CommandEnqueue c g) s = .next t ∧ t.wg? c = some w' ∧ w'.group? g = some y' ∧ y'.port 0 = cmds ∧ y'.sregs = y.sregs ∧
       w'.mtx = { w.mtx with queue := w.mtx.queue ++ [q] } ∧ t.mem = s.mem ∧ q.uid = y.uid ∧ q.slots = y.slots ∧ q.fromQ0 = true ∧
       q.instr = commandWord op half hi fa fb row rows ∧
       (q.bad = false ↔ (half = true ∨ hi = false) ∧ row.toNat + rows.toNat + 1 ≤ 128 ∧ (op = 2 → fa = 0 ∧ fb = 0))) ∧
   (∀ s c g y cmd, s.group? c g = some y → (y.port 2).length < 4 →
     ∃ t y', exec (.copyQ2Command c g cmd) s = .next t ∧ t.group? c g = some y' ∧ y'.port 2 = y.port 2 ++ [cmd] ∧ (∀ p, p ≠ 2 → y'.port p = y.port p) ∧
       y'.sregs = y.sregs ∧ t.mem = s.mem) ∧
   (∀ s c g w l y cmd cmds off z tr sc, s.wg? c = some w → s.launchOf c = some l → w.group? g = some y → y.port 2 = cmd :: cmds → y.q2Started < 4 →
     (∀ e ∈ (s.core c).eng, e.handle ≠ none ∨ e.uid ≠ y.uid) → q2Command cmd.toNat = some (off, z, tr, none, sc) → off + 96 ≤ l.rcd.scratch →
     w.writesOpen y.slots off 96 = false → s.isPoisoned (scratchKey c off) 96 = false →
     (copyDescOf (s.scratchBytes c off 96) z none sc).ok tr w.cbs = true →
     ∃ t y' e, exec (.q2CopyStart c g) s = .next t ∧ t.group? c g = some y' ∧ y'.port 2 = cmds ∧ y'.q2Started = y.q2Started + 1 ∧
       (t.core c).eng = (s.core c).eng ++ [e] ∧ e.id = s.nextId ∧ e.handle = none ∧ e.uid = y.uid ∧ e.refused = none ∧ t.mem = s.mem ∧
       e.kind = .copy (copyDescOf (s.scratchBytes c off 96) z none sc) tr)) ∧
  ((∀ s c d id o w, s.cacheOp? id = some (c, o) → o ∈ (s.core c).cacheOps → o.flush = false → d ∈ o.cores → s.wg? c = some w →
     (o.started = true ∨ s.alive w.launch w.wgno o.before = false ∧ ∀ h ∈ s.heldWrites, h.id ∉ o.before) →
     ∃ t, exec (.icinvDropReceive d id) s = .next t ∧ (t.core d).loopStale = true ∧ t.mem = s.mem ∧
       (∀ k ∈ o.clusters, ∀ l ∈ (t.die (k / 8)).icache, l.1 = k % 8 → o.covers l.2.1 l.2.2.1 = false) ∧
       if ∀ e ∈ o.cores, e = d then (∀ q ∈ (t.core c).cacheOps, q.id ≠ id) ∧
         ∀ g y, w.group? g = some y → y.uid = o.uid → ∃ y', t.group? c g = some y' ∧ ∀ k, k ≠ 0 → y'.ct k = y.ct k - (if k = o.ct then 1 else 0)
       else ∃ q ∈ (t.core c).cacheOps, q.id = id ∧ q.cores = o.cores.filter (· != d)) ∧
   (∀ s c id o w, (s.core c).cacheOps.find? (·.id == id) = some o → o.flush = true → s.wg? c = some w →
     ∃ t, exec (.dcflushComplete c id) s = .next t ∧ t.mem = s.mem ∧ (∀ q ∈ (t.core c).cacheOps, q.id ≠ id) ∧
       (∀ d, ∀ p ∈ (t.die d).l2, ∀ l ∈ p.2, o.covers l.asid l.line = true → l.dirty = false) ∧
       ∀ g y, w.group? g = some y → y.uid = o.uid → ∃ y', t.group? c g = some y' ∧ ∀ k, k ≠ 0 → y'.ct k = y.ct k - (if k = o.ct then 1 else 0)))

/-- R296 to R302: a packet takes the next number and leaves with its operations, which keep the number, and is retained; the packet that a resequencer
expects is applied, one beyond the window is answered by NAK, and what has been applied is acknowledged.
How the data of a packet lie in its bytes, that an acknowledgement carries the results applied so far, and when a packet counts as applied are the model's choices
(log entries 98, 45, 46). -/
def Obligations.PacketsTravel : Prop :=
  (∀ s c n lk k m x orph st o os, s.sess? c n = some (k, m, x, orph) → x.state = .opened → AllInSession s → s.linkOk x.dev lk = true →
    s.resendable c n x.acked = none → ((s.opsOf c n).filter (·.seq.isNone)).take (os.length + 1) = o :: os → os.length < 64 →
    (∀ q ∈ os, q.gen = o.gen) → (∀ q ∈ o :: os, s.sendable c q = true ∧ q.kind ≤ 3) → ((o :: os).map (·.dataBytes)).sum ≤ 256 →
    (s.core c).packets.length < 512 → st = s.devNum.toNat * 2 ^ 16 + c * 2 ^ 7 + k * 2 ^ 3 + x.epoch →
    ∃ t, exec (.channelPacketSend c n (os.length + 1) lk) s = .next t ∧
      Sent s t x.dev (.packet x.die st x.next (packetImage st x.next (o :: os)) (o :: os)) ∧
      SessionIs t c n k m { x with next := (x.next + 1) % 2 ^ 16 } orph ∧
      (t.core c).packets = (s.core c).packets ++
        [⟨n, st, x.next, o.gen, (o :: os).map (·.id), packetImage st x.next (o :: os), lk, (s.core c).ck, false⟩] ∧
      (∀ q ∈ (t.core c).chanOps, q.id ∈ (o :: os).map (·.id) → q.seq = some x.next) ∧
      (t.core c).chanOps.map (·.id) = (s.core c).chanOps.map (·.id) ∧ t.mem = s.mem) ∧
  (∀ s n die st img ops e ops' u done, s.msgs[n]? = some (.packet die st e.expected img ops) → (s.die die).entry? st = some e → e.held = [] →
    ops' = ops.map (s.retag st) →
    (((s.takeMsg n).setDie die (s.die die)).modDie die (·.setEntry { e with held := [(e.expected, ops')] })).applyOps die e.doing ops' = (u, done) →
    (∀ o ∈ ops', ∃ a ∈ done, a.op = o.id) →
    ∃ t e', exec (.channelPacketArrive n) s = .next t ∧ (t.die die).entry? st = some e' ∧ e'.expected = (e.expected + 1) % 2 ^ 16 ∧ e'.held = [] ∧
      e'.applied = e.applied ++ ops'.filterMap (fun o => done.find? fun a => a.op == o.id) ∧ e'.owesAck = true ∧ t.mem = u.mem) ∧
  (∀ s n die st img ops seq e, s.msgs[n]? = some (.packet die st seq img ops) → (s.die die).entry? st = some e → 64 ≤ seqSub seq e.expected →
    seqSub seq e.expected < 2 ^ 15 →
    ∃ t, exec (.channelPacketArrive n) s = .next t ∧ Sent (s.takeMsg n) t (st / 2 ^ 16) (.nak s.devNum.toNat die st e.expected seq) ∧
      (t.die die).entry? st = some e ∧ t.mem = s.mem) ∧
  (∀ s die st e, (s.die die).entry? st = some e → e.owesAck = true →
    ∃ t, exec (.ackSend die st) s = .next t ∧ Sent s t (st / 2 ^ 16) (.ack s.devNum.toNat die st (seqSub e.expected 1) e.applied) ∧
      (t.die die).entry? st = some { e with owesAck := false } ∧ t.mem = s.mem)

/-- R301 to R303: an acknowledgement in the outstanding range retires the packets and the operations up to its number; a NAK marks its packet to be sent
again; SCL removes the stream from its resequencer.
Which session a message concerns is a reading (log entry 96). -/
def Obligations.SourcesHear : Prop :=
  (∀ s n dev die st a done k m x orph, s.msgs[n]? = some (.ack dev die st a done) →
    s.sessFrom dev die st (fun y => (y.state == .opened || y.state == .resync) && decide (0 < seqSub a y.acked) &&
      decide (seqSub a y.acked ≤ seqSub y.next ((y.acked + 1) % 2 ^ 16))) = some (k, m, x, orph) →
    s.sess? (streamCore st) x.openedAt = some (k, m, x, orph) → AllInSession s →
    ∃ t, exec (.channelAckReceive n) s = .next t ∧
      (∀ p ∈ (t.core (streamCore st)).packets, p.sess = x.openedAt → seqSub a x.acked < seqSub p.seq x.acked) ∧
      (∀ o ∈ (t.core (streamCore st)).chanOps, o.sess = some x.openedAt → ∀ q, o.seq = some q → seqSub a x.acked < seqSub q x.acked) ∧
      (orph = false → x.state = .opened → (∀ w, s.wg? (streamCore st) = some w → w.retired = false) →
        SessionIs t (streamCore st) x.openedAt k m { x with acked := a } false)) ∧
  (∀ s n dev die st e seq, s.msgs[n]? = some (.nak dev die st e seq) →
    ∃ t, exec (.nakReceive n) s = .next t ∧ t.msgs = s.msgs.eraseIdx n ∧ t.mem = s.mem ∧
      ∀ p ∈ (t.core (streamCore st)).packets, p.stream = st → p.seq = seq →
        ∀ k m x orph, s.sess? (streamCore st) p.sess = some (k, m, x, orph) → x.dev = dev → x.die = die → p.refused = true) ∧
  (∀ s n die st, s.msgs[n]? = some (.scl die st) →
    ∃ t, exec (.sclReceive n) s = .next t ∧ t.msgs = s.msgs.eraseIdx n ∧ (t.die die).entry? st = none ∧ t.mem = s.mem ∧
      ∀ st', st' ≠ st → (t.die die).entry? st' = (s.die die).entry? st')

/-- R303 to R306: the handshake: a link that is lost sends a notice to each session with a packet on it; the handshake starts with the notice, or when no
acknowledgement has come for 2^15 ck; the destination answers with what it has applied; the answer opens the session again, with RSD to the destination; an
attempt without an answer is followed by the next, and the eighth severs the session.
What it retained and was not applied is sent again, in its order.
That an answer carries the results applied so far, that RSD has no effect at the destination, and which session a message concerns are readings (log entries 45, 95,
96). -/
def Obligations.HandshakeSteps : Prop :=
  (∀ s c n k m x orph p, s.sess? c n = some (k, m, x, orph) → x.state = .opened → p ∈ (s.core c).packets → p.sess = n → .linkDown c n ∈ s.msgs →
    ∃ t y, exec (.linkDownNotice c n) s = .next t ∧ SessionIs t c n k m y orph ∧ y.state = .resync ∧ y.attempt = 1 ∧ y.next = x.next ∧ y.acked = x.acked ∧
      Sent { s with msgs := s.msgs.erase (.linkDown c n) } t x.dev (.rsq x.die (s.streamOf c k x) x.acked) ∧ t.mem = s.mem) ∧
  (∀ s c n k m x orph p, s.sess? c n = some (k, m, x, orph) → x.state = .opened → p ∈ (s.core c).packets → p.sess = n →
    (∀ q ∈ (s.core c).packets, q.sess = n → p.sentAt ≤ q.sentAt) →
    ∃ t y, exec (.channelAckTimeout c n) s = .next t ∧ SessionIs t c n k m y orph ∧ y.state = .resync ∧ y.attempt = 1 ∧ y.next = x.next ∧
      y.acked = x.acked ∧ p.sentAt + 2 ^ 15 ≤ (t.core c).ck ∧ Sent s t x.dev (.rsq x.die (s.streamOf c k x) x.acked)) ∧
  (∀ s n die st a, s.msgs[n]? = some (.rsq die st a) →
    ∃ t, exec (.rsqReceive n) s = .next t ∧ t.mem = s.mem ∧ Sent (s.takeMsg n) t (st / 2 ^ 16) (match (s.die die).entry? st with
      | some e => .rsa s.devNum.toNat die st (seqSub e.expected 1) e.applied
      | none => .rsa s.devNum.toNat die st 0xFFFF [])) ∧
  (∀ s n dev die st h done k m x, s.msgs[n]? = some (.rsa dev die st h done) → (dev = s.devNum.toNat ∨ s.linksUp ≠ []) →
    s.sessFrom dev die st (fun y => y.state == .resync && !y.rsa) = some (k, m, x, false) → s.sess? (streamCore st) x.openedAt = some (k, m, x, false) →
    AllInSession s → (∀ w, s.wg? (streamCore st) = some w → w.retired = false) → s.opsOf (streamCore st) x.openedAt = [] →
    (∀ p ∈ (s.core (streamCore st)).packets, p.sess ≠ x.openedAt) → x.inRange h = false →
    ∃ t y, exec (.rsaReceive n) s = .next t ∧ SessionIs t (streamCore st) x.openedAt k m y false ∧ y.state = .opened ∧ y.next = x.next ∧
      y.acked = x.acked ∧ t.mem = s.mem ∧
      if x.dev = s.devNum.toNat then .rsd x.die st ∈ t.msgs else .peerMsg x.dev (.rsd x.die st) ∈ t.out) ∧
  (∀ s n dev die st h done k m x u p, s.msgs[n]? = some (.rsa dev die st h done) → (dev = s.devNum.toNat ∨ s.linksUp ≠ []) →
    s.sessFrom dev die st (fun y => y.state == .resync && !y.rsa) = some (k, m, x, false) → s.sess? (streamCore st) x.openedAt = some (k, m, x, false) →
    AllInSession s → (∀ w, s.wg? (streamCore st) = some w → w.retired = false) → seqSub x.next x.acked ≤ 2 ^ 15 →
    u = (if x.inRange h then ((s.takeMsg n).hearAck (streamCore st) x).acceptAck (streamCore st) x.openedAt h x done else (s.takeMsg n).hearAck (streamCore st) x) →
    p ∈ (u.core (streamCore st)).packets → p.sess = x.openedAt → x.inRange p.seq = true →
    ∃ t y, exec (.rsaReceive n) s = .next t ∧ SessionIs t (streamCore st) x.openedAt k m y false ∧ y.state = .resync ∧ y.rsa = true ∧ y.next = x.next ∧
      y.acked = (if x.inRange h then h else x.acked) ∧ t.mem = s.mem ∧
      (t.core (streamCore st)).packets = (u.core (streamCore st)).packets.map (fun q => if q.sess = x.openedAt then
        { q with refused := false, link := u.resendLink x, sentAt := (s.core (streamCore st)).ck } else q) ∧
      (let again : List ChanMsg := ((u.core (streamCore st)).packets.filter (·.sess == x.openedAt)).map fun q =>
         .packet x.die q.stream q.seq q.image (u.opsIn (streamCore st) q.ops)
       if x.dev = s.devNum.toNat then u.msgs ++ again <+: t.msgs else u.out ++ again.map (.peerMsg x.dev) <+: t.out)) ∧
  (∀ s n die st, s.msgs[n]? = some (.rsd die st) → ∃ t, exec (.rsqReceive n) s = .next t ∧ t = s.takeMsg n) ∧
  (∀ s c n k m x, s.sess? c n = some (k, m, x, false) → x.state = .resync → x.rsa = false → s.opsOf c n = [] → AllInSession s →
    ∃ t y, exec (.resyncAttemptTimeout c n) s = .next t ∧ SessionIs t c n k m y false ∧
      (if 8 ≤ x.attempt then y.state = .severed
       else y.state = .resync ∧ y.attempt = x.attempt + 1 ∧ Sent s t x.dev (.rsq x.die (s.streamOf c k x) x.acked)) ∧
      x.rsqAt + 4096 * 2 ^ (x.attempt - 1) ≤ (t.core c).ck ∧ t.mem = s.mem) ∧
  (∀ s l, ∃ t, exec (.causewayLinkFail l) s = .next t ∧
    t = { s with linksUp := t.linksUp, msgs := s.msgs ++ if l ∈ s.linksUp then s.linkNotices l else [] } ∧
    (∀ j, j ∈ t.linksUp ↔ j ∈ s.linksUp ∧ j ≠ l) ∧
    ∀ c k m x orph p, (k, m, x, orph) ∈ s.sessionsAt c → (c, s.core c) ∈ s.cores → x.dev ≠ s.devNum.toNat → p ∈ (s.core c).packets → p.sess = x.openedAt →
      p.link = l → l ∈ s.linksUp → .linkDown c x.openedAt ∈ t.msgs) ∧
  (∀ s l, l < 18 → ∃ t, exec (.causewayLinkUp l true) s = .next t ∧ t = { s with linksUp := t.linksUp } ∧ ∀ j, j ∈ t.linksUp ↔ j ∈ s.linksUp ∨ j = l)

/-- R319, R326, R341, R347, R456, R457: the engine takes the word at the head of its queue when nothing before it is outstanding and no permit is needed; a word that
ends leaves its records, its effect on the engine and its flags, and its counter goes down; MZERO leaves zeros in its window; an MLDA.g loads every member of the
set when all have arrived alike. Each window of an island's Tollgate grants the requests that wait, oldest first, up to the budget, halved from 95 degrees on, and the
others wait for the next.
That a word writes in one event, which split the members of a set go by, and the window in which a request counts are the model's choices (log entries 61, 89, 111). -/
def Obligations.MatrixEngineTurns : Prop :=
  ((∀ s c w q qs, s.wg? c = some w → w.mtx.queue = q :: qs → w.mtx.running = none → w.mtx.dead = false → s.alive w.launch w.wgno q.before = false →
     (q.fromQ0 = true → commandOk (s.recOf c) w.mtx.recs q = true) → s.coreOn c = true → sparsePass q.instr = false →
     (∀ h row rows, q.instr = .msideQ h row rows → ∃ p, w.anyByUid q.uid = some p ∧ (p.port 1).length + 2 * (rows.toNat + 1) ≤ 4) →
     needsPermit (s.recOf c) w.mtx q = false → w.mtx.passOpen = none →
     ∃ t w', exec (.matrixWordStart c) s = .next t ∧ t.wg? c = some w' ∧ t.mem = s.mem ∧ w'.groups = w.groups ∧ w'.vregs = w.vregs ∧
       w'.mtx = { w.mtx with queue := qs, running := some q, permit := false, gather := w'.mtx.gather, burst := w'.mtx.burst } ∧
       (w'.mtx.gather = true ↔ gathers q w.mtx.recs.gn)) ∧
   (∀ s c w q bs o, s.wg? c = some w → w.mtx.running = some q → w.mtx.gather = false → ¬ gathers q w.mtx.recs.gn → q.drain = none →
     ((q.reads = none ∨ q.nibbles ≠ none) ∧ bs = [] ∨
       q.nibbles = none ∧ ∃ rank off n, q.reads = some (rank, off, n) ∧ s.rankBytes w.launch w.gang rank off n = .ok bs) →
     mtxEffect (s.recOf c) q w.mtx (q.taken bs) none = o → trapped o.fl.word (s.recOf c).tmask = false →
     ∃ t w', exec (.matrixWordEnd c) s = .next t ∧ t.wg? c = some w' ∧ t.mem = s.mem ∧
       w'.mtx = { o.mtx with recs := recEffect (s.recOf c) q.instr o.mtx.recs, running := none } ∧
       w'.scratch = o.scr.foldl (fun m p => Mem.writeBytes m p.1 p.2) w.scratch ∧ (∀ p ∈ w'.pend, p.1 ≠ q.id) ∧ CounterDown t c w q ∧
       ∀ g y, w.groupByUid q.uid = some (g, y) → w.group? g = some y →
         ∃ y', w'.group? g = some y' ∧ y'.flags = y.flags ||| o.fl.word ∧ y'.port 1 = y.port 1 ++ o.port) ∧
   (∀ s c w q h side half row col rows, s.wg? c = some w → w.mtx.running = some q → w.mtx.gather = false → q.drain = none → q.reads = none →
     q.instr = .mzero h side half row col rows →
     ∃ t w', exec (.matrixWordEnd c) s = .next t ∧ t.wg? c = some w' ∧ ∀ i k, k < 256 →
       w'.mtx.accAt i k = if row.toNat ≤ i ∧ i ≤ row.toNat + rows.toNat ∧ col.toNat ≤ k ∧ k < col.toNat + winCols half then 0 else w.mtx.accAt i k) ∧
   (∀ s c w q, s.wg? c = some w → w.mtx.running = some q → w.mtx.gather = false → gathers q w.mtx.recs.gn →
     ∃ t w', exec (.matrixWordEnd c) s = .next t ∧ t.wg? c = some w' ∧ w'.mtx = { w.mtx with running := none } ∧ CounterDown t c w q ∧ t.mem = s.mem) ∧
   (∀ s c w (cores : List Nat) d v q rank off n, s.wg? c = some w → 1 < s.jointGn w →
     (mSet (s.jointGn w) w.rank).map (s.rankCore w.launch w.gang) = cores.map some → cores.head? = some d →
     s.wg? d = some v → v.mtx.running = some q → q.reads = some (rank, off, n) → s.isPoisoned (scratchKey d off) n = false →
     (gFields w.mtx).isSome = true → (∀ e ∈ cores, ∃ y, s.wg? e = some y ∧ gFields y.mtx = gFields w.mtx) →
     ∃ t, exec (.mldaGTransfer c) s = .next t ∧ t.mem = s.mem ∧ ∀ e ∈ cores, ∃ y r y', s.wg? e = some y ∧ y.mtx.running = some r ∧ t.wg? e = some y' ∧
       y'.groups = y.groups ∧ y'.mtx.gather = false ∧ y'.mtx.running = some r ∧
       y'.mtx.aMant = (mtxEffect (s.recOf e) r y.mtx (q.taken (s.scratchBytes d off n)) none).mtx.aMant ∧
       y'.mtx.aExp = (mtxEffect (s.recOf e) r y.mtx (q.taken (s.scratchBytes d off n)) none).mtx.aExp)) ∧
  ((∀ s n, (s.island n).cur ≠ 4 →
     ∃ t, exec (.tollgateWindow n) s = .next t ∧ t.mem = s.mem ∧ (t.island n).ck = 1024 * ((s.island n).ck / 1024 + 1) + 2 ∧ ∀ m, m ≠ n → t.island m = s.island m) ∧
   (∀ s n k win (cores : List Nat), (s.island n).cur ≠ 4 → cores.Nodup → cores ≠ [] → win = (s.island n).ck / 1024 + 1 →
     k = (if 760 ≤ (s.island n).temp.toNat then (s.island n).budget.toNat / 2 else (s.island n).budget.toNat) →
     (s.island n).win < win → (s.island n).waiters = cores.map (fun c => ⟨1024 * win, true, c⟩) →
     (∀ c ∈ cores, ∃ w, s.wg? c = some w ∧ w.mtx.waitsPermit = true) →
     ∃ t, exec (.tollgateWindow n) s = .next t ∧ (t.island n).waiters = (cores.drop k).map (fun c => ⟨1024 * (win + 1), true, c⟩) ∧
       (t.island n).granted = min k cores.length ∧ (t.island n).win = win ∧
       ∀ c ∈ cores.take k, (s.island n).epoch + 1024 * win + 2 ≤ (t.core c).ck ∧
         ∃ w w', s.wg? c = some w ∧ t.wg? c = some w' ∧ w'.mtx = { w.mtx with permit := true, waitsPermit := false }))

/-- R424, R426, R427, R428, R444: what taking an exception leaves, of any code and kind (R423): it stands among the workgroup's exceptions, behind those of the same ck
that go before it, and behind all where the workgroup halted in an earlier ck; the first one halts the workgroup, which will write its dump; no register, predicate,
thread or group has changed; without a valid debug capability the launch is ending with the code of the first, and each of its other workgroups is told to halt; the
host hears the class of one in a confidential tenant. A workgroup that waits to be saved keeps it for its image.
The order of the exceptions of one ck that stand at the workgroup is a reading (log entry 112). -/
def Obligations.ExceptionsHalt : Prop :=
  (∀ (s : State) c w l (e : Exc) mask, s.wg? c = some w → s.launchOf c = some l → w.saving = true → w.halt = none →
     s.raise c e mask = s.setWg c (some { w with kept := w.kept ++ [e] })) ∧
  (∀ (s : State) c w l (e : Exc) mask, s.wg? c = some w → s.launchOf c = some l → w.saving = false ∨ w.halt ≠ none →
     ∃ t w' l' h', s.raise c e mask = t ∧ t.wg? c = some w' ∧ t.launch? l.uid = some l' ∧ w'.halt = some h' ∧ w'.vregs = w.vregs ∧ w'.threads = w.threads ∧
       w'.groups = w.groups ∧ w'.spawn = w.spawn ∧ w'.parked = w.parked ∧ w'.kept = w.kept ∧
       ((s.tenant l.tenant).cfg.conf = true → .faultClass (e.code / 16) l.lid.toNat c ∈ t.out) ∧
       (w.halt = none → w'.excs = w.excs ++ [e] ∧ h'.reason = 0 ∧ h'.code = e.code ∧ h'.dumps = true ∧ h'.dumpDone = false ∧ h'.core = c ∧
         h'.ms = (s.core c).ms ∧ h'.ck = some (s.core c).ck ∧
         if s.dbgOk l then l'.halting = l.halting ∧ l'.code = l.code
         else l'.halting = true ∧ l'.code = (if l.code = none then some (e.code, c) else l.code) ∧
           ∀ d v, d ≠ c → s.wg? d = some v → v.launch = l.uid → (t.core d).haltMsg = true) ∧
       (∀ h n, w.halt = some h → h.ck = some (s.core c).ck → n = h.keys.countP (fun j => decide (j ≤ e.key s.cur.2)) →
         w'.excs = w.excs.take n ++ e :: w.excs.drop n ∧ some h'.code = w'.excs.head?.map (·.code) ∧ h'.dumps = h.dumps ∧ h'.reason = h.reason ∧
           l'.halting = l.halting ∧ l'.code = if l.code = some (h.code, c) then some (h'.code, c) else l.code) ∧
       (∀ h, w.halt = some h → h.ck ≠ some (s.core c).ck → w'.excs = w.excs ++ [e] ∧ h'.code = h.code ∧ h'.dumps = h.dumps ∧ h'.reason = h.reason ∧
         l'.halting = l.halting ∧ l'.code = l.code)) ∧
  (∀ s x (code : BitVec 8) (body : BitVec 56), s.ctx? (headOf (code.toNat * 2 ^ 56 + body.toNat)) code.toNat none = some x →
     exec (.unassignedOpcode code body) s =
       .next ((s.advanceTo x.c x.now).raise x.c ⟨0x01, 0, x.g, laneMask x.ex % 2 ^ 32, x.grp.pc⟩ (laneMask x.ex)))

/-- R382 to R386, R454: the oldest fault record that reaches the Depot is written into the tenant's ring, or held behind a full ring or others held; with room the
oldest one held is written. An answer ends its record; after a retry the log has no entry of the page and its lanes walk again; after a refusal the causes'
exceptions stand at the workgroup and the accesses are gone; an answer to a record of a dump or a trace ends the record; a workgroup whose groups all wait on faults is
switched out for another context.
That the fault ring's base is an address of host memory, and what of an access a refusal ends, are the model's choices (log entries 33, 48, 49). -/
def Obligations.FaultsRecordedAndAnswered : Prop :=
  ((∀ s ti r rs, (s.tenant ti).arriving = r :: rs → (s.tenant ti).held = [] → ¬ RingFull s ti → r.kind ≠ 0xFF → (s.tenant ti).unanswered.length < 2 ^ 16 →
     ∃ t, exec (.faultRecord ti) s = .next t ∧ (t.tenant ti).arriving = rs ∧ (t.tenant ti).held = [] ∧ RecordWritten s t ti r) ∧
   (∀ s ti r rs, (s.tenant ti).arriving = r :: rs → (s.tenant ti).held ≠ [] ∨ RingFull s ti →
     ∃ t, exec (.faultRecord ti) s = .next t ∧ (t.tenant ti).arriving = rs ∧ (t.tenant ti).held = (s.tenant ti).held ++ [r] ∧ t.mem = s.mem ∧ t.out = s.out) ∧
   (∀ s ti r rs, (s.tenant ti).held = r :: rs → ¬ RingFull s ti → r.kind ≠ 0xFF → (s.tenant ti).unanswered.length < 2 ^ 16 →
     ∃ t, exec (.faultRingRoom ti) s = .next t ∧ (t.tenant ti).held = rs ∧ (t.tenant ti).arriving = (s.tenant ti).arriving ∧ RecordWritten s t ti r)) ∧
  ((∀ s ti id r w, s.answered ti id = some r → r.depot = false → r.core ≠ 512 → s.wg? r.core = some w → s.asidOf r.core = r.asid →
     s.ownerCore w.launch w.wgno = some r.core → NothingHeld s →
     ∃ t w', exec (.faultAnswerRetry ti id) s = .next t ∧ t.wg? r.core = some w' ∧ t.mem = s.mem ∧ w'.vregs = w.vregs ∧ w'.excs = w.excs ∧
       (t.tenant ti).unanswered = (s.tenant ti).unanswered.filter (fun q => q.uid != r.uid) ∧
       (∀ n e', (n, e') ∈ w'.log ↔ e'.faults ≠ [] ∧ ∃ e, (n, e) ∈ w.log ∧ e' = { e with faults := e.faults.filter fun q => q.1 != r.va / 2 ^ 16 }) ∧
       (∀ o ∈ w'.ops, ∀ l ∈ o.lanes, ∀ n, l.stat = .logged n → l.off / 2 ^ 16 = r.va / 2 ^ 16 → ∀ p ∈ w.log, p.1 = n → ¬ FaultAt p.2 (r.va / 2 ^ 16)) ∧
       ∀ g y, w.group? g = some y → y.wait = some .clauseFault → (∃ p ∈ w.log, FaultAt p.2 (r.va / 2 ^ 16) ∧ p.2.op = y.uid) →
         ∃ y', w'.group? g = some y' ∧ y'.wait = some .clauseMiss) ∧
   (∀ s ti id r, s.answered ti id = some r → r.depot = true → ∃ t, exec (.faultAnswerRetry ti id) s = .next t ∧ exec (.faultAnswerRefuse ti id) s = .next t ∧
     t = { s with tenants := t.tenants } ∧ (t.tenant ti).unanswered = (s.tenant ti).unanswered.filter (fun q => q.uid != r.uid)) ∧
   (∀ s ti id r w l, s.answered ti id = some r → r.depot = false → r.core ≠ 512 → s.wg? r.core = some w → s.asidOf r.core = r.asid → s.launchOf r.core = some l →
     s.ownerCore w.launch w.wgno = some r.core → NothingHeld s → (s.core r.core).chanOps = [] → (∀ o ∈ w.ops, o.chan = none) →
     ∃ t w', exec (.faultAnswerRefuse ti id) s = .next t ∧ t.wg? r.core = some w' ∧ w'.vregs = w.vregs ∧ (∀ p ∈ w'.log, ¬ FaultAt p.2 (r.va / 2 ^ 16)) ∧
       (let es : List Exc := (w.log.filter fun p => p.2.faults.any fun q => q.1 == r.va / 2 ^ 16).map fun p =>
          ⟨refusedCode (((p.2.faults.find? fun q => q.1 == r.va / 2 ^ 16).map (·.2)).getD 0), 0, p.2.gslot, p.2.mask.toNat % 2 ^ 32, p.2.pc⟩
        if w.saving = true ∧ w.halt = none then w'.kept = w.kept ++ es ∧ w'.excs = w.excs else w'.excs.Perm (w.excs ++ es) ∧ w'.kept = w.kept) ∧
       ∀ p ∈ w.log, FaultAt p.2 (r.va / 2 ^ 16) → (∀ o ∈ w'.ops, o.id ≠ p.2.op) ∧ ∀ q ∈ w'.pend, (∃ o ∈ w.ops, o.id = p.2.op) → q.1 ≠ p.2.op) ∧
   (∀ s c w, s.wg? c = some w → w.halt = none → w.saving = false → w.retired = false → w.groups ≠ [] → (∀ p ∈ w.groups, w.blockedOnFault p.2 = true) →
     s.otherContext c w.launch = true →
     ∃ t w', exec (.faultSwitchOut c) s = .next t ∧ t.wg? c = some w' ∧ w'.saving = true ∧ w'.saveReason = 1 ∧ w.lastIssue + 4096 ≤ (t.core c).ck ∧
       w'.groups = w.groups ∧ w'.vregs = w.vregs ∧ t.mem = s.mem))

/-- R376, R387, R388, R389, R391: a home map entry becomes the one the host gives; a shoot-down leaves no translation, line or home map entry of its range at
a die, the hub or a core that has received it, and the last receipt is reported; a migration that may begin takes a slot, marks its region's entry and tells the
cores, whose receipts its first line waits for; one that may not waits at the hub. A device that is not ready serves none of them.
That a change of a migrating region is refused, and when the frames that a confidential tenant loses are zeroed, are the model's choices (log entries 56, 71). -/
def Obligations.HomesChange : Prop :=
  (∀ s asid region entry, s.ready = true → (∀ p ∈ s.dies, ∀ m ∈ p.2.slots, m.2.asid = asid → m.2.region ≠ region) → region < 2 ^ 36 →
    ∃ t, exec (.homeMapChange asid region entry) s = .next t ∧ t = { s with homeMap := t.homeMap } ∧
      ∀ a v, t.homeEntry a v = if a = asid ∧ v / 2 ^ 21 % 2 ^ 36 = region then entry else s.homeEntry a v) ∧
  (∀ s asid va len, s.ready = true → ∃ t, exec (.shootDownRequest asid va len) s = .next t ∧
      (∀ k, Freed s t asid k → Mem.read t.mem k = 0) ∧ (∀ k, ¬ Freed s t asid k → Mem.read t.mem k = Mem.read s.mem k) ∧
      (∀ d, (∀ p ∈ (t.die d).tlb, ∀ e ∈ p.2, e.asid = asid → ¬ (e.va < va + len ∧ va < e.va + e.size)) ∧
        ∀ p ∈ (t.die d).l2, ∀ l ∈ p.2, l.asid = asid → ¬ (128 * l.line < va + len ∧ va < 128 * l.line + 128)) ∧
      (∀ e ∈ t.hubTlb, e.asid = asid → ¬ (e.va < va + len ∧ va < e.va + e.size)) ∧
      ∀ c, (s.wg? c).isSome → s.asidOf c = asid → (s.nextId, asid, va, len) ∈ (t.core c).shoots) ∧
  (∀ s c id asid va len rest, (s.core c).shoots = (id, asid, va, len) :: rest →
    ∃ t, exec (.shootdownReceive c) s = .next t ∧ (t.core c).shoots = rest ∧ t.mem = s.mem ∧
      (∀ l ∈ (t.core c).l1, l.asid = asid → ¬ (128 * l.line < va + len ∧ va < 128 * l.line + 128)) ∧
      (∀ h ∈ (t.core c).home, h.1 = asid → ¬ (h.2.1 * 2 ^ 21 < va + len ∧ va < h.2.1 * 2 ^ 21 + 2 ^ 21)) ∧
      t.out = s.out ++ (if (∀ p ∈ t.cores, ∀ q ∈ p.2.shoots, q.1 ≠ id) ∧ (∀ p ∈ s.dies, ∀ m ∈ p.2.slots, m.2.told ≠ id) then [.shootDone asid] else [])) ∧
  (∀ s asid region nh nt frame k e, s.ready = true → e = s.homeEntry asid (region * 2 ^ 21) → hmOk e = true → hmHost e = false → hmMig e = false →
    SMap.lowestFree (s.die (hmHome e)).slots 4 = some k → (∀ ti, s.tenantOfAsid asid = some ti → (s.tenant ti).cut = none) → nh < 4 → nt < 2 →
    ∃ t, exec (.migrationRequest asid region nh nt frame) s = .next t ∧ t.mem = s.mem ∧
      SMap.get? (t.die (hmHome e)).slots k = some ⟨asid, region, nh, nt, frame, 0, s.nextId⟩ ∧
      (∀ c, (s.wg? c).isSome → s.asidOf c = asid → (s.nextId, asid, region * 2 ^ 21, 2 ^ 21) ∈ (t.core c).shoots) ∧
      t.homeEntry asid (region * 2 ^ 21) = BitVec.ofNat 32 (2 ^ 31 + 2 ^ 30 + hmHome e * 2 ^ 28 + hmTier e * 2 ^ 27 + nh * 2 ^ 25 + nt * 2 ^ 24 + k * 2 ^ 22)) ∧
  (∀ s asid region nh nt frame, s.ready = true → hmHost (s.homeEntry asid (region * 2 ^ 21)) = true →
    exec (.migrationRequest asid region nh nt frame) s = .next (s.emit (.refusedHomeMap asid region))) ∧
  (∀ s asid region nh nt frame e, s.ready = true → e = s.homeEntry asid (region * 2 ^ 21) → hmOk e = true → hmHost e = false → hmMig e = false →
    (SMap.lowestFree (s.die (hmHome e)).slots 4 = none ∨ ∃ ti, s.tenantOfAsid asid = some ti ∧ (s.tenant ti).cut ≠ none) →
    exec (.migrationRequest asid region nh nt frame) s = .next { s with migWait := s.migWait ++ [(asid, region, nh, nt, frame)] }) ∧
  (∀ s asid va len region nh nt frame entry, s.ready = false → exec (.homeMapChange asid region entry) s = .next s ∧ exec (.shootDownRequest asid va len) s = .next s ∧
    exec (.migrationRequest asid region nh nt frame) s = .next s) ∧
  (∀ s d k m, SMap.get? (s.die d).slots k = some m → (∃ p ∈ s.cores, ∃ q ∈ p.2.shoots, q.1 = m.told) → exec (.migrationLineMove d k) s = .next s) ∧
  (∀ s d k m l, SMap.get? (s.die d).slots k = some m → (∀ p ∈ s.cores, ∀ q ∈ p.2.shoots, q.1 ≠ m.told) → m.line + 1 < 2 ^ 14 → NothingHeld s →
    (s.die d).l2Find m.asid (m.region * 2 ^ 14 + m.line) = some l →
    ∃ t, exec (.migrationLineMove d k) s = .next t ∧ SMap.get? (t.die d).slots k = some { m with line := m.line + 1 } ∧
      (let dst := memKey m.newTier (m.newFrame + 128 * m.line)
       ∀ a, Mem.read t.mem a = if dst ≤ a ∧ a < dst + 128 then Mem.read s.mem (l.key + (a - dst)) else Mem.read s.mem a))

/-- R395 to R397, R399, R400: a cut reaches a core or a die, which moves to its generation; a source sends its marker once nothing of it is owed; with the
last marker the window closes; a page of a frozen generation is drained into the milestone area; a revert makes the live generation a new one.
Where an image lies in the area is the model's choice (log entry 55). -/
def Obligations.MilestonesAdvance : Prop :=
  (∀ s ti k n, (s.tenant ti).cut = some k → n ∈ k.coresToMove →
    ∃ t k', exec (.cutBroadcastReceive ti false n) s = .next t ∧ (t.core n).ms = (if s.holds ti n then max (s.core n).ms k.gen else (s.core n).ms) ∧ (t.tenant ti).cut = some k' ∧
      k' = { k with coresToMove := k.coresToMove.filter (· != n) } ∧ t.mem = s.mem) ∧
  (∀ s ti k n, (s.tenant ti).cut = some k → n ∈ k.diesToMove →
    ∃ t, exec (.cutBroadcastReceive ti true n) s = .next t ∧ (t.tenant ti).genAt n = max ((s.tenant ti).genAt n) k.gen ∧ t.mem = s.mem) ∧
  (∀ s ti k hub src die, (s.tenant ti).cut = some k → (hub, src, die) ∈ k.owe → (if hub then s.hubMarkerReady ti k.gen die else s.markerReady ti k.gen src die) = true →
    ∃ t, exec (.milestoneMarkerSend ti hub src die) s = .next t ∧ t.mem = s.mem ∧
      (t.tenant ti).cut = some { k with owe := k.owe.filter (· != (hub, src, die)), sent := k.sent ++ [(hub, src, die)] }) ∧
  (∀ s ti k hub src die, (s.tenant ti).cut = some k → (hub, src, die) ∈ k.sent →
    ∃ t, exec (.milestoneMarkerReceive ti hub src die) s = .next t ∧
      (k.owe ≠ [] → k.gen ≤ (t.tenant ti).genAt die ∧ t.mem = s.mem ∧
        ∃ k', (t.tenant ti).cut = some k' ∧ k'.owe = k.owe ∧ k'.sent = k.sent.filter (· != (hub, src, die))) ∧
      (k.owe = [] → k.sent = [(hub, src, die)] → k.diesToMove = [] → k.pkt = none → (s.tenant ti).snaps = [] →
        (t.tenant ti).cut = none ∧ (t.tenant ti).masks = [] ∧ t.mem = s.mem ∧ ∀ p, k.op = some p → ∀ c, ∀ e ∈ (t.core c).eng, e.id ≠ p.2)) ∧
  (∀ s ti f b page key, (s.tenant ti).toDrain = some f → f.base = some b → f.pages[f.drained.length]? = some (page, key) →
    (let at? := memKey 1 (b + 0x40 + f.drained.length * 65552)
     ∃ t f', exec (.milestoneDrainPage ti) s = .next t ∧ Mem.readNat t.mem at? 8 = page * 2 ^ 16 % 2 ^ 64 ∧
       (∀ i, i < 2 ^ 16 → Mem.read t.mem (at? + 16 + i) = (s.imageBytes (s.tenant ti) f f.drained.length page key).getD i 0) ∧
       (∀ a, ¬ (at? ≤ a ∧ a < at? + 65552) → Mem.read t.mem a = Mem.read s.mem a) ∧ f' ∈ (t.tenant ti).frozen ∧ f'.gen = f.gen ∧
       f'.drained = f.drained ++ [page])) ∧
  (∀ s q p f, (s.queue q).pkts.find? (fun p => p.ty == 6 && p.started) = some p → (∀ l ∈ s.launches, l.tenant = (s.queue q).tenant → l.stat ≠ .resident) →
    (s.tenant (s.queue q).tenant).cut = none → (s.tenant (s.queue q).tenant).snaps = [] → p.word 1 = 0 →
    (s.tenant (s.queue q).tenant).frozen.find? (fun f => f.gen == (p.word 2).toNat % 2 ^ 32) = some f →
    ∃ t, exec (.revertExecute q) s = .next t ∧
      (t.tenant (s.queue q).tenant).gen = max (s.tenant (s.queue q).tenant).maxGen (s.tenant (s.queue q).tenant).heard + 1 ∧ (t.tenant (s.queue q).tenant).dieGen = [] ∧
      (t.tenant (s.queue q).tenant).frozen = (s.tenant (s.queue q).tenant).frozen.filter (fun x => decide (x.gen ≤ f.gen)) ∧
      (∀ c, ∀ l ∈ (t.core c).l1, l.asid ≠ (s.tenant (s.queue q).tenant).cfg.asid) ∧ (∀ k ∈ (t.queue q).pkts, k.num ≠ p.num) ∧
      ∀ page key frame, f.pages = [(page, key)] → (∀ i < 512, s.byteNow (s.tenant (s.queue q).tenant) page key (128 * i) = frame + 128 * i) →
        ∀ i, i < 2 ^ 16 → Mem.read t.mem (frame + i) =
          (s.imageBytes (s.tenant (s.queue q).tenant) f 0 page key).getD i 0)

/-- R72, R401 to R407: the doorbell sets the write index where it is larger and no more packets than the ring holds are ahead; beyond that the queue halts with
cause 6, and at a packet of an unassigned type with cause 0. NOP; WAIT on a token slot or on memory whose condition holds, at once or later, and one that waits;
SIGNAL of a token slot or of memory; APPEND: each completes with what it does. -/
def Obligations.PacketsComplete : Prop :=
  ((∀ s q (v : BitVec 64), (s.queue q).mapped = true → (s.queue q).unmapping = false → s.ready = true → (s.queue q).writeIx < v.toNat →
     v.toNat ≤ (s.queue q).readIx + 2 ^ (s.queue q).log →
     ∃ t, exec (.queueDoorbell q v true) s = .next t ∧ t = { s with queues := t.queues } ∧
       ∀ r, t.queue r = if r = q then { s.queue q with writeIx := v.toNat } else s.queue r) ∧
   (∀ s q (v : BitVec 64), (s.queue q).mapped = true → (s.queue q).unmapping = false → s.ready = true → (s.queue q).writeIx < v.toNat →
     (s.queue q).readIx + 2 ^ (s.queue q).log < v.toNat →
     ∃ t r, exec (.queueDoorbell q v true) s = .next t ∧ (t.queue q).halted = true ∧
       (t.tenant (s.queue q).tenant).arriving = (s.tenant (s.queue q).tenant).arriving ++ [r] ∧ r.kind = 0xFF ∧ r.cause = 6 ∧ t.mem = s.mem) ∧
   (∀ s q p, s.headPkt q = some (.ok p) → 9 ≤ p.ty → ∃ t, exec (.unassignedPacket q) s = .next t ∧ QueueHalted s t q 0)) ∧
  ((∀ s q p, AtPacket s q 0 p → (∀ i, 1 ≤ i → i ≤ 6 → p.word i = 0) →
     ∃ t, exec (.nopPacket q) s = .next t ∧ PacketEnded s t q p (p.num + 1)) ∧
   (∀ s q p cond, AtPacket s q 2 p → cond < 4 → (p.word 3).toNat = 9 + 2 * cond → (∀ i, 4 ≤ i → i ≤ 6 → p.word i = 0) → (p.word 1).toNat < 0xFFF →
     (waitHolds cond (s.token (s.queue q).tenant (p.word 1).toNat) (p.word 2) →
       ∃ t, exec (.waitPacket q) s = .next t ∧ PacketEnded s t q p (p.num + 1)) ∧
     (¬ waitHolds cond (s.token (s.queue q).tenant (p.word 1).toNat) (p.word 2) →
       ∃ t, exec (.waitPacket q) s = .next t ∧ t.queue q = { s.queue q with pkts := (s.queue q).pkts ++ [p] } ∧ t.mem = s.mem)) ∧
   (∀ s q p cond wide u bs, AtPacket s q 2 p → cond < 4 → (p.word 3).toNat = (if wide then 8 else 0) + 2 * cond → (wide = false → p.high 2 = 0) →
     (∀ i, 4 ≤ i → i ≤ 6 → p.word i = 0) → (p.word 1).toNat % 8 = 0 → vaOk (p.word 1) = true → isWindow (p.word 1).toNat = false →
     (s.hubHearHome (s.queue q).tenant (p.word 1).toNat).readRun (s.tenant (s.queue q).tenant).cfg.asid (p.word 1).toNat (if wide then 8 else 4) =
       (u, .ok bs) →
     waitHolds cond (BitVec.ofNat 64 (bytesToNat bs)) (p.word 2) →
     ∃ t, exec (.waitPacket q) s = .next t ∧ PacketEnded u t q p (p.num + 1)) ∧
   (∀ s q p u, (s.queue q).pkts.find? (fun p => !p.started && p.ty == 2) = some p → (s.queue q).halted = false → (s.queue q).unmapping = false → (s.queue q).resetting = false →
     s.waitLook q p = (u, .ok true) →
     ∃ t, exec (.waitConditionMet q) s = .next t ∧ PacketEnded u t q p (p.num + 1)) ∧
   (∀ s q p (add : Bool), AtPacket s q 3 p → (p.word 3).toNat = 9 + (if add then 2 else 0) → (∀ i, 4 ≤ i → i ≤ 6 → p.word i = 0) → (p.word 1).toNat < 0xFFF →
     ∃ t u, exec (.signalPacket q) s = .next t ∧ PacketEnded u t q p (p.num + 1) ∧ u = { s with tenants := u.tenants } ∧
       ∀ n, u.token (s.queue q).tenant n = if n = (p.word 1).toNat then (if add then s.token (s.queue q).tenant n + p.word 2 else p.word 2)
         else s.token (s.queue q).tenant n) ∧
   (∀ s q p (wide add : Bool) z bs v u, AtPacket s q 3 p → (p.word 3).toNat = (if wide then 8 else 0) + (if add then 2 else 0) → (wide = false → p.high 2 = 0) →
     (∀ i, 4 ≤ i → i ≤ 6 → p.word i = 0) → (p.word 1).toNat % 8 = 0 → vaOk (p.word 1) = true → isWindow (p.word 1).toNat = false →
     (add = false → z = s ∧ bs = []) →
     (add = true → s.readRun (s.tenant (s.queue q).tenant).cfg.asid (p.word 1).toNat (if wide then 8 else 4) = (z, .ok bs)) →
     v = z.hubHearHome (s.queue q).tenant (p.word 1).toNat →
     v.writeRun (s.tenant (s.queue q).tenant).cfg.asid (p.word 1).toNat (v.tenant (s.queue q).tenant).hubGen
       (natToBytes (if wide then 8 else 4) (bytesToNat bs + (p.word 2).toNat)) = (u, none) →
     ∃ t, exec (.signalPacket q) s = .next t ∧ PacketEnded u t q p (p.num + 1)) ∧
   (∀ s q p l, AtPacket s q 7 p → (∀ i, 3 ≤ i → i ≤ 6 → p.word i = 0) → (p.word 2).toNat < 2 ^ 33 →
     s.launches.find? (fun l => l.tenant == (s.queue q).tenant && l.lid == p.word 1 && l.rcd.stream) = some l → l.disp.ended = false →
     l.disp.extent + (p.word 2).toNat % 2 ^ 32 < 2 ^ 32 →
     ∃ t u, exec (.appendPacket q) s = .next t ∧ PacketEnded u t q p (p.num + 1) ∧ u = { s with launches := u.launches } ∧
       ∃ l', u.launch? l.uid = (s.launch? l.uid).map (fun k => { k with disp := { k.disp with
         extent := k.disp.extent + (p.word 2).toNat % 2 ^ 32, ended := decide (2 ^ 32 ≤ (p.word 2).toNat) } }) ∧ l' ∈ u.launches ∧ l'.uid = l.uid))

/-- R402, R394, R400, R407, R433: COPY, SNAP, REVERT and DUMP_RESUME start, or complete at once where they cannot; the hub's copy ends its packet when it has
met no fault.
That a copy is performed whole, and that a SNAP which waits behind an open window counts as a frozen generation at once, are the model's choices (log entries 70, 55). -/
def Obligations.PacketsStart : Prop :=
  (∀ s q p, AtPacket s q 4 p → (∀ i, 4 ≤ i → i ≤ 6 → p.word i = 0) → isWindow (p.word 1).toNat = false → isWindow (p.word 2).toNat = false →
    ∃ t, exec (.copyPacket q) s = .next t ∧ PacketStarted s t q p ∧ t = { s with queues := t.queues }) ∧
  (∀ s q n p u, (s.queue q).pkts.find? (fun p => p.num == n && p.started && p.ty == 4) = some p → p.fault = none →
    s.hubCopy (s.queue q).tenant (p.word 1).toNat (p.word 2).toNat (p.word 3).toNat = (u, none) →
    (u.queue q).unmapping = false → (u.queue q).resetting = false →
    ∃ t, exec (.hubCopyComplete q n) s = .next t ∧ PacketEnded u t q p (u.queue q).readIx) ∧
  (∀ s q p, AtPacket s q 5 p → (∀ i, 2 ≤ i → i ≤ 6 → p.word i = 0) → (p.word 1).toNat % 4 = 0 →
    ((s.tenant (s.queue q).tenant).generations < 4 →
      ∃ t, exec (.snapPacket q) s = .next t ∧ PacketStarted s t q p ∧ t.mem = s.mem ∧
        ∃ f, (t.tenant (s.queue q).tenant).frozen = (s.tenant (s.queue q).tenant).frozen ++ [f] ∧ f.done = false ∧
          f.gen = (s.tenant (s.queue q).tenant).gen + (s.tenant (s.queue q).tenant).snaps.length) ∧
    (4 ≤ (s.tenant (s.queue q).tenant).generations → p.word 1 = 0 →
      ∃ t, exec (.snapPacket q) s = .next t ∧ PacketEnded s t q p (p.num + 1))) ∧
  (∀ s q p, AtPacket s q 6 p → (∀ i, 3 ≤ i → i ≤ 6 → p.word i = 0) → (p.word 2).toNat < 2 ^ 32 → (p.word 1).toNat % 4 = 0 →
    ((∃ f ∈ (s.tenant (s.queue q).tenant).frozen, f.gen = (p.word 2).toNat) →
      ∃ t, exec (.revertPacket q) s = .next t ∧ PacketStarted s t q p ∧ t = { s with queues := t.queues }) ∧
    ((∀ f ∈ (s.tenant (s.queue q).tenant).frozen, f.gen ≠ (p.word 2).toNat) → p.word 1 = 0 →
      ∃ t, exec (.revertPacket q) s = .next t ∧ PacketEnded s t q p (p.num + 1))) ∧
  (∀ s q p l c w h, AtPacket s q 8 p → (∀ i, 3 ≤ i → i ≤ 6 → p.word i = 0) → (p.word 2).toNat < 2 ^ 32 →
    s.launches.find? (fun l => l.tenant == (s.queue q).tenant && l.lid == p.word 1) = some l → s.ownerCore l.uid (p.word 2).toNat = some c →
    s.wg? c = some w → w.halt = some h → h.stopped = true →
    ∃ t, exec (.dumpResumePacket q) s = .next t ∧ PacketStarted s t q p ∧ (t.wg? c).map (·.halt) = some (some { h with stopped := false }) ∧ t.mem = s.mem)
/-- R402, R408, R410: a LAUNCH packet whose record breaks no rule stands at the head of its queue as a pending launch; one that breaks some completes at once,
with the code of one of them in its completion record.
Which of several codes is reported is a free value (log entry 26). -/
def Obligations.LaunchesPend : Prop :=
  (∀ s q p bs, AtPacket s q 1 p → (∀ i, 5 ≤ i → i ≤ 7 → p.word i = 0) → (p.word 1).toNat % 256 = 0 → isWindow (p.word 1).toNat = false →
    (p.word 2).toNat % 32 = 0 → s.readVa (s.tenant (s.queue q).tenant).cfg.asid (p.word 1).toNat 256 = .ok bs →
    (s.refusals (s.queue q).tenant (p.word 4) none (recordOf bs) = [] →
      ∃ t l, exec (.launchPacket q) s = .next t ∧ t.launches = s.launches ++ [l] ∧ t.queue q = { s.queue q with pkts := (s.queue q).pkts ++ [p] } ∧
        t.mem = s.mem ∧ t.cores = s.cores ∧ l.stat = .pending ∧ l.tenant = (s.queue q).tenant ∧ l.lid = p.word 4 ∧ l.done = p.word 2 ∧ l.queue = q ∧
        l.num = p.num ∧ l.rcd = recordOf bs ∧ l.kills = 0 ∧ l.flags = 0 ∧ l.code = none) ∧
    (s.refusals (s.queue q).tenant (p.word 4) none (recordOf bs) ≠ [] →
      ∃ c ∈ s.refusals (s.queue q).tenant (p.word 4) none (recordOf bs),
        (p.word 2 = 0 → ∃ t, exec (.launchPacket q) s = .next t ∧ PacketEnded s t q p (p.num + 1)) ∧
        ∀ u, p.word 2 ≠ 0 → (s.startPkt q p).hubWrite (s.queue q).tenant (p.word 2).toNat (natToBytes 4 1 ++ natToBytes 4 c ++ natToBytes 8 0 ++
            natToBytes 8 (p.word 4).toNat ++ natToBytes 8 0) = (u, none) → (u.queue q).unmapping = false → (u.queue q).resetting = false →
          ∃ t, exec (.launchPacket q) s = .next t ∧ PacketEnded u t q p (u.queue q).readIx)) ∧
  ∀ s l p bs, s.launch? l.uid = some l → s.nextLaunch = some l → l.stat = .pending →
    (s.queue l.queue).pkts.find? (fun p => p.num == l.num) = some p → s.readVa (s.tenant l.tenant).cfg.asid l.recAddr.toNat 256 = .ok bs →
    s.refusals l.tenant l.lid (some l.uid) (recordOf bs) = [] → (∀ c ∈ (recordOf bs).part, s.coreFree c = true) →
    ∃ t l', exec (.launchAdmission l.uid) s = .next t ∧ t.launch? l.uid = some l' ∧ l'.stat = .resident ∧ l'.rcd = recordOf bs ∧ l'.lid = l.lid ∧
      t.mem = s.mem ∧ PacketStarted s t l.queue p ∧
      ∀ i c, (recordOf bs).part[i]? = some c → Seated t c l.uid i (i / (recordOf bs).gangSize) (i % (recordOf bs).gangSize) (recordOf bs)

/-- R385, R413 to R419: a pending launch pre-empts those of lower priority on the cores it needs; a core saves its workgroup once its work allows it; a saved
launch goes on whole, each workgroup with what it had; a workgroup that a fault switched out goes on at its own core, or has it freed first. -/
def Obligations.LaunchesSwitch : Prop :=
  (∀ s l cs, s.launch? l.uid = some l → s.canTake l = false → NeedsFrom s l cs →
    ∃ t, exec (.preemption l.uid) s = .next t ∧ Preempted s t fun u => ∃ c ∈ cs, ∃ h, s.holder c = some h ∧ h.uid = u) ∧
  (∀ s c w l, s.wg? c = some w → s.launchOf c = some l → w.saving = true → w.retired = false → MatrixIdle w → AllInSession s →
    s.saveReady c w l = true →
    ∃ t l' v, exec (.contextSave c) s = .next t ∧ t.wg? c = none ∧ t.mem = s.mem ∧ t.launch? l.uid = some l' ∧ l'.saved = l.saved ++ [v] ∧ Kept w v.wg ∧
      v.core = c ∧ v.ms = (s.core c).ms ∧ v.reason = w.saveReason ∧ v.wg.saving = false ∧ v.wg.halt = w.halt.map (fun h => { h with ck := none }) ∧
      v.pending = w.kept ∧ v.wg.kept = [] ∧ v.wg.excs = w.excs) ∧
  (∀ s l ps, s.launch? l.uid = some l → s.nextLaunch = some l → l.stat = .saved → s.placement l s.coreFree = some ps →
    (l.saved.map fun v => v.wg.wgno).Nodup → (ps.map (·.2)).Nodup →
    ∃ t l', exec (.launchResume l.uid) s = .next t ∧ t.launch? l.uid = some l' ∧ l'.stat = .resident ∧
      (∀ v ∈ l.saved, v.reason = 0 ∨ s.answeredOut v = true → ∃ d w, (v.wg.wgno, d) ∈ ps ∧ t.wg? d = some w ∧ Kept v.wg w ∧ (t.core d).l1 = []) ∧
      ∀ v ∈ l.saved, ¬ (v.reason = 0 ∨ s.answeredOut v = true) → ∃ d, (v.wg.wgno, d) ∈ ps ∧ ∃ v' ∈ l'.saved, v'.core = d ∧ Kept v.wg v'.wg) ∧
  (∀ s l v, s.launch? l.uid = some l → l.saved.find? (fun x => x.wg.wgno == v.wg.wgno && x.reason == 1) = some v → s.answeredOut v = true → l.stat = .resident →
    s.beingSaved l.uid = false →
    (s.coreFree v.core = true ∨ v.claim = true ∧ s.coreVacant v.core = true → ∃ t w, exec (.faultResume l.uid v.wg.wgno) s = .next t ∧ t.wg? v.core = some w ∧ Kept v.wg w ∧ (t.core v.core).l1 = []) ∧
    ∀ h, s.coreFree v.core = false → s.holder v.core = some h → h.uid ≠ l.uid →
      ∃ t, exec (.faultResume l.uid v.wg.wgno) s = .next t ∧ Preempted s t (fun u => u = h.uid) ∧ t.claimed v.core = true)

/-- R79, R128, R310, R420, R427: a core whose workgroup has retired, or stands dumped in a launch that ends, leaves the launch once its tracker is empty; with the
last one the launch completes, its record is written, and its packet ends. A result in flight reaches its registers, where no later one does, and its counter goes
down. -/
def Obligations.LaunchesComplete : Prop :=
  (∀ s c w l, s.wg? c = some w → s.launchOf c = some l →
    ((w.halt = none ∧ w.retired = true) ∨ ∃ h, w.halt = some h ∧ w.allEnded = false ∧ l.halting = true ∧ s.drained c w = true ∧ (h.dumps = false ∨ h.dumpDone = true ∨ h.noSlot = true)) →
    s.trackerEmpty w = true → MatrixIdle w → (∀ m ∈ l.mchecks, m.1 ≠ w.gang) →
    ((∃ d, d ≠ c ∧ ∃ x, s.wg? d = some x ∧ x.launch = l.uid) → ∃ t, exec (.retirementTrackerEmpty c) s = .next t ∧ CoreLeft s t c l w) ∧
    ∀ p, (∀ d x, s.wg? d = some x → x.launch = l.uid → d = c) → l.saved = [] → l.killed = [] → l.stat = .resident → s.profOk l = false →
      (s.queue l.queue).pkts.find? (fun p => p.num == l.num) = some p → (s.queue l.queue).unmapping = false → (s.queue l.queue).resetting = false →
      ∃ t u, exec (.retirementTrackerEmpty c) s = .next t ∧ u.mem = s.mem ∧ u.queues = s.queues ∧
        (∀ i, u.tenant i = if i = l.tenant then { s.tenant i with busy := (s.tenant i).busy + (l.left.map fun v => busyOf v.hist).sum + busyOf w.histogram } else s.tenant i) ∧ t.wg? c = none ∧
        t.launch? l.uid = none ∧
        (l.done = 0 → PacketEnded u t l.queue p (s.queue l.queue).readIx) ∧
        ∀ v, l.done ≠ 0 → (v.queue l.queue).unmapping = false → (v.queue l.queue).resetting = false →
          u.hubWrite (s.queue l.queue).tenant l.done.toNat (natToBytes 4 (if l.code = none then 0 else 2) ++ natToBytes 4 ((l.code.map (·.1)).getD 0) ++
            natToBytes 4 (l.flags ||| w.allGroups.foldl (fun f g => f ||| g.flags) w.flags).toNat ++ natToBytes 4 l.kills ++ natToBytes 8 l.lid.toNat ++
            natToBytes 4 (if l.preDone then 1 else 0) ++ natToBytes 4 l.nodump) = (v, none) → PacketEnded v t l.queue p (v.queue l.queue).readIx) ∧
  ∀ s c w f, s.wg? c = some w → w.flights.find? (·.id == f.id) = some f →
    ∃ t w', exec (.fixedLatencyResult c f.id) s = .next t ∧ t.mem = s.mem ∧ t.wg? c = some w' ∧
      w'.flights.map (·.id) = (w.flights.filter (·.id != f.id)).map (·.id) ∧ (f.var = false → f.due ≤ (t.core c).ck) ∧
      (∀ slot r v, r < 256 → (f.vals.map (·.1)).Nodup → (.vec slot r, v) ∈ f.vals →
        (∀ g ∈ w.flights, g.id ≠ f.id → g.openAt (if f.var then (s.core c).ck else f.due) = true → g.val? (.vec slot r) = none) → w'.vreg slot r = v) ∧
      (∀ slot r, r < 256 → f.val? (.vec slot r) = none → w'.vreg slot r = w.vreg slot r) ∧
      ((∀ slot p, f.val? (.pred slot p) = none) → w'.threads = w.threads) ∧
      ∀ g y, w.group? g = some y → ∃ y', w'.group? g = some y' ∧ ((∀ r, f.val? (.sca y.uid r) = none) → y'.sregs = y.sregs) ∧
        ∀ k, k ≠ 0 → y'.ct k = if y.uid = f.uid ∧ k = f.ct then y.ct k - 1 else y.ct k

/-- R434 to R436, R427: the kill of a gang takes its workgroups off their cores and leaves the gang to be started again, unless the launch ends; the gang starts
again, fresh, once nothing of it runs and its cores are free; a halt broadcast halts a workgroup without a dump (under a valid debug capability with an event as well,
of which nothing is stated).
Which members come back, and when a reservation fails, are the model's choices (log entries 59, 14). -/
def Obligations.GangsKilled : Prop :=
  (∀ s l g code, s.launch? l.uid = some l → l.mchecks.find? (fun m => m.1 == g) = some (g, code) → s.gangCores l.uid g ≠ [] → l.halting = false →
    ∃ t l' k, exec (.gangKill l.uid g) s = .next t ∧ t.launch? l.uid = some l' ∧ l'.mchecks = l.mchecks.filter (fun m => m.1 != g) ∧
      l'.killed = l.killed ++ [k] ∧ k.gang = g ∧ k.code = code ∧ (∀ c ∈ s.gangCores l.uid g, t.wg? c = none ∧ ∃ m ∈ k.members, m.1 = c) ∧
      (s.lArrived l.uid = true → l'.halting = true ∧ l'.code = l.code.orElse fun _ => some (cResampleAborted, (s.gangCores l.uid g).headD 0)) ∧
      (s.lArrived l.uid = false → 16 ≤ l.kills + l.killed.length ∨ l.lStepDone = true →
        l'.halting = true ∧ l'.code = l.code.orElse fun _ => some (code, (s.gangCores l.uid g).headD 0)) ∧
      (l'.halting = true → s.lArrived l.uid = true ∨ 16 ≤ l.kills + l.killed.length ∨ l.lStepDone = true ∨ Config.reservationFails s.free = true)) ∧
  (∀ s l k, s.launch? l.uid = some l → l.killed.find? (fun x => x.gang == k.gang) = some k → (∀ m ∈ k.members, s.outstanding l.uid m.2.wgno true = false) →
    l.halting = false → l.stat = .resident → s.beingSaved l.uid = false → (k.members.map (·.1)).Nodup →
    (∀ m ∈ k.members, s.wg? m.1 = none ∧ s.coreOn m.1 = true ∧ s.claimed m.1 = false ∧
      ∀ l2 ∈ s.launches, ∀ k2 ∈ l2.killed, (l2.uid = l.uid ∧ k2.gang = k.gang) ∨ ∀ m2 ∈ k2.members, m2.1 ≠ m.1) →
    ∃ t l', exec (.gangRelaunch l.uid k.gang) s = .next t ∧ t.launch? l.uid = some l' ∧ l'.kills = l.kills + 1 ∧
      l'.killed = l.killed.filter (fun x => x.gang != k.gang) ∧ t.mem = s.mem ∧
      ∀ m ∈ k.members, Seated t m.1 l.uid m.2.wgno k.gangNo m.2.rank l.rcd) ∧
  ∀ s c w l, (s.core c).haltMsg = true → s.wg? c = some w → s.launchOf c = some l → s.dbgOk l = false →
    ∃ t, exec (.haltBroadcastReceive c) s = .next t ∧ t = { s with cores := t.cores } ∧ (t.core c).haltMsg = false ∧
      (w.halt = none → w.retired = false → ∃ h, t.wg? c = some { w with halt := some h } ∧ h.reason = 2 ∧ h.dumps = false) ∧
      (¬ (w.halt = none ∧ w.retired = false) → t.wg? c = some w) ∧ ∀ d, d ≠ c → t.core d = s.core d

/-- R429 to R433: the dump of a halted workgroup: once its work has drained it takes a free slot of its tenant's area, or is counted as not written where there
is none; then its header, each section that fits, and the header again, with what the sections have become.
The layout of the barrier section and of omitted sections, and that an exception which comes later has the first sections written anew, are the model's choices (log
entries 6, 104). -/
def Obligations.DumpsWritten : Prop :=
  (∀ s c w l h, s.wg? c = some w → s.launchOf c = some l → w.halt = some h → h.dumps = true → h.dumpDone = false → h.noSlot = false → h.stopped = false →
    h.slot = none → MatrixIdle w → s.drained c w = true → s.dbgOk l = false →
    (∀ va, s.freeSlot l.tenant = some va → ∃ t h', exec (.dumpWrite c) s = .next t ∧ t = { s with cores := t.cores } ∧ HaltIs t c h' ∧ h'.slot = some va ∧
      h'.image.length = 11 ∧ h'.image.map (·.1) = List.range 11 ∧ h'.place = h.place) ∧
    (s.freeSlot l.tenant = none → ∃ t l', exec (.dumpWrite c) s = .next t ∧ t.mem = s.mem ∧ HaltIs t c { h with noSlot := true } ∧
      t.launch? l.uid = some l' ∧ l'.nodump = l.nodump + 1)) ∧
  ∀ s c w l h va, s.wg? c = some w → s.launchOf c = some l → w.halt = some h → h.dumps = true → h.dumpDone = false → h.noSlot = false → h.stopped = false →
    h.slot = some va →
    (∀ u h1, h.place = none → h1 = { h with place := some (0, 0), dseq := some (s.core h.core).seq.toNat } →
      s.hubWrite l.tenant va (s.dumpHead l w h.code h1) = (u, none) → (u.wg? c).isSome = true →
      ∃ t, exec (.dumpWrite c) s = .next t ∧ t.mem = u.mem ∧ HaltIs t c h1 ∧ (t.core h.core).seq = (u.core h.core).seq + 1) ∧
    (∀ n off, h.place = some (n, off) → (h.image.getD 0 (0, [])).2.length ≠ 16 * w.excs.length →
      ∃ t, exec (.dumpWrite c) s = .next t ∧ t.mem = s.mem ∧
        HaltIs t c { h with image := (List.range 2).zip w.excSections ++ h.image.drop 2, place := some (0, 0) }) ∧
    (∀ n off sec, h.place = some (n, off) → (h.image.getD 0 (0, [])).2.length = 16 * w.excs.length → n < 11 → (placeSections (s.tenant l.tenant).cfg.slotSize 4096 (h.image.map fun p => p.2.length))[n]? = some sec →
      (sec.2.2 = false → ∃ t, exec (.dumpWrite c) s = .next t ∧ t.mem = s.mem ∧ HaltIs t c { h with place := some (n + 1, 0) }) ∧
      ∀ u bs, sec.2.2 = true → (h.image.map (·.2))[n]? = some bs → s.hubWrite l.tenant (va + sec.1 + off) (bs.drop off) = (u, none) → (u.wg? c).isSome = true →
        ∃ t, exec (.dumpWrite c) s = .next t ∧ t.mem = u.mem ∧ HaltIs t c { h with place := some (n + 1, 0) }) ∧
    ∀ n off u, h.place = some (n, off) → (h.image.getD 0 (0, [])).2.length = 16 * w.excs.length → 11 ≤ n →
      s.hubWrite l.tenant va (s.dumpHead l w h.code h) = (u, none) → (u.wg? c).isSome = true →
      u.dbgOk l = false → ∃ t, exec (.dumpWrite c) s = .next t ∧ t.mem = u.mem ∧ HaltIs t c { h with dumpDone := true, image := [] }
/-- R439, R427, R442: the debug commands, each through a reference that is valid: STOP halts the workgroups it names with BREAKPOINT at each group's next word;
RESUME lets a workgroup halted by a stop, a BREAKPOINT or a TRAP issue again; END ends the launch; TRESUME lets a suspended trace go on.
What RESUME does with a dump under way, and the slot of a parked group's BREAKPOINT, are the model's choices (log entries 67, 103). -/
def Obligations.DebugCommands : Prop :=
  (∀ s wg lid cap l, s.debugTarget lid cap = some l →
    ∃ t, exec (.debugStop wg lid cap) s = .next t ∧ t.mem = s.mem ∧ ∀ c w, s.wg? c = some w →
      (w.launch = l.uid → Named wg w → w.halt = none → w.retired = false → ∃ h, h.reason = 1 ∧ h.dumps = true ∧ h.dumpDone = false ∧ h.slot = none ∧
        h.core = c ∧ t.wg? c = some { w with halt := some h, excs := w.excs ++ (w.groups.map fun p => ⟨0x51, 0, p.1, laneMask (lanesOf p.2) % 2 ^ 32, p.2.pc⟩) ++
          (w.parked.map fun p => ⟨0x51, 0, 0xFF, laneMask (lanesOf p.group) % 2 ^ 32, p.group.pc⟩) }) ∧
      (¬ (w.launch = l.uid ∧ Named wg w ∧ w.halt = none ∧ w.retired = false) → t.wg? c = some w)) ∧
  (∀ s wg lid cap l u, s.debugTarget lid cap = some l → l.halting = false → u = (s.namedWgs l wg Wg.resumable).foldl (fun v w => v.announce l w) s →
    ∃ t, exec (.debugResume wg lid cap) s = .next t ∧ t.mem = u.mem ∧ ∀ c w, u.wg? c = some w →
      (∀ h, w.launch = l.uid → Named wg w → w.halt = some h → h.reason = 1 ∨ h.reason = 0 ∧ (h.code = 0x50 ∨ h.code = 0x51) →
        (t.core c).loop = [] ∧ ∃ w', t.wg? c = some w' ∧ IssuesAgain w w') ∧
      ((w.launch = l.uid → Named wg w → ∀ h, w.halt = some h → ¬ (h.reason = 1 ∨ h.reason = 0 ∧ (h.code = 0x50 ∨ h.code = 0x51))) → t.wg? c = some w)) ∧
  (∀ s lid cap l, s.debugTarget lid cap = some l → s.launch? l.uid = some l → (∃ d x, s.wg? d = some x ∧ x.launch = l.uid) →
    ∃ t l', exec (.debugEnd lid cap) s = .next t ∧ t.mem = s.mem ∧ t.launch? l.uid = some l' ∧ l'.halting = true ∧
      l'.code = (l.code.orElse fun _ => some ((s.firstExc l).getD (0x51, 512))) ∧
      ∀ d x, s.wg? d = some x → x.launch = l.uid → (∀ k, s.firstExc l ≠ some (k, d)) → d < 512 → (t.core d).haltMsg = true ∧ t.wg? d = some x) ∧
  (∀ s lid cap l, s.debugTarget lid cap = some l → s.launch? l.uid = some l →
    ∃ t l', exec (.debugTresume lid cap) s = .next t ∧ t = { s with launches := t.launches } ∧ t.launch? l.uid = some l' ∧ l'.traceOff = false ∧
      l'.gapDue = (l.gapDue || l.traceOff) ∧ l'.dropped = l.dropped)

/-- R437, R438, R451: minting takes a free slot for a tenant that exists; delegating gives a subset of a live slot's rights to a child; revoking ends a slot and all
its descendants; a page reaches its own tenant's slots only.
The count of lost trace records that a slot keeps is the model's (log entry 102). -/
def Obligations.CapabilitiesHeld : Prop :=
  (∀ s r, s.ready = true → (s.tenant r.tenant).live = true → (∃ n < 2 ^ 16, ∀ x ∈ s.caps, x.slot ≠ n) →
    ∃ t k, exec (.capabilityMint r) s = .next t ∧ Granted s t k ∧ k.tenant = r.tenant ∧ k.dbg = r.dbg ∧ k.trace = r.trace ∧ k.prof = r.prof ∧ k.parent = none ∧
      k.process = r.process ∧ k.buf = r.buf ∧ k.entries = r.entries ∧ k.trcBuf = r.trcBuf ∧ k.trcEntries = r.trcEntries ∧ k.profBuf = r.profBuf) ∧
  (∀ s r p, s.ready = true → s.capSlot? r.parent = some p → p.tenant = r.page → s.capLive (s.caps.length + 1) r.parent = true → (r.dbg = true → p.dbg = true) →
    (r.trace = true → p.trace = true) → (r.prof = true → p.prof = true) → (∃ n < 2 ^ 16, ∀ x ∈ s.caps, x.slot ≠ n) →
    ∃ t k, exec (.capabilityDelegate r) s = .next t ∧ Granted s t k ∧ k.tenant = p.tenant ∧ k.dbg = r.dbg ∧ k.trace = r.trace ∧ k.prof = r.prof ∧
      k.parent = some r.parent ∧ k.process = r.process ∧ k.buf = p.buf ∧ k.entries = p.entries ∧ k.trcBuf = p.trcBuf ∧ k.trcEntries = p.trcEntries ∧ k.profBuf = p.profBuf) ∧
  (∀ s n k, s.capSlot? n.slot = some k → k.tenant = n.page → ∃ t, exec (.capabilityRevoke n) s = .next t ∧
    t.caps.map (fun k => { k with lost := 0 }) = (s.caps.filter fun k => !s.descends n.slot (s.caps.length + 1) k.slot).map (fun k => { k with lost := 0 })) ∧
  ∀ s n, (∀ k, s.capSlot? n.slot = some k → k.tenant ≠ n.page) → exec (.capabilityRevoke n) s = .next s

/-- R445, R446, R398, R448, R469, R476: the host reads and writes the first tier byte by byte, in order, sees a confidential tenant's frames only enciphered in data units
of 32 bytes, and cannot write them; a write whose page finds the milestone pool empty is held, with later ones to that page behind it; the host numbers the module
once; it reads the count of what was refused.
That the writes behind a held one are held page by page, the cipher as a free function of its unit, and what a byte of a pinned reservation reads as are the model's
choices (log entries 101, 13, 27). -/
def Obligations.HostAccesses : Prop :=
  (∀ s pa, s.ready = true → pa < 4 * Config.hbmPerDie →
    (s.confKey pa = none → (s.pinnedAt pa = none → exec (.hostCxlMemAccess pa none) s = .next { s with out := s.out ++ [.hostRead pa (tierByte s pa)] }) ∧
      ∀ l n b, s.pinnedAt pa = some (l, n) → s.pinnedByte l n = some b → exec (.hostCxlMemAccess pa none) s = .next { s with out := s.out ++ [.hostRead pa b] }) ∧
    (∀ k, s.confKey pa = some k → exec (.hostCxlMemAccess pa none) s =
      .next { s with out := s.out ++ [.hostRead pa (Config.cipherUnit k (pa / 32) ((List.range 32).map fun i => s.plainByte (pa / 32 * 32 + i)) (pa % 32))] }) ∧
    (∀ k b, s.confKey pa = some k → ∃ t, exec (.hostCxlMemAccess pa (some b)) s = .next t ∧ t = { s with security := t.security } ∧
      t.security.toNat = if s.security.toNat % 2 ^ 31 = 2 ^ 31 - 1 then s.security.toNat else s.security.toNat + 1) ∧
    (∀ b, s.confKey pa = none → s.mappedAt (memKey 0 pa) = none → ∃ t, exec (.hostCxlMemAccess pa (some b)) s = .next t ∧ tierByte t pa = b ∧
      (∀ k, k ≠ memKey 0 pa → Mem.read t.mem k = Mem.read s.mem k) ∧ t.cores = s.cores ∧ t.out = s.out) ∧
    (∀ b ti va t, s.confKey pa = none → s.mappedAt (memKey 0 pa) = some (ti, va) →
      (∀ h ∈ s.heldWrites, h.asid = (s.tenant ti).cfg.asid → h.va / 2 ^ 16 ≠ va / 2 ^ 16) →
      s.homeWrite (s.tenant ti).cfg.asid va (memKey 0 pa) [b] (s.tenant ti).hubGen false = some t →
      exec (.hostCxlMemAccess pa (some b)) s = .next (t.hubHearHome ti va)) ∧
    ∀ b ti va, s.confKey pa = none → s.mappedAt (memKey 0 pa) = some (ti, va) →
      (∃ h ∈ s.heldWrites, h.asid = (s.tenant ti).cfg.asid ∧ h.va / 2 ^ 16 = va / 2 ^ 16) ∨
        s.homeWrite (s.tenant ti).cfg.asid va (memKey 0 pa) [b] (s.tenant ti).hubGen false = none →
      ∃ t, exec (.hostCxlMemAccess pa (some b)) s = .next t ∧ t.mem = s.mem ∧ t.cores = s.cores ∧
        t.heldWrites = s.heldWrites ++ [⟨s.nextId, (s.tenant ti).hubGen, (s.tenant ti).cfg.asid, va, .host pa b⟩]) ∧
  (∀ s v, s.ready = true → s.devNumSet = false → exec (.deviceNumberWrite v) s = .next { s with devNum := v, devNumSet := true }) ∧
  (∀ s v, s.ready = true → s.devNumSet = true → exec (.deviceNumberWrite v) s = .next s) ∧
  ∀ s, exec .securityCounterRead s = .next { s with security := s.security &&& 0x7FFFFFFF, out := s.out ++ [.securityRead s.security] }

/-- R452, R453, R469: tenants are created with their entry, confidential ones with a key, and deleted, their
confidential frames zeroed, unless a queue or a launch names them; queues are mapped empty, unless a field is illegal, reset and unmapped; a write of a register of a
free tenant entry sets its field, or creates the tenant, of a live one that would change a field is refused, and one that clears the state deletes it; a write of a
register of a queue does as much; R454: a write of a tenant's fault-answer register answers, unless a reserved bit of it is set.
When frames are zeroed, and the end of the capabilities, are the model's choice (log entry 71); a write of a register whose reserved bits are not zero is left
out but for R454's (log entry 91). -/
def Obligations.TenantsAndQueues : Prop :=
  (∀ s n cfg, s.ready = true → n < 16 → (s.tenant n).live = false →
    ∃ t, exec (.tenantCreate n cfg) s = .next t ∧ (t.tenant n).live = true ∧ (t.tenant n).cfg = fitCfg cfg ∧ (t.tenant n).gen = 0 ∧ (t.tenant n).tokens = [] ∧
      (t.tenant n).key.isSome = cfg.conf ∧ t.devNumSet = true ∧ t.mem = s.mem ∧ ∀ m, m ≠ n → t.tenant m = s.tenant m) ∧
  (∀ s n, s.ready = true → (s.tenant n).live = true → (∀ q ∈ s.queues, ¬ (q.2.mapped = true ∧ q.2.tenant = n)) → (∀ l ∈ s.launches, l.tenant ≠ n) →
    ∃ t, exec (.tenantDelete n) s = .next t ∧ (t.tenant n).live = false ∧ (t.tenant n).key = none ∧ t.caps = s.caps.filter (fun k => k.tenant != n) ∧
      ((s.tenant n).cfg.conf = false → t.mem = s.mem) ∧
      ((s.tenant n).cfg.conf = true → ∀ k, Mem.read t.mem k =
        if (∃ p ∈ s.mappedPages (s.tenant n), p.2 ≤ k ∧ k < p.2 + 2 ^ 16) ∨ (∃ r ∈ s.recordedFrames (s.tenant n).cfg.asid, r.1 ≤ k ∧ k < r.1 + r.2) ∨
          (memKey 0 (s.tenant n).cfg.pool ≤ k ∧ k < memKey 0 (s.tenant n).cfg.pool + (s.tenant n).cfg.frames * 2 ^ 16) ∨
          (memKey 1 (s.tenant n).cfg.area ≤ k ∧ k < memKey 1 (s.tenant n).cfg.area + (s.tenant n).areaUsed) then 0 else Mem.read s.mem k)) ∧
  (∀ s n, s.ready = true → (s.tenant n).live = true → ((∃ q ∈ s.queues, q.2.mapped = true ∧ q.2.tenant = n) ∨ ∃ l ∈ s.launches, l.tenant = n) →
    exec (.tenantDelete n) s = .next { s with security := s.security ||| 0x80000000 }) ∧
  (∀ s q n log base, s.ready = true → q < 64 → (s.queue q).mapped = false → (s.tenant n).live = true → 4 ≤ log → log ≤ 16 → base % (64 * 2 ^ log) = 0 →
    ∃ t, exec (.queueMap q n log base) s = .next t ∧ t = { s with queues := t.queues } ∧
      ∀ r, t.queue r = if r = q then ⟨true, n, log, base, 0, 0, false, false, [], false⟩ else s.queue r) ∧
  (∀ s q n log base, s.ready = true → q < 64 →
    ((s.queue q).mapped = true ∨ (s.tenant n).live = false ∨ log < 4 ∨ 16 < log ∨ base % (64 * 2 ^ log) ≠ 0) →
    exec (.queueMap q n log base) s = .next { s with security := s.security ||| 0x80000000 }) ∧
  (∀ s q, (s.queue q).mapped = true → (s.queue q).unmapping = false →
    ∃ t, exec (.queueReset q) s = .next t ∧ t.mem = s.mem ∧ t.cores = s.cores ∧
      t.queue q = { s.queue q with pkts := (s.queue q).pkts.filter (·.started), readIx := (s.queue q).writeIx, halted := false, resetting := (s.queue q).pkts.any (·.started) }) ∧
  (∀ s q, (s.queue q).mapped = true → ∃ t, exec (.queueUnmap q) s = .next t ∧ t.mem = s.mem ∧ t.cores = s.cores ∧
    ((∀ p ∈ (s.queue q).pkts, p.started = false) → t.queue q = Queue.none) ∧
    ((∃ p ∈ (s.queue q).pkts, p.started = true) → (t.queue q).unmapping = true ∧ (t.queue q).mapped = true)) ∧
  (∀ s n o b (v : BitVec 64) d, s.ready = true → n < 16 → EntryField o b v.toNat (s.tenant n).cfg d → (o = 0 → v.toNat < 4) →
    ((s.tenant n).live = false → o ≠ 0 ∨ v.toNat % 2 = 0 → ∃ t, exec (.registerWrite 0 (0x1000 + 256 * n + o) v b) s = .next t ∧ t = { s with tenants := t.tenants } ∧
      ∀ m, t.tenant m = if m = n then { s.tenant n with cfg := d } else s.tenant m) ∧
    ((s.tenant n).live = false → o = 0 → v.toNat % 2 = 1 →
      ∃ t, exec (.registerWrite 0 (0x1000 + 256 * n + o) v b) s = .next t ∧ exec (.tenantCreate n d) s = .next t) ∧
    ((s.tenant n).live = true → d ≠ (s.tenant n).cfg → exec (.registerWrite 0 (0x1000 + 256 * n + o) v b) s = .next { s with security := s.security ||| 0x80000000 }) ∧
    ((s.tenant n).live = true → d = (s.tenant n).cfg → o ≠ 0 ∨ v.toNat % 2 = 1 → exec (.registerWrite 0 (0x1000 + 256 * n + o) v b) s = .next s) ∧
    ((s.tenant n).live = true → d = (s.tenant n).cfg → o = 0 → v.toNat % 2 = 0 →
      ∃ t, exec (.registerWrite 0 (0x1000 + 256 * n + o) v b) s = .next t ∧ exec (.tenantDelete n) s = .next t)) ∧
  (∀ s q (v : BitVec 64), s.ready = true → q < 64 → v.toNat < 2 ^ 13 → v.toNat / 4 % 4 = 0 →
    ((s.queue q).mapped = false → v.toNat % 2 = 0 → ∃ t, exec (.registerWrite 0 (0x2000 + 64 * q) v 4) s = .next t ∧ t = { s with queues := t.queues } ∧
      ∀ r, t.queue r = if r = q then { s.queue q with tenant := v.toNat / 16 % 16, log := v.toNat / 256 % 32 } else s.queue r) ∧
    ((s.queue q).mapped = false → v.toNat % 2 = 1 → ∃ t, exec (.registerWrite 0 (0x2000 + 64 * q) v 4) s = .next t ∧
      exec (.queueMap q (v.toNat / 16 % 16) (v.toNat / 256 % 32) (s.queue q).base) s = .next t) ∧
    ((s.queue q).mapped = true → v.toNat / 16 % 16 ≠ (s.queue q).tenant ∨ v.toNat / 256 % 32 ≠ (s.queue q).log →
      exec (.registerWrite 0 (0x2000 + 64 * q) v 4) s = .next { s with security := s.security ||| 0x80000000 }) ∧
    ((s.queue q).mapped = true → v.toNat / 16 % 16 = (s.queue q).tenant → v.toNat / 256 % 32 = (s.queue q).log →
      ∃ t, exec (.registerWrite 0 (0x2000 + 64 * q) v 4) s = .next t ∧ (v.toNat % 2 = 0 → exec (.queueUnmap q) s = .next t) ∧
        (v.toNat % 4 = 3 → exec (.queueReset q) s = .next t) ∧ (v.toNat % 4 = 1 → t = s))) ∧
  (∀ s q (v : BitVec 64), s.ready = true → q < 64 →
    ((s.queue q).mapped = false → ∃ t, exec (.registerWrite 0 (0x2000 + 64 * q + 8) v 8) s = .next t ∧ t = { s with queues := t.queues } ∧
      ∀ r, t.queue r = if r = q then { s.queue q with base := v.toNat } else s.queue r) ∧
    ((s.queue q).mapped = true → v.toNat ≠ (s.queue q).base → exec (.registerWrite 0 (0x2000 + 64 * q + 8) v 8) s = .next { s with security := s.security ||| 0x80000000 }) ∧
    ((s.queue q).mapped = true → v.toNat = (s.queue q).base → exec (.registerWrite 0 (0x2000 + 64 * q + 8) v 8) s = .next s)) ∧
  ∀ s n (v : BitVec 64), s.ready = true → n < 16 → ∃ t, exec (.registerWrite 2 (4096 * n) v 8) s = .next t ∧ (2 ^ 17 ≤ v.toNat → t = s) ∧
    (2 ^ 16 ≤ v.toNat → v.toNat < 2 ^ 17 → exec (.faultAnswerRefuse n (v.toNat % 2 ^ 16)) s = .next t) ∧
    (v.toNat < 2 ^ 16 → exec (.faultAnswerRetry n v.toNat) s = .next t)

/-- R455 to R459, R461 to R463: points and budgets of islands; temperatures, with the trip at 105 degrees; erasure tables and counters; the scrub of a unit, which keeps
every value or finds the unit uncorrectable.
The model's choices: a trip's clearing keeps memory and temperatures (log entry 29), a position that leaves a table starts at 0 again and which errors a unit holds (log
entry 72), and the fate of a write of reserved bits (log entry 91). -/
def Obligations.IslandsAndTables : Prop :=
  (∀ s n (p : BitVec 3), s.ready = true → n < 64 → p.toNat ≤ 4 → (s.island n).busy = false → (p.toNat = 4 → s.islandHeld n = false) →
    ∃ t, exec (.islandPointRequest n p) s = .next t ∧ t = { s with islands := t.islands } ∧
      ∀ m, t.island m = if m = n then { s.island n with req := p.toNat, busy := true } else s.island m) ∧
  (∀ s n, (s.island n).busy = true → ∃ t, exec (.islandPointChangeDone n) s = .next t ∧ t = { s with islands := t.islands } ∧ (t.island n).busy = false ∧
    (t.island n).cur = (s.island n).req ∧ (t.island n).temp = (s.island n).temp ∧
    ((s.island n).req < 4 → (t.island n).budget = [32, 44, 54, 64].getD (s.island n).req 0) ∧
    ((s.island n).req = 4 → (t.island n).budget = (s.island n).budget)) ∧
  (∀ s n b, s.ready = true → n < 64 → (s.island n).busy = false → ∃ t, exec (.islandBudgetWrite n b) s = .next t ∧ t = { s with islands := t.islands } ∧
    ∀ m, t.island m = if m = n then { s.island n with budget := b } else s.island m) ∧
  (∀ s n (x : BitVec 16), n < 64 →
    (x.toNat < 840 → ∃ t, exec (.thermalThrottle n x) s = .next t ∧ exec (.thermalTrip n x) s = .next t ∧ t = { s with islands := t.islands } ∧
      ∀ m, t.island m = if m = n then { s.island n with temp := x } else s.island m) ∧
    (840 ≤ x.toNat → s.trip = false → ∃ t, exec (.thermalThrottle n x) s = .next t ∧ exec (.thermalTrip n x) s = .next t ∧ Tripped t ∧ (t.island n).temp = x)) ∧
  (∀ s (v : BitVec 32), s.trip = true → v.toNat % 2 = 1 → (∀ p ∈ s.islands, p.2.temp.toNat < 680) →
    ∃ t, exec (.thermalTripClear v) s = .next t ∧ Rebooted t (s.transfer.orElse fun _ => s.ownerKey) s.islands ∧ (KeepsMemory s → t.mem = s.mem)) ∧
  (∀ s n b, (s.island n).busy = true → exec (.islandBudgetWrite n b) s = .next s) ∧
  (∀ s r e (v : BitVec 16), s.listedElsewhere r e v = true → exec (.erasureTableWrite r e v) s = .next s) ∧
  (∀ s r e (v : BitVec 16), s.ready = true → r < 96 → e < 4 → v.toNat % 64 ≤ 35 → s.listedElsewhere r e v = false →
    ∃ t, exec (.erasureTableWrite r e v) s = .next t ∧ SMap.getD t.erasure (4 * r + e) 0 = v &&& 0x803F ∧
      (∀ k, k ≠ 4 * r + e → SMap.getD t.erasure k 0 = SMap.getD s.erasure k 0) ∧ t.mem = s.mem ∧
      t.out = s.out ++ if (t.erased r).length = 4 ∧ (s.erased r).length ≠ 4 then [.reliability r] else []) ∧
  (∀ s u, SMap.get? s.latent u = none → exec (.patrolScrub u) s = .next s) ∧
  (∀ s u ps, SMap.get? s.latent u = some ps → ∃ t, exec (.patrolScrub u) s = .next t ∧ SMap.get? t.latent u = none ∧ t.mem = s.mem ∧ t.cores = s.cores ∧
    (s.decodes (u, ps) = true → t.poisoned = s.poisoned) ∧ (s.decodes (u, ps) = false → u ∈ t.poisoned)) ∧
  ∀ s kind n, s.ready = true → (kind = 0 ∧ n < 512 ∨ kind = 1 ∧ n < 12 ∨ kind = 2 ∧ n < 4) →
    ∃ t, exec (.correctedCounterClear kind n) s = .next t ∧ t = { s with corrected := t.corrected } ∧
      ∀ k, SMap.getD t.corrected k 0 = if k = n + [0, 512, 524].getD kind 0 then 0 else SMap.getD s.corrected k 0

/-- R464 to R466, R458: a reset boots the module, and completes a TRANSFER that it cut off, but for a tripped one, which stays tripped; the requests of SPDM are
answered, each under a signature, measurements with the request's nonce.
The model's choices: what the boot reads and the order of its checks (log entry 28), what an SPDM answer holds (log entry 74), the signature and digests (log entry 13),
that memory keeps its bytes and a trip outlasts a reset (log entry 29), and what stands of a TRANSFER that is cut off (log entry 75). -/
def Obligations.ResetAndAttestation : Prop :=
  (∀ s, s.trip = false → ∃ t, exec .deviceReset s = .next t ∧ Rebooted t (s.transfer.orElse fun _ => s.ownerKey) s.islands ∧ (KeepsMemory s → t.mem = s.mem)) ∧
  (∀ s, s.trip = true → ∃ t, exec .deviceReset s = .next t ∧ Tripped t ∧ t.ownerKey = s.ownerKey ∧ t.transfer = s.transfer ∧ (KeepsMemory s → t.mem = s.mem)) ∧
  (∀ s, Answers .getVersion s .version [1, 3] ∧ Answers .getCapabilities s .capabilities (List.range 9) ∧
    Answers .negotiateAlgorithms s .algorithms [256, 384, 384] ∧ Answers .getDigests s .digests [(Config.sha3 [Config.certificate]).toNat] ∧
    Answers .getCertificate s .certificate [Config.certificate]) ∧
  (∀ s c, Answers (.spdmUnsupportedRequest c) s .unsupportedRequest [c]) ∧
  (∀ s n, ∃ t, exec (.challenge n) s = .next t ∧ SignedAnswer s t .challengeAuth n (s.measures.map (·.2.toNat)) ∧ t.spdmSession = s.spdmSession) ∧
  (∀ s n, ∃ t, exec (.getMeasurements n) s = .next t ∧ SignedAnswer s t .measurements n (s.measures.map (·.2.toNat)) ∧ t.spdmSession = s.spdmSession) ∧
  (∀ s n, ∃ t, exec (.keyExchange n) s = .next t ∧ SignedAnswer s t .keyExchange n (s.measures.map (·.2.toNat)) ∧ t.spdmSession = 1) ∧
  ∀ s n, ∃ t, exec (.finish n) s = .next t ∧ t.out = s.out ++ [.spdm .finish [n] (some (Config.sign [n]))] ∧ t.mem = s.mem ∧ (s.spdmSession = 1 → t.spdmSession = 2)
/-- R405: the token slots of a tenant: all zero when it is created; at a packet's completion its slot takes the larger of its value and the packet's, which is
the u64 at byte 0x18 of a LAUNCH and at byte 0x38 of any other; so no completion lowers one. -/
def Obligations.TokensAtCompletion : Prop :=
  (∀ s n cfg, s.ready = true → n < 16 → (s.tenant n).live = false → ∃ t, exec (.tenantCreate n cfg) s = .next t ∧ ∀ k, t.token n k = 0) ∧
  (∀ num ws, (pktOf num ws).tval = if ((ws.getD 0 0).toNat / 2 ^ 56) = 1 then ws.getD 3 0 else ws.getD 7 0) ∧
  (∀ num ws, (pktOf num ws).tok = (ws.getD 0 0).toNat / 2 ^ 32 % 2 ^ 12) ∧
  ∀ (s : State) q (p : Pkt) n, n < 4095 → let old := s.token (s.queue q).tenant n
    ((s.completePkt q p).token (s.queue q).tenant n = if n = p.tok ∧ old.toNat < p.tval.toNat then p.tval else old) ∧
      old.toNat ≤ ((s.completePkt q p).token (s.queue q).tenant n).toNat

/-- R467, R468, R458: NONCE gives out a nonce; a TRANSFER that carries it, while no tenant exists and signed by the owner where one is installed, is accepted: device
memory is zeroed, the new owner is installed and counted, and the module resets, or stays tripped; every other one changes nothing.
The model's choices: what stands of a TRANSFER that is cut off, during which no other is taken (log entry 75), signatures as a free predicate (log entry 13), what the boot
reads (log entry 28). -/
def Obligations.OwnershipTransferred : Prop :=
  (∀ s, ∃ t n, exec .nonce s = .next t ∧ t.nonceOut = some n ∧ t.out = s.out ++ [.nonceOut n] ∧ t.mem = s.mem ∧ t.tenants = s.tenants) ∧
  (∀ s key n sig, (∀ p ∈ s.tenants, p.2.live = false) → s.nonceOut = some n → (∀ k, s.ownerKey = some k → Config.mldsaVerify k [n, key.toNat] sig = true) →
    s.transfer = none → ∃ t, exec (.transfer key n sig) s = .next t ∧ (s.trip = false → Rebooted t (some key) s.islands) ∧ (s.trip = true → Tripped t) ∧
      t.ownerKey = some key ∧ t.transfers = s.transfers + 1 ∧ ∀ k, Mem.read t.mem k = if k < 2 * 2 ^ 52 then 0 else Mem.read s.mem k) ∧
  ∀ s key n sig, ((∃ p ∈ s.tenants, p.2.live = true) ∨ s.transfer ≠ none ∨ s.nonceOut ≠ some n ∨ ∃ k, s.ownerKey = some k ∧ Config.mldsaVerify k [n, key.toNat] sig = false) →
    exec (.transfer key n sig) s = .next s

/-- R50, R134: the step at a group's turn runs the instruction that its word decodes to, at that group, whose header's waits are not tested again; an event's turn
runs that event.
The agenda of turns is the model's choice (log entry 30). -/
def Obligations.StepRunsDecoded : Prop :=
  (∀ s ts c g x w i, s.turns = .issue c g :: ts → ComesTo s c g x w → decodeWord w.toNat ((x.words[x.wix]?).map (·.toNat)) = .ok i →
    step s = exec i { ({ s with turns := ts }.modGroup c g fun y => { y with tested := true }) with cur := (c, g) }) ∧
  (∀ s ts c g x w e, s.turns = .issue c g :: ts → ComesTo s c g x w → decodeWord w.toNat ((x.words[x.wix]?).map (·.toNat)) = .error e →
    step s = { ({ s with turns := ts }.modGroup c g fun y => { y with tested := true }) with cur := (c, g) }.illegalWord w.toNat) ∧
  (∀ s ts i, s.turns = .happen i :: ts → isWord i = false → step s = exec i { s with turns := ts }) ∧
  ∀ s, s.turns = [] → step s = .next { s with turns := s.round }

/-- R112 to R123: decoding the bytes of a well-formed instruction word, with anything behind them, gives back the instruction and what is behind. -/
def Obligations.DecodeEncodeAgree : Prop := ∀ (i : Instr) bs, i.wf = true → encodeWords i ≠ [] → decode (encode i ++ bs) = .ok (i, bs)

/-- R112 to R123, R132: a word that decodes is the encoding of what it decodes to, which is well-formed: no word has two readings and no bit of it is lost. -/
def Obligations.DecodedWordsEncode : Prop :=
  ∀ w next i, w < 2 ^ 64 → decodeWord w next = .ok i → i.wf = true ∧ encodeWords i = w :: (if ownsLiteral w then next.toList else [])

/-- R112 to R132: words written out from the spec's encodings decode to what they stand for, in every family. -/
def Obligations.WrittenWordsDecode : Prop :=
  decodeWord 0x0141C060_07800000 (some 0x3E8) = .ok (.iadd ⟨4, 0, 7, false⟩ false false ⟨false, 3⟩ (.vec 1) .long (some 1000)) ∧
  decodeWord 0x1401C0C0_17020000 none = .ok (.shl ⟨0, 0, 7, false⟩ ⟨false, 6⟩ (.vec 5) (.short 2) none) ∧
  decodeWord 0x2361C140_08030109 none = .ok (.ffma ⟨6, 0, 7, false⟩ true false .rz ⟨false, 10⟩ (.vec 2) (.vec 3) (.vec 4) none) ∧
  decodeWord 0x61304000_00006000 none = .ok (.bra ⟨3, 0, 1, false⟩ false 6) ∧
  decodeWord 0x7902A060_00000001 none = .ok (.fetchV ⟨0, 1, 2, true⟩ false 3 1) ∧
  decodeWord 0x8003C080_08000040 none = .ok (.ld ⟨0, 1, 7, false⟩ false ⟨false, 4, 0, 2, 0⟩ .none .rlx .b32) ∧
  decodeWord 0x9001C100_18022040 none = .ok (.st ⟨0, 0, 7, false⟩ ⟨false, 8, 0, 6, 0⟩ (some 1) .none .rlx .b32) ∧
  decodeWord 0xA501C870_00024000 none = .ok (.drain ⟨0, 0, 7, false⟩ 0x43 2) ∧
  decodeWord 0xC701C500_00FE0000 none = .ok (.mmaZ ⟨0, 0, 7, false⟩ false 1 2 0 0 127) ∧
  decodeWord 0xE203C004_11060005 none = .ok (.icinv ⟨0, 1, 7, false⟩ .sys (.sca 4) (.sca 6) none)

/-- R6, R7: every step keeps device and host memory in its canonical form: rising addresses, and no entry that holds the value of an unlisted byte.
What an unlisted byte reads as is the model's choice (log entry 1). -/
def Obligations.StepKeepsMemory : Prop := ∀ s t, MemOk s → step s = .next t → MemOk t

/-- R450, R452, R453, R376, R448, R405: the module after reset: the boot's first stage, memory in its canonical form, nothing resident, no tenant, queue, capability
or home, no number, no nonce given out, every island idle.
The values that the spec does not give are the model's choice (log entries 1 and 2). -/
def Obligations.ResetHolds : Prop :=
  MemOk State.reset ∧ State.reset.status = 0 ∧ State.reset.security = 0 ∧ State.reset.trip = false ∧ State.reset.devNumSet = false ∧
    (∀ c, State.reset.wg? c = none) ∧ (∀ n, (State.reset.tenant n).live = false) ∧ (∀ q, (State.reset.queue q).mapped = false) ∧
    (∀ n, State.reset.capSlot? n = none) ∧ (∀ a v, hmOk (State.reset.homeEntry a v) = false) ∧ State.reset.nonceOut = none ∧
    ∀ i, (State.reset.island i).busy = false ∧ (State.reset.island i).cur = (State.reset.island i).req
end

