-- ==== Sys2Proof/Machine/Consistency.lean ====
section
/-! DEFINITION. The consistency model (R261 to R292): the events of a program, the relations between them, and the conditions that say which values its reads may
return. The events of words are numbered in an order that agrees with the order of issue of every workgroup, the lanes of a word in ascending order; those of an engine operation
stand in the order of its elements, and count as issued with the word that started it. -/

namespace Sys2Proof.Machine

/-! ## Where an agent stands (R265, R266) -/

/-- The device, die, launch, gang and workgroup of a thread, of an engine thread those of the workgroup that started it; or the host of a device. -/
structure Seat where
  device : Nat
  host : Bool
  die : Nat
  launch : Nat
  gang : Nat
  wg : Nat
deriving DecidableEq, Repr

/-- R265, R266: one instance of the scope contains both agents. Agents of two devices share none, and the host shares `.sys` alone. -/
def Seat.share (sc : Scope) (a b : Seat) : Bool :=
  a.device == b.device &&
    match sc with
    | .none => false
    | .sys => true
    | .dev => !a.host && !b.host
    | .die => !a.host && !b.host && a.die == b.die
    | .gang => !a.host && !b.host && a.launch == b.launch && a.gang == b.gang
    | .wg => !a.host && !b.host && a.launch == b.launch && a.wg == b.wg

/-! ## Events (R262, R263) -/

/-- R263: a location is one byte: of translated memory, of a workgroup's scratchpad, of a thread's private memory, or of a replica. -/
inductive Site where
  | global (asid va : Nat) | scratch (launch wg off : Nat) | priv (launch thread off : Nat) | replica (launch wg sub off : Nat)
deriving DecidableEq, Repr

/-- R262: what an event is. A mark is a word that starts or joins an engine operation, and has no access of its own; a commit is that of a copy. -/
inductive Act where
  | read | write | atom | red | fence | ordering | chain (later earlier : Nat) | chainAll (later : Nat) | save | mark | commit
deriving DecidableEq, Repr

/-- R268: where ordering words meet: a phase of a barrier, by the launch, the gang or the workgroup that it counts; a count of a circular buffer, of its puts or of its
gets; an entry of q6 or q7. -/
inductive Rendezvous where
  | phase (launch part bar n : Nat) | count (launch wg buf : Nat) (put : Bool) (n : Nat) | entry (launch wg port n : Nat)
deriving DecidableEq, Repr

/-- R268, R249: a release at the first meets an acquire at the second: one phase; a count that the second has observed; one entry. -/
def Rendezvous.meets : Rendezvous → Rendezvous → Bool
  | .phase l p b n, .phase l' p' b' n' => l == l' && p == p' && b == b' && n == n'
  | .count l w b put n, .count l' w' b' put' n' => l == l' && w == w' && b == b' && put == put' && decide (n ≤ n')
  | .entry l w q n, .entry l' w' q' n' => l == l' && w == w' && q == q' && n == n'
  | _, _ => false

/-- One event. `threads` are those in whose program order it stands: the executing threads of a word that executes once for the group, also the clones made later of
a thread (R264), and none for an event of an engine operation, which `eng` names, and of whose elements it concerns the one numbered `elem`. `chan` is the channel and
the destination die of a channelled operation. -/
structure Event where
  act : Act
  seat : Seat
  threads : List Nat
  eng : Option Nat
  elem : Nat
  stamp : Bool
  reads : List Site
  writes : List Site
  whole : Bool
  scope : Scope
  acq : Bool
  rel : Bool
  chan : Option (Nat × Nat)
  meet : Option Rendezvous
  /-- R218: it names a scratchpad as a peer's. -/
  peer : Bool
deriving DecidableEq, Repr

/-- R286: a replica, as the pairs of its bytes and the bytes they mirror. -/
abbrev Mirror := List (Site × Site)

/-- The events of a program, the elements of an engine operation in their order (R251), and what relates them apart from the values read: the words that start an engine
operation and those that join it (R274, R275); the operations a DRAIN covers and its join (R282); the launches whose token another one consumes (R284); the events that
precede a launch (R285); dependencies (R291); replicas (R286); the byte that each event writes, as it follows from the bytes that the events read (R230, R291); and the
values at launch start (R287). -/
structure Program where
  events : List Event
  forks : List (Nat × Nat)
  joins : List (Nat × Nat)
  drains : List (List Nat × Nat)
  tokens : List (Nat × Nat)
  starts : List (Nat × Nat)
  deps : List (Nat × Nat)
  replicas : List Mirror
  result : (Nat → Site → Byte) → Nat → Site → Byte
  init : Site → Byte

/-- R261, R287: what is chosen for an execution: the write that each byte of a read comes from, or `none` for the value at launch start; the byte that each write leaves;
the order of the writes to each location; for each replica the order of the updates, and for each read of a replica how many of them it held (R286). -/
structure Choice where
  rf : Nat → Site → Option Nat
  put : Nat → Site → Byte
  co : Site → List Nat
  updates : Mirror → List Nat
  held : Nat → Nat

def Event.isRead (e : Event) : Bool := e.act == .read || e.act == .atom || e.act == .red
def Event.isWrite (e : Event) : Bool := e.act == .write || e.act == .atom || e.act == .red
def Event.isRmw (e : Event) : Bool := e.act == .atom || e.act == .red

/-- R277: an event of the anonymous stream: unchannelled, a write to translated memory or to a scratchpad named as a peer's (R218). -/
def Event.anonymous (e : Event) : Bool :=
  e.isWrite && e.chan.isNone && e.eng.isNone && e.writes.all fun p =>
    match p with
    | .global _ _ => true
    | .scratch l w _ => e.peer || !(l == e.seat.launch && w == e.seat.wg)
    | _ => false

def Program.Ev (p : Program) (n : Nat) (e : Event) : Prop := p.events[n]? = some e
def Program.Reads (p : Program) (n : Nat) (x : Site) : Prop := ∃ e, p.Ev n e ∧ x ∈ e.reads
def Program.Writes (p : Program) (n : Nat) (x : Site) : Prop := ∃ e, p.Ev n e ∧ x ∈ e.writes
def Program.Touches (p : Program) (n : Nat) (x : Site) : Prop := p.Reads n x ∨ p.Writes n x
def Program.Channelled (p : Program) (n : Nat) : Prop := ∃ e, p.Ev n e ∧ e.chan.isSome

/-- R286: the byte that a byte stands for: of a replica the one it mirrors. -/
def Program.source (p : Program) (x : Site) : Site := (((p.replicas.flatten).find? fun q => q.1 == x).map (·.2)).getD x

/-- R291: what an event writes follows from its own reads and from those of the events that it depends on. -/
def Program.Tied (p : Program) : Prop :=
  ∀ n x out out', (∀ r y, p.Reads r y → r = n ∨ (r, n) ∈ p.deps → out r y = out' r y) → p.result out n x = p.result out' n x

/-! ## Orders of a program -/

/-- R264: program order. -/
def Program.Po (p : Program) (a b : Nat) : Prop := a < b ∧ ∃ e f, p.Ev a e ∧ p.Ev b f ∧ ∃ t ∈ e.threads, t ∈ f.threads

/-- The two events are of one workgroup. -/
def Program.SameWg (p : Program) (a b : Nat) : Prop :=
  ∃ e f, p.Ev a e ∧ p.Ev b f ∧ e.seat.launch = f.seat.launch ∧ e.seat.wg = f.seat.wg ∧ e.seat.device = f.seat.device

/-- R236, R274: the place of an event in the order of issue: its own, of an engine operation's event that of the word that started it. -/
def Program.place (p : Program) (n : Nat) : Nat := ((((p.events[n]?).bind (·.eng)).bind fun id => p.forks.find? (·.2 == id)).map (·.1)).getD n

/-- One event is issued before another; those of one engine operation stand in the order of its elements. -/
def Program.Issued (p : Program) (a b : Nat) : Prop := p.place a < p.place b ∨ p.place a = p.place b ∧ a < b

/-- R276: the order inside an engine operation: the read of an element before its write; elements one of whose destination bytes are the other's source bytes; the stamp
after every payload write, and the commit after both. -/
inductive Program.Inner (p : Program) : Nat → Nat → Prop where
  | element {a b : Nat} {e f : Event} : p.Ev a e → p.Ev b f → e.eng.isSome → e.eng = f.eng → e.elem = f.elem → a < b → p.Inner a b
  | source {a b : Nat} {e f : Event} {x : Site} : p.Ev a e → p.Ev b f → e.eng.isSome → e.eng = f.eng → a < b → (x ∈ e.writes ∧ x ∈ f.reads ∨ x ∈ e.reads ∧ x ∈ f.writes) →
      p.Inner a b
  | stamp {a b : Nat} {e f : Event} : p.Ev a e → p.Ev b f → e.eng.isSome → e.eng = f.eng → e.isWrite = true → e.stamp = false → f.stamp = true → p.Inner a b
  | commit {a b : Nat} {e f : Event} : p.Ev a e → p.Ev b f → e.eng.isSome → e.eng = f.eng → e.isWrite = true → f.act = .commit → p.Inner a b

/-- R278: the edges of channel order: one session; CHAIN; CHAIN.all; the operations of a channelled copy in its generator order, to whatever dies, its stamp last. -/
inductive Program.ChoEdge (p : Program) : Nat → Nat → Prop where
  | session {a b : Nat} {e f : Event} : p.SameWg a b → p.Ev a e → p.Ev b f → p.Issued a b → e.chan.isSome → e.chan = f.chan → p.ChoEdge a b
  | chain {a c b : Nat} {e g f : Event} {later earlier d d' : Nat} : p.SameWg a c → p.SameWg c b → p.Ev a e → p.Ev c g → p.Ev b f → p.Issued a c → p.Issued c b →
      g.act = .chain later earlier → e.chan = some (earlier, d) → f.chan = some (later, d') → p.ChoEdge a b
  | chainAll {a c b : Nat} {e g f : Event} {later d' : Nat} : p.SameWg a c → p.SameWg c b → p.Ev a e → p.Ev c g → p.Ev b f → p.Issued a c → p.Issued c b →
      g.act = .chainAll later → (e.anonymous = true ∨ ∃ k d, e.chan = some (k, d) ∧ k ≠ later) → f.chan = some (later, d') → p.ChoEdge a b
  | copy {a b : Nat} {e f : Event} : p.Ev a e → p.Ev b f → e.chan.isSome → f.chan.isSome → e.eng.isSome → e.eng = f.eng → e.elem < f.elem → p.ChoEdge a b

/-- R278: channel order. -/
def Program.Cho (p : Program) : Nat → Nat → Prop := Relation.TransGen p.ChoEdge

/-! ## Orders of an execution -/

/-- R287: a byte of a read comes from a write. -/
def Choice.Rf (p : Program) (k : Choice) (x : Site) (w r : Nat) : Prop := p.Reads r x ∧ k.rf r x = some w

/-- R287: one write stands before another in the coherence order of a location. -/
def Choice.Co (k : Choice) (x : Site) (a b : Nat) : Prop := ∃ i j : Nat, i < j ∧ (k.co x)[i]? = some a ∧ (k.co x)[j]? = some b

/-- R287: a read takes its byte from a write before another, the values at launch start being first. A read-modify-write does not precede itself. -/
def Choice.Fr (p : Program) (k : Choice) (x : Site) (r w : Nat) : Prop :=
  p.Reads r x ∧ r ≠ w ∧ w ∈ k.co x ∧ ∀ v, k.rf r x = some v → k.Co x v w

/-- R272: the release sequence of a write. -/
def Choice.Seq (p : Program) (k : Choice) (w n : Nat) : Prop :=
  w = n ∨ Relation.TransGen (fun m n => (∃ e, p.Ev n e ∧ (e.act = .atom ∨ e.act = .red ∧ e.chan = none)) ∧ ∃ x, k.Rf p x m n) w n

/-- A read takes a byte from the release sequence of a write. -/
def Choice.TakesFrom (p : Program) (k : Choice) (w r : Nat) : Prop := ∃ m x, k.Seq p w m ∧ k.Rf p x m r

/-- R268, R270: a read at a scope, and the event at which it acquires: itself, if it is an acquire read at the scope; a FENCE with an acquire part at the scope that
follows it in program order (log entry 97). -/
def Program.AcquiresAt (p : Program) (r : Nat) (s : Scope) (n : Nat) : Prop :=
  ∃ e, p.Ev r e ∧ e.isRead = true ∧
    ((n = r ∧ e.acq = true ∧ e.scope = s) ∨ ∃ f, p.Po r n ∧ p.Ev n f ∧ f.act = .fence ∧ f.acq = true ∧ f.scope = s)

/-- R268: the rows of the table, at the scope that both sides name. -/
inductive Choice.Row (p : Program) (k : Choice) : Scope → Nat → Nat → Prop where
  | write {s : Scope} {a b r : Nat} {e : Event} : p.Ev a e → e.rel = true → e.isWrite = true → e.scope = s → p.AcquiresAt r s b → k.TakesFrom p a r → Row p k s a b
  | fence {s : Scope} {a b w r : Nat} {e f : Event} : p.Ev a e → e.act = .fence → e.rel = true → e.scope = s → p.Po a w → p.Ev w f → f.isWrite = true → f.chan = none →
      p.AcquiresAt r s b → k.TakesFrom p w r → Row p k s a b
  | word {s : Scope} {a b : Nat} {e f : Event} {m m' : Rendezvous} : p.Ev a e → p.Ev b f → e.rel = true → f.acq = true → e.scope = s → f.scope = s → e.meet = some m →
      f.meet = some m' → m.meets m' = true → Row p k s a b
  | stamp {s : Scope} {a b r : Nat} {e : Event} {x : Site} : p.Ev a e → e.stamp = true → e.chan = none → e.scope = s → p.AcquiresAt r s b → k.Rf p x a r → Row p k s a b

/-- R271: a release synchronises with an acquire: a row gives the edge at one scope, and one instance of it contains both. -/
def Choice.Sw (p : Program) (k : Choice) (a b : Nat) : Prop :=
  ∃ s e f, k.Row p s a b ∧ p.Ev a e ∧ p.Ev b f ∧ e.seat.share s f.seat = true

/-- R288, R264, R267, R274, R275, R276, R284, R285: the edges that happens-before is made of. Nothing but its channel, a join and a token orders a channelled operation
before another event (R280), so its program order makes no longer path. -/
inductive Choice.HbEdge (p : Program) (k : Choice) : Nat → Nat → Prop where
  | po {a b : Nat} : p.Po a b → ¬ p.Channelled a → HbEdge p k a b
  | sw {a b : Nat} : k.Sw p a b → HbEdge p k a b
  | saved {a c b : Nat} {g : Event} : p.SameWg a c → p.SameWg c b → p.Ev c g → g.act = .save → p.Issued a c → p.Issued c b → ¬ p.Channelled a → HbEdge p k a b
  | fork {a b n : Nat} {f : Event} : (a, n) ∈ p.forks → p.Ev b f → f.eng = some n → HbEdge p k a b
  | join {a b n : Nat} {e : Event} : (n, b) ∈ p.joins → p.Ev a e → e.eng = some n → HbEdge p k a b
  | joinSw {a b c : Nat} {e f : Event} : p.Ev a e → p.Ev c f → e.eng.isSome → e.eng = f.eng → k.Sw p c b → HbEdge p k a b
  | inner {a b : Nat} : p.Inner a b → HbEdge p k a b
  | token {a b : Nat} {e f : Event} : (e.seat.launch, f.seat.launch) ∈ p.tokens → p.Ev a e → p.Ev b f → HbEdge p k a b
  | start {a b : Nat} {f : Event} : (a, f.seat.launch) ∈ p.starts → p.Ev b f → HbEdge p k a b

/-- R288: happens-before. -/
def Choice.Hb (p : Program) (k : Choice) (a b : Nat) : Prop := p.Po a b ∨ Relation.TransGen (k.HbEdge p) a b

/-- R281, R282: an operation is visible to an event: to a read at the gang or a wider scope that takes its value from a channelled write behind the operation in channel
order; to the join of a DRAIN that covers it. -/
inductive Choice.Vis (p : Program) (k : Choice) : Nat → Nat → Prop where
  | chained {a b q r : Nat} {e : Event} {s : Scope} : p.Cho a b → p.Ev b e → e.chan.isSome → e.isWrite = true → s ∈ [Scope.gang, .die, .dev, .sys] →
      p.AcquiresAt r s q → k.TakesFrom p b r → Vis p k a q
  | drained {a q : Nat} {ids : List Nat} : (ids, q) ∈ p.drains → a ∈ ids → Vis p k a q

/-- R288: observed-before. -/
def Choice.Ob (p : Program) (k : Choice) (a b : Nat) : Prop := k.Hb p a b ∨ ∃ q, k.Vis p a q ∧ (q = b ∨ k.Hb p q b)

/-- R269, R274, R275, R276, R284, R267, R281, R282: an event has been performed at its home before another event: one that waits for its acknowledgement. -/
inductive Choice.Acked (p : Program) (k : Choice) : Nat → Nat → Prop where
  | release {a n : Nat} {g : Event} : p.Po a n → ¬ p.Channelled a → p.Ev n g → g.rel = true → Acked p k a n
  | fork {a m b n : Nat} {f : Event} : p.Po a m → ¬ p.Channelled a → (m, n) ∈ p.forks → p.Ev b f → f.eng = some n → Acked p k a b
  | join {a b n : Nat} {e : Event} : (n, b) ∈ p.joins → p.Ev a e → e.eng = some n → Acked p k a b
  | inner {a b : Nat} : p.Inner a b → Acked p k a b
  | saved {a c : Nat} {g : Event} : p.SameWg a c → p.Ev c g → g.act = .save → p.Issued a c → ¬ p.Channelled a → Acked p k a c
  | token {a b : Nat} {e f : Event} : (e.seat.launch, f.seat.launch) ∈ p.tokens → p.Ev a e → p.Ev b f → Acked p k a b
  | vis {a q : Nat} : k.Vis p a q → Acked p k a q

/-- A write reaches its home before another write: by channel order, or performed before an event that the other does not precede. -/
def Choice.Sooner (p : Program) (k : Choice) (a b : Nat) : Prop := p.Cho a b ∨ ∃ n, k.Acked p a n ∧ (n = b ∨ k.Hb p n b)

/-- R289: the orders of one location. -/
def Choice.At (p : Program) (k : Choice) (x : Site) (a b : Nat) : Prop :=
  p.Touches a x ∧ p.Touches b x ∧ (k.Ob p a b ∨ p.Cho a b ∨ k.Rf p x a b ∨ k.Co x a b ∨ k.Fr p x a b)

def Acyclic (r : Nat → Nat → Prop) : Prop := ∀ a, ¬ Relation.TransGen r a a

/-! ## Conditions on an execution -/

/-- R287: each byte comes from one write to its location, and the coherence order of a location holds its writes, each once. -/
structure Choice.Sound (p : Program) (k : Choice) : Prop where
  source : ∀ r x w, p.Reads r x → k.rf r x = some w → p.Writes w (p.source x)
  total : ∀ x w, w ∈ k.co x ↔ p.Writes w x
  once : ∀ x, (k.co x).Nodup

/-- R263: single-copy-atomic writes order alike at the bytes they share, and a single-copy-atomic read mixes no write with what precedes it. -/
structure Choice.Single (p : Program) (k : Choice) : Prop where
  alike : ∀ a b e f x y, p.Ev a e → p.Ev b f → e.whole = true → f.whole = true → p.Writes a y → p.Writes b y → k.Co x a b → ¬ k.Co y b a
  unmixed : ∀ r e x y w, p.Ev r e → e.whole = true → x ∈ e.reads → y ∈ e.reads → k.rf r y = some w → p.Writes w x → ¬ k.Fr p x r w

/-- R290: no write stands between what a read-modify-write reads and what it writes. -/
def Choice.Atomic (p : Program) (k : Choice) : Prop :=
  ∀ n e x v, p.Ev n e → e.isRmw = true → x ∈ e.reads → v ≠ n → k.Fr p x n v → k.Co x n v

/-- R286: a replica holds a prefix of the updates of its range, which grows; the updates follow the home's sequence order for the range: that of every byte of it, and of
writes to different bytes one of which reaches the home before the other. -/
structure Choice.Mirrors (p : Program) (k : Choice) : Prop where
  ordered : ∀ m ∈ p.replicas, ∀ (i j a b : Nat), i < j → (k.updates m)[i]? = some a → (k.updates m)[j]? = some b → ¬ k.Sooner p b a
  updates : ∀ m ∈ p.replicas, (k.updates m).Nodup ∧ ∀ w, w ∈ k.updates m ↔ ∃ q ∈ m, p.Writes w q.2
  agree : ∀ m ∈ p.replicas, ∀ q ∈ m, ∀ (i j a b : Nat), i < j → (k.updates m)[i]? = some a → (k.updates m)[j]? = some b → p.Writes a q.2 → p.Writes b q.2 → k.Co q.2 a b
  holds : ∀ m ∈ p.replicas, ∀ q ∈ m, ∀ r, p.Reads r q.1 → ∀ w, k.rf r q.1 = some w ↔
    ∃ i : Nat, i < k.held r ∧ (k.updates m)[i]? = some w ∧ p.Writes w q.2 ∧ ∀ j v : Nat, i < j → j < k.held r → (k.updates m)[j]? = some v → ¬ p.Writes v q.2
  grows : ∀ m ∈ p.replicas, ∀ q ∈ m, ∀ q' ∈ m, ∀ r r', p.Reads r q.1 → p.Reads r' q'.1 → k.Ob p r r' → k.held r ≤ k.held r'

/-- The byte that a read takes: the one that its write leaves there, else the one at launch start. -/
def Choice.value (p : Program) (k : Choice) (r : Nat) (x : Site) : Byte :=
  match k.rf r x with
  | some w => k.put w (p.source x)
  | none => p.init (p.source x)

/-- R261: the conditions on an execution, with R289 for each location and R291 for dependencies. What a write leaves follows from what it, and the events it depends on,
read. -/
structure Choice.Consistent (p : Program) (k : Choice) : Prop where
  sound : k.Sound p
  single : k.Single p
  perLocation : ∀ x, Acyclic (k.At p x)
  atomic : k.Atomic p
  tied : p.Tied
  computed : ∀ n x, p.Writes n x → k.put n x = p.result (k.value p) n x
  fromWrites : Acyclic fun a b => (a, b) ∈ p.deps ∨ ∃ x, k.Rf p x a b
  mirrors : k.Mirrors p

/-- R261, R292: an outcome, the byte of every read at every location, is allowed. -/
def Program.Allows (p : Program) (out : Nat → Site → Byte) : Prop := ∃ k : Choice, k.Consistent p ∧ ∀ r x, p.Reads r x → k.value p r x = out r x

end Sys2Proof.Machine
end

