-- ==== Sys2Proof/Laws/Consistency.lean ====
section
/-! SUPPORT. What the conditions on an execution say: the consequences that R271, R279, R281, R289 and R290 draw from them, and how to show that an execution meets them. -/

namespace Sys2Proof.Machine
open Relation

/-- A relation whose edges rise in a measure has no cycle. -/
theorem acyclic_of_rank {r : Nat → Nat → Prop} (m : Nat → Nat) (h : ∀ a b, r a b → m a < m b) : Acyclic r := fun a hc => by
  have rises : ∀ {x y}, TransGen r x y → m x < m y := fun hxy => by
    induction hxy with
    | single e => exact h _ _ e
    | tail _ e ih => exact Nat.lt_trans ih (h _ _ e)
  exact Nat.lt_irrefl _ (rises hc)

/-- Two edges that close a cycle at one location contradict R289. -/
theorem no_two_cycle {p : Program} {k : Choice} {x : Site} {a b : Nat} (hk : k.Consistent p) (h : k.At p x a b) (h' : k.At p x b a) : False :=
  hk.perLocation x a (.tail (.single h) h')

theorem Program.reads_touches {p : Program} {n : Nat} {x : Site} (h : p.Reads n x) : p.Touches n x := .inl h
theorem Program.writes_touches {p : Program} {n : Nat} {x : Site} (h : p.Writes n x) : p.Touches n x := .inr h

/-- R289: no read returns what a write observed before it has overwritten, nor the value at launch start behind such a write. -/
theorem no_stale_read {p : Program} {k : Choice} {x : Site} {w r : Nat} (hk : k.Consistent p) (hw : p.Writes w x) (hr : p.Reads r x) (ho : k.Ob p w r) :
    ¬ k.Fr p x r w := fun hf =>
  no_two_cycle hk ⟨.inr hw, .inl hr, .inl ho⟩ ⟨.inl hr, .inr hw, .inr (.inr (.inr (.inr hf)))⟩

/-- R289: program order orders before whatever follows it. -/
theorem ob_of_po {p : Program} {k : Choice} {a b : Nat} (h : p.Po a b) : k.Ob p a b := .inl (.inl h)

/-- R268, R271, R288: what an unchannelled event precedes in program order, a release synchronises with, and what follows, is ordered. -/
theorem ob_of_sync {p : Program} {k : Choice} {a l q r : Nat} (ha : p.Po a l) (hu : ¬ p.Channelled a) (hs : k.Sw p l q) (hr : p.Po q r) (hq : ¬ p.Channelled q) :
    k.Ob p a r :=
  .inl (.inr (.tail (.tail (.single (.po ha hu)) (.sw hs)) (.po hr hq)))

/-- R271, R289: message passing. A release and an acquire that meet R271 let the acquiring thread read nothing older than what preceded the release. -/
theorem message_passing {p : Program} {k : Choice} {x : Site} {a l q r : Nat} (hk : k.Consistent p) (ha : p.Po a l) (hu : ¬ p.Channelled a) (hs : k.Sw p l q)
    (hr : p.Po q r) (hq : ¬ p.Channelled q) (hx : p.Writes a x) (hy : p.Reads r x) : ¬ k.Fr p x r a :=
  no_stale_read hk hx hy (ob_of_sync ha hu hs hr hq)

/-- R289: two reads of one location in program order respect the coherence order. -/
theorem coherent_reads {p : Program} {k : Choice} {x : Site} {r r' w : Nat} (hk : k.Consistent p) (hr : p.Po r r') (hx : p.Reads r x) (hy : p.Reads r' x)
    (hw : k.Rf p x w r) (hww : p.Writes w x) : ¬ k.Fr p x r' w := fun hf =>
  hk.perLocation x r (.tail (.tail (.single ⟨.inl hx, .inl hy, .inl (ob_of_po hr)⟩) ⟨.inl hy, .inr hww, .inr (.inr (.inr (.inr hf)))⟩)
    ⟨.inr hww, .inl hx, .inr (.inr (.inl hw))⟩)

/-- R279: channel order at one location is coherence order. -/
theorem channel_coherent {p : Program} {k : Choice} {x : Site} {a b : Nat} (hk : k.Consistent p) (h : p.Cho a b) (ha : p.Writes a x) (hb : p.Writes b x) :
    ¬ k.Co x b a := fun hc =>
  no_two_cycle hk ⟨.inr ha, .inr hb, .inr (.inl h)⟩ ⟨.inr hb, .inr ha, .inr (.inr (.inr (.inl hc)))⟩

/-- R279: a read-modify-write behind an operation in channel order reads nothing older than it. -/
theorem channel_rmw {p : Program} {k : Choice} {x : Site} {a b : Nat} (hk : k.Consistent p) (h : p.Cho a b) (ha : p.Writes a x) (hb : p.Reads b x) :
    ¬ k.Fr p x b a := fun hf =>
  no_two_cycle hk ⟨.inr ha, .inl hb, .inr (.inl h)⟩ ⟨.inl hb, .inr ha, .inr (.inr (.inr (.inr hf)))⟩

/-- R281: the chained release. A read at the gang or a wider scope that takes the value of a channelled write sees what channel order puts before the write, and so does
what follows it in program order. -/
theorem chained_release {p : Program} {k : Choice} {x : Site} {a b q r : Nat} {e : Event} {s : Scope} (hk : k.Consistent p) (hc : p.Cho a b) (hb : p.Ev b e)
    (hch : e.chan.isSome) (hw : e.isWrite = true) (hs : s ∈ [Scope.gang, .die, .dev, .sys]) {q' : Nat} (hq : p.AcquiresAt q' s q) (ht : k.TakesFrom p b q') (hr : p.Po q r)
    (hx : p.Writes a x) (hy : p.Reads r x) : ¬ k.Fr p x r a :=
  no_stale_read hk hx hy (.inr ⟨q, .chained hc hb hch hw hs hq ht, .inr (.inl hr)⟩)

/-- R286: of two writes to a range the one that reaches the home first is the first update of each replica: a replica that holds the other holds it. -/
theorem updates_in_order {p : Program} {k : Choice} {m : Mirror} {i j a b n : Nat} (hk : k.Consistent p) (hm : m ∈ p.replicas) (h : k.Sooner p a b)
    (hi : (k.updates m)[i]? = some a) (hj : (k.updates m)[j]? = some b) (hne : a ≠ b) (hb : j < n) : i < n := by
  rcases Nat.lt_trichotomy i j with hij | rfl | hij
  · exact Nat.lt_trans hij hb
  · exact absurd (Option.some.inj (hi.symm.trans hj)) hne
  · exact absurd h (hk.mirrors.ordered m hm j i b a hij hj hi)

/-- R290, R287: of two read-modify-writes at one location one reads what the other left, or something later. -/
theorem atomics_ordered {p : Program} {k : Choice} {x : Site} {a b : Nat} {e f : Event} (hk : k.Consistent p) (ha : p.Ev a e) (hb : p.Ev b f) (he : e.isRmw = true)
    (hf : f.isRmw = true) (hx : x ∈ e.reads) (hy : x ∈ f.reads) (hwa : p.Writes a x) (hwb : p.Writes b x) (hne : a ≠ b) :
    ¬ (k.rf a x = none ∧ k.rf b x = none) := fun ⟨na, nb⟩ => by
  have hab := hk.atomic a e x b ha he hx (Ne.symm hne) ⟨⟨e, ha, hx⟩, hne, (hk.sound.total x b).2 hwb, fun v h => by simp [na] at h⟩
  have hba := hk.atomic b f x a hb hf hy hne ⟨⟨f, hb, hy⟩, Ne.symm hne, (hk.sound.total x a).2 hwa, fun v h => by simp [nb] at h⟩
  exact no_two_cycle hk ⟨.inr hwa, .inr hwb, .inr (.inr (.inr (.inl hab)))⟩ ⟨.inr hwb, .inr hwa, .inr (.inr (.inr (.inl hba)))⟩

end Sys2Proof.Machine
end

