-- ==== Sys2Proof/Laws/Sparse.lean ====
section
/-! SUPPORT. Sparse maps and byte stores: what a read gives after a write, and that every write keeps the canonical form of a byte store. -/

namespace Sys2Proof

open Sys2Proof.Machine

/-! ## Sparse maps -/

@[simp] theorem SMap.get?_nil {α : Type} (j : Nat) : SMap.get? ([] : SMap α) j = none := rfl

theorem SMap.get?_set {α : Type} (m : SMap α) (j i : Nat) (a : α) :
    SMap.get? (SMap.set m j a) i = if i = j then some a else SMap.get? m i := by
  induction m with
  | nil => simp only [SMap.set, SMap.get?]; split <;> split <;> simp_all
  | cons p m ih =>
    obtain ⟨k, v⟩ := p
    simp only [SMap.set]
    split
    · simp only [SMap.get?, eq_comm]
    · split
      · subst_vars; simp only [SMap.get?]; by_cases hi : i = k <;> simp [hi, eq_comm]
      · simp only [SMap.get?, ih]
        by_cases hi : i = j
        · subst hi; simp_all [eq_comm]
        · simp [hi]

@[simp] theorem SMap.get?_set_self {α : Type} (m : SMap α) (j : Nat) (a : α) : SMap.get? (SMap.set m j a) j = some a := by
  simp [SMap.get?_set]

theorem SMap.get?_set_ne {α : Type} {m : SMap α} {j i : Nat} {a : α} (h : i ≠ j) : SMap.get? (SMap.set m j a) i = SMap.get? m i := by
  simp [SMap.get?_set, h]

theorem SMap.getD_set {α : Type} (m : SMap α) (j i : Nat) (a d : α) : SMap.getD (SMap.set m j a) i d = if i = j then a else SMap.getD m i d := by
  simp only [SMap.getD, SMap.get?_set]; split <;> rfl

@[simp] theorem SMap.getD_set_self {α : Type} (m : SMap α) (j : Nat) (a d : α) : SMap.getD (SMap.set m j a) j d = a := by
  simp [SMap.getD_set]

theorem SMap.getD_set_ne {α : Type} {m : SMap α} {j i : Nat} {a d : α} (h : i ≠ j) : SMap.getD (SMap.set m j a) i d = SMap.getD m i d := by
  simp [SMap.getD_set, h]

theorem SMap.get?_del {α : Type} (m : SMap α) (j i : Nat) : SMap.get? (SMap.del m j) i = if i = j then none else SMap.get? m i := by
  induction m with
  | nil => simp [SMap.del]
  | cons p m ih =>
    obtain ⟨k, v⟩ := p
    simp only [SMap.del, List.filter_cons] at ih ⊢
    by_cases hk : k = j
    · subst hk; simp only [bne_self_eq_false, Bool.false_eq_true, ↓reduceIte, ih, SMap.get?]
      split <;> simp_all [eq_comm]
    · simp only [bne_iff_ne, ne_eq, hk, not_false_eq_true, ↓reduceIte, SMap.get?, ih]
      split <;> simp_all

theorem SMap.get?_modify {α : Type} (m : SMap α) (j i : Nat) (f : α → α) :
    SMap.get? (SMap.modify m j f) i = if i = j then (SMap.get? m j).map f else SMap.get? m i := by
  unfold SMap.modify
  split
  · next h => split <;> simp_all
  · next a h => simp only [SMap.get?_set, h]; split <;> simp_all

end Sys2Proof

namespace Sys2Proof.Machine

open Sys2Proof

/-! ## Byte stores -/

theorem Mem.read_write (m : Mem) (k j : Nat) (b : Byte) : Mem.read (Mem.write m k b) j = if j = k then b else Mem.read m j := by
  unfold Mem.read Mem.write SMap.getD
  split
  · next h => rw [SMap.get?_del]; split <;> simp_all
  · rw [SMap.get?_set]; split <;> simp_all

@[simp] theorem Mem.read_write_self (m : Mem) (k : Nat) (b : Byte) : Mem.read (Mem.write m k b) k = b := by simp [Mem.read_write]

theorem Mem.read_write_ne {m : Mem} {k j : Nat} {b : Byte} (h : j ≠ k) : Mem.read (Mem.write m k b) j = Mem.read m j := by
  simp [Mem.read_write, h]

/-- A run of bytes written: the bytes there, and nothing else, change. -/
theorem Mem.read_writeBytes (m : Mem) (k j : Nat) (bs : List Byte) :
    Mem.read (Mem.writeBytes m k bs) j = if k ≤ j ∧ j < k + bs.length then bs.getD (j - k) 0 else Mem.read m j := by
  induction bs generalizing m k with
  | nil => simp only [Mem.writeBytes, List.length_nil]; rw [if_neg (by omega)]
  | cons b bs ih =>
    rw [Mem.writeBytes, ih, Mem.read_write]
    simp only [List.length_cons]
    by_cases h1 : j = k
    · subst h1
      have h3 : ¬ (j + 1 ≤ j ∧ j < j + 1 + bs.length) := by omega
      simp [if_neg h3]
    · by_cases h2 : k ≤ j ∧ j < k + (bs.length + 1)
      · have h3 : k + 1 ≤ j ∧ j < k + 1 + bs.length := by omega
        have h4 : j - k = (j - (k + 1)) + 1 := by omega
        simp only [h2, h3, and_self, ↓reduceIte, h4, List.getD_cons_succ]
      · have h3 : ¬ (k + 1 ≤ j ∧ j < k + 1 + bs.length) := by omega
        rw [if_neg h3, if_neg h2, if_neg h1]

@[simp] theorem Mem.readBytes_length (m : Mem) (k n : Nat) : (Mem.readBytes m k n).length = n := by simp [Mem.readBytes]

/-- What has just been written is read back. -/
theorem Mem.readBytes_writeBytes (m : Mem) (k : Nat) (bs : List Byte) : Mem.readBytes (Mem.writeBytes m k bs) k bs.length = bs := by
  apply List.ext_getElem
  · simp
  · intro i h1 h2
    simp only [Mem.readBytes, List.getElem_map, List.getElem_range, Mem.read_writeBytes]
    have : k ≤ k + i ∧ k + i < k + bs.length := by omega
    simp [this, List.getD_eq_getElem?_getD, h2]

/-! ## The canonical form -/

/-- Every key of the store is above a bound. -/
def Mem.above (b : Nat) (m : Mem) : Prop := ∀ p ∈ m, b < p.1

theorem Mem.rising_cons (k : Nat) (b : Byte) (m : Mem) : Mem.rising ((k, b) :: m) = true ↔ Mem.above k m ∧ Mem.rising m = true := by
  induction m generalizing k b with
  | nil => simp [Mem.rising, Mem.above]
  | cons p m ih =>
    obtain ⟨j, c⟩ := p
    simp only [Mem.rising, Bool.and_eq_true, decide_eq_true_eq, Mem.above, List.mem_cons, forall_eq_or_imp]
    constructor
    · rintro ⟨h1, h2⟩
      refine ⟨⟨h1, fun p hp => ?_⟩, h2⟩
      have := ((ih j c).1 h2).1 p hp
      omega
    · rintro ⟨⟨h1, -⟩, h2⟩
      exact ⟨h1, h2⟩

/-- The canonical form, one entry at a time. -/
theorem Mem.wf_cons (k : Nat) (b : Byte) (m : Mem) : Mem.wf ((k, b) :: m) = true ↔ b ≠ 0 ∧ Mem.above k m ∧ Mem.wf m = true := by
  simp only [Mem.wf, Bool.and_eq_true, Mem.rising_cons, List.all_cons, bne_iff_ne, ne_eq]
  constructor
  · rintro ⟨⟨h1, h2⟩, h3, h4⟩; exact ⟨h3, h1, h2, h4⟩
  · rintro ⟨h3, h1, h2, h4⟩; exact ⟨⟨h1, h2⟩, h3, h4⟩

theorem Mem.above_set (b : Nat) (m : Mem) (k : Nat) (v : Byte) (h : Mem.above b m) (hk : b < k) : Mem.above b (SMap.set m k v) := by
  induction m with
  | nil => intro p hp; simp only [SMap.set, List.mem_singleton] at hp; subst hp; exact hk
  | cons q m ih =>
    obtain ⟨j, c⟩ := q
    have hq : b < j := h (j, c) (by simp)
    have hm : Mem.above b m := fun p hp => h p (by simp [hp])
    intro p hp
    simp only [SMap.set] at hp
    split at hp
    · rcases List.mem_cons.1 hp with rfl | hp
      · exact hk
      · exact h p hp
    · split at hp
      · rcases List.mem_cons.1 hp with rfl | hp
        · exact hk
        · exact hm p hp
      · rcases List.mem_cons.1 hp with rfl | hp
        · exact hq
        · exact ih hm p hp

theorem Mem.wf_set (m : Mem) (k : Nat) (b : Byte) (h : Mem.wf m = true) (hb : b ≠ 0) : Mem.wf (SMap.set m k b) = true := by
  induction m with
  | nil => simpa [SMap.set, Mem.wf, Mem.rising] using hb
  | cons p m ih =>
    obtain ⟨j, c⟩ := p
    obtain ⟨h1, h2, h3⟩ := (Mem.wf_cons j c m).1 h
    simp only [SMap.set]
    split
    · refine (Mem.wf_cons _ _ _).2 ⟨hb, fun q hq => ?_, h⟩
      rcases List.mem_cons.1 hq with rfl | hq
      · assumption
      · have := h2 q hq; omega
    · split
      · subst_vars; exact (Mem.wf_cons _ _ _).2 ⟨hb, h2, h3⟩
      · exact (Mem.wf_cons _ _ _).2 ⟨h1, Mem.above_set j m k b h2 (by omega), ih h3⟩

theorem Mem.wf_del (m : Mem) (k : Nat) (h : Mem.wf m = true) : Mem.wf (SMap.del m k) = true := by
  induction m with
  | nil => rfl
  | cons p m ih =>
    obtain ⟨j, c⟩ := p
    obtain ⟨h1, h2, h3⟩ := (Mem.wf_cons j c m).1 h
    simp only [SMap.del, List.filter_cons] at ih ⊢
    split
    · exact (Mem.wf_cons _ _ _).2 ⟨h1, fun q hq => h2 q (List.mem_filter.1 hq).1, ih h3⟩
    · exact ih h3

/-- Writing a byte keeps the canonical form. -/
theorem Mem.wf_write (m : Mem) (k : Nat) (b : Byte) (h : Mem.wf m = true) : Mem.wf (Mem.write m k b) = true := by
  unfold Mem.write
  split
  · exact Mem.wf_del m k h
  · next hb => exact Mem.wf_set m k b h hb

/-- Writing a run of bytes keeps the canonical form. -/
theorem Mem.wf_writeBytes (m : Mem) (k : Nat) (bs : List Byte) (h : Mem.wf m = true) : Mem.wf (Mem.writeBytes m k bs) = true := by
  induction bs generalizing m k with
  | nil => exact h
  | cons b bs ih => exact ih _ _ (Mem.wf_write m k b h)

end Sys2Proof.Machine
end

