-- ==== Sys2Proof/Laws/State.lean ====
section
/-! SUPPORT. The small lemmas of the state: each field after each update, and reading a part by its number after a write to a part. -/

namespace Sys2Proof.Machine

open Sys2Proof

/-! ## State.setCore -/

@[simp] theorem State.setCore_turns (s : State) (c : Nat) (x : Core) : (s.setCore c x).turns = s.turns := rfl
@[simp] theorem State.setCore_cur (s : State) (c : Nat) (x : Core) : (s.setCore c x).cur = s.cur := rfl
@[simp] theorem State.setCore_free (s : State) (c : Nat) (x : Core) : (s.setCore c x).free = s.free := rfl
@[simp] theorem State.setCore_nextId (s : State) (c : Nat) (x : Core) : (s.setCore c x).nextId = s.nextId := rfl
@[simp] theorem State.setCore_mem (s : State) (c : Nat) (x : Core) : (s.setCore c x).mem = s.mem := rfl
@[simp] theorem State.setCore_cores (s : State) (c : Nat) (x : Core) : (s.setCore c x).cores = SMap.set s.cores c x := rfl
@[simp] theorem State.setCore_dies (s : State) (c : Nat) (x : Core) : (s.setCore c x).dies = s.dies := rfl
@[simp] theorem State.setCore_hubTlb (s : State) (c : Nat) (x : Core) : (s.setCore c x).hubTlb = s.hubTlb := rfl
@[simp] theorem State.setCore_hubWmaps (s : State) (c : Nat) (x : Core) : (s.setCore c x).hubWmaps = s.hubWmaps := rfl
@[simp] theorem State.setCore_homeMap (s : State) (c : Nat) (x : Core) : (s.setCore c x).homeMap = s.homeMap := rfl
@[simp] theorem State.setCore_expanders (s : State) (c : Nat) (x : Core) : (s.setCore c x).expanders = s.expanders := rfl
@[simp] theorem State.setCore_regionAt (s : State) (c : Nat) (x : Core) : (s.setCore c x).regionAt = s.regionAt := rfl
@[simp] theorem State.setCore_migWait (s : State) (c : Nat) (x : Core) : (s.setCore c x).migWait = s.migWait := rfl
@[simp] theorem State.setCore_heldWrites (s : State) (c : Nat) (x : Core) : (s.setCore c x).heldWrites = s.heldWrites := rfl
@[simp] theorem State.setCore_poisoned (s : State) (c : Nat) (x : Core) : (s.setCore c x).poisoned = s.poisoned := rfl
@[simp] theorem State.setCore_latent (s : State) (c : Nat) (x : Core) : (s.setCore c x).latent = s.latent := rfl
@[simp] theorem State.setCore_msgs (s : State) (c : Nat) (x : Core) : (s.setCore c x).msgs = s.msgs := rfl
@[simp] theorem State.setCore_tenants (s : State) (c : Nat) (x : Core) : (s.setCore c x).tenants = s.tenants := rfl
@[simp] theorem State.setCore_queues (s : State) (c : Nat) (x : Core) : (s.setCore c x).queues = s.queues := rfl
@[simp] theorem State.setCore_launches (s : State) (c : Nat) (x : Core) : (s.setCore c x).launches = s.launches := rfl
@[simp] theorem State.setCore_caps (s : State) (c : Nat) (x : Core) : (s.setCore c x).caps = s.caps := rfl
@[simp] theorem State.setCore_status (s : State) (c : Nat) (x : Core) : (s.setCore c x).status = s.status := rfl
@[simp] theorem State.setCore_security (s : State) (c : Nat) (x : Core) : (s.setCore c x).security = s.security := rfl
@[simp] theorem State.setCore_devNum (s : State) (c : Nat) (x : Core) : (s.setCore c x).devNum = s.devNum := rfl
@[simp] theorem State.setCore_devNumSet (s : State) (c : Nat) (x : Core) : (s.setCore c x).devNumSet = s.devNumSet := rfl
@[simp] theorem State.setCore_trip (s : State) (c : Nat) (x : Core) : (s.setCore c x).trip = s.trip := rfl
@[simp] theorem State.setCore_islands (s : State) (c : Nat) (x : Core) : (s.setCore c x).islands = s.islands := rfl
@[simp] theorem State.setCore_erasure (s : State) (c : Nat) (x : Core) : (s.setCore c x).erasure = s.erasure := rfl
@[simp] theorem State.setCore_symbolFixes (s : State) (c : Nat) (x : Core) : (s.setCore c x).symbolFixes = s.symbolFixes := rfl
@[simp] theorem State.setCore_corrected (s : State) (c : Nat) (x : Core) : (s.setCore c x).corrected = s.corrected := rfl
@[simp] theorem State.setCore_linksUp (s : State) (c : Nat) (x : Core) : (s.setCore c x).linksUp = s.linksUp := rfl
@[simp] theorem State.setCore_ownerKey (s : State) (c : Nat) (x : Core) : (s.setCore c x).ownerKey = s.ownerKey := rfl
@[simp] theorem State.setCore_transfers (s : State) (c : Nat) (x : Core) : (s.setCore c x).transfers = s.transfers := rfl
@[simp] theorem State.setCore_transfer (s : State) (c : Nat) (x : Core) : (s.setCore c x).transfer = s.transfer := rfl
@[simp] theorem State.setCore_nonceOut (s : State) (c : Nat) (x : Core) : (s.setCore c x).nonceOut = s.nonceOut := rfl
@[simp] theorem State.setCore_minVersion (s : State) (c : Nat) (x : Core) : (s.setCore c x).minVersion = s.minVersion := rfl
@[simp] theorem State.setCore_measures (s : State) (c : Nat) (x : Core) : (s.setCore c x).measures = s.measures := rfl
@[simp] theorem State.setCore_spdmSession (s : State) (c : Nat) (x : Core) : (s.setCore c x).spdmSession = s.spdmSession := rfl
@[simp] theorem State.setCore_out (s : State) (c : Nat) (x : Core) : (s.setCore c x).out = s.out := rfl

/-! ## State.setDie -/

@[simp] theorem State.setDie_turns (s : State) (d : Nat) (x : Die) : (s.setDie d x).turns = s.turns := rfl
@[simp] theorem State.setDie_cur (s : State) (d : Nat) (x : Die) : (s.setDie d x).cur = s.cur := rfl
@[simp] theorem State.setDie_free (s : State) (d : Nat) (x : Die) : (s.setDie d x).free = s.free := rfl
@[simp] theorem State.setDie_nextId (s : State) (d : Nat) (x : Die) : (s.setDie d x).nextId = s.nextId := rfl
@[simp] theorem State.setDie_mem (s : State) (d : Nat) (x : Die) : (s.setDie d x).mem = s.mem := rfl
@[simp] theorem State.setDie_cores (s : State) (d : Nat) (x : Die) : (s.setDie d x).cores = s.cores := rfl
@[simp] theorem State.setDie_dies (s : State) (d : Nat) (x : Die) : (s.setDie d x).dies = SMap.set s.dies d x := rfl
@[simp] theorem State.setDie_hubTlb (s : State) (d : Nat) (x : Die) : (s.setDie d x).hubTlb = s.hubTlb := rfl
@[simp] theorem State.setDie_hubWmaps (s : State) (d : Nat) (x : Die) : (s.setDie d x).hubWmaps = s.hubWmaps := rfl
@[simp] theorem State.setDie_homeMap (s : State) (d : Nat) (x : Die) : (s.setDie d x).homeMap = s.homeMap := rfl
@[simp] theorem State.setDie_expanders (s : State) (d : Nat) (x : Die) : (s.setDie d x).expanders = s.expanders := rfl
@[simp] theorem State.setDie_regionAt (s : State) (d : Nat) (x : Die) : (s.setDie d x).regionAt = s.regionAt := rfl
@[simp] theorem State.setDie_migWait (s : State) (d : Nat) (x : Die) : (s.setDie d x).migWait = s.migWait := rfl
@[simp] theorem State.setDie_heldWrites (s : State) (d : Nat) (x : Die) : (s.setDie d x).heldWrites = s.heldWrites := rfl
@[simp] theorem State.setDie_poisoned (s : State) (d : Nat) (x : Die) : (s.setDie d x).poisoned = s.poisoned := rfl
@[simp] theorem State.setDie_latent (s : State) (d : Nat) (x : Die) : (s.setDie d x).latent = s.latent := rfl
@[simp] theorem State.setDie_msgs (s : State) (d : Nat) (x : Die) : (s.setDie d x).msgs = s.msgs := rfl
@[simp] theorem State.setDie_tenants (s : State) (d : Nat) (x : Die) : (s.setDie d x).tenants = s.tenants := rfl
@[simp] theorem State.setDie_queues (s : State) (d : Nat) (x : Die) : (s.setDie d x).queues = s.queues := rfl
@[simp] theorem State.setDie_launches (s : State) (d : Nat) (x : Die) : (s.setDie d x).launches = s.launches := rfl
@[simp] theorem State.setDie_caps (s : State) (d : Nat) (x : Die) : (s.setDie d x).caps = s.caps := rfl
@[simp] theorem State.setDie_status (s : State) (d : Nat) (x : Die) : (s.setDie d x).status = s.status := rfl
@[simp] theorem State.setDie_security (s : State) (d : Nat) (x : Die) : (s.setDie d x).security = s.security := rfl
@[simp] theorem State.setDie_devNum (s : State) (d : Nat) (x : Die) : (s.setDie d x).devNum = s.devNum := rfl
@[simp] theorem State.setDie_devNumSet (s : State) (d : Nat) (x : Die) : (s.setDie d x).devNumSet = s.devNumSet := rfl
@[simp] theorem State.setDie_trip (s : State) (d : Nat) (x : Die) : (s.setDie d x).trip = s.trip := rfl
@[simp] theorem State.setDie_islands (s : State) (d : Nat) (x : Die) : (s.setDie d x).islands = s.islands := rfl
@[simp] theorem State.setDie_erasure (s : State) (d : Nat) (x : Die) : (s.setDie d x).erasure = s.erasure := rfl
@[simp] theorem State.setDie_symbolFixes (s : State) (d : Nat) (x : Die) : (s.setDie d x).symbolFixes = s.symbolFixes := rfl
@[simp] theorem State.setDie_corrected (s : State) (d : Nat) (x : Die) : (s.setDie d x).corrected = s.corrected := rfl
@[simp] theorem State.setDie_linksUp (s : State) (d : Nat) (x : Die) : (s.setDie d x).linksUp = s.linksUp := rfl
@[simp] theorem State.setDie_ownerKey (s : State) (d : Nat) (x : Die) : (s.setDie d x).ownerKey = s.ownerKey := rfl
@[simp] theorem State.setDie_transfers (s : State) (d : Nat) (x : Die) : (s.setDie d x).transfers = s.transfers := rfl
@[simp] theorem State.setDie_transfer (s : State) (d : Nat) (x : Die) : (s.setDie d x).transfer = s.transfer := rfl
@[simp] theorem State.setDie_nonceOut (s : State) (d : Nat) (x : Die) : (s.setDie d x).nonceOut = s.nonceOut := rfl
@[simp] theorem State.setDie_minVersion (s : State) (d : Nat) (x : Die) : (s.setDie d x).minVersion = s.minVersion := rfl
@[simp] theorem State.setDie_measures (s : State) (d : Nat) (x : Die) : (s.setDie d x).measures = s.measures := rfl
@[simp] theorem State.setDie_spdmSession (s : State) (d : Nat) (x : Die) : (s.setDie d x).spdmSession = s.spdmSession := rfl
@[simp] theorem State.setDie_out (s : State) (d : Nat) (x : Die) : (s.setDie d x).out = s.out := rfl

/-! ## State.setTenant -/

@[simp] theorem State.setTenant_turns (s : State) (i : Nat) (x : Tenant) : (s.setTenant i x).turns = s.turns := rfl
@[simp] theorem State.setTenant_cur (s : State) (i : Nat) (x : Tenant) : (s.setTenant i x).cur = s.cur := rfl
@[simp] theorem State.setTenant_free (s : State) (i : Nat) (x : Tenant) : (s.setTenant i x).free = s.free := rfl
@[simp] theorem State.setTenant_nextId (s : State) (i : Nat) (x : Tenant) : (s.setTenant i x).nextId = s.nextId := rfl
@[simp] theorem State.setTenant_mem (s : State) (i : Nat) (x : Tenant) : (s.setTenant i x).mem = s.mem := rfl
@[simp] theorem State.setTenant_cores (s : State) (i : Nat) (x : Tenant) : (s.setTenant i x).cores = s.cores := rfl
@[simp] theorem State.setTenant_dies (s : State) (i : Nat) (x : Tenant) : (s.setTenant i x).dies = s.dies := rfl
@[simp] theorem State.setTenant_hubTlb (s : State) (i : Nat) (x : Tenant) : (s.setTenant i x).hubTlb = s.hubTlb := rfl
@[simp] theorem State.setTenant_hubWmaps (s : State) (i : Nat) (x : Tenant) : (s.setTenant i x).hubWmaps = s.hubWmaps := rfl
@[simp] theorem State.setTenant_homeMap (s : State) (i : Nat) (x : Tenant) : (s.setTenant i x).homeMap = s.homeMap := rfl
@[simp] theorem State.setTenant_expanders (s : State) (i : Nat) (x : Tenant) : (s.setTenant i x).expanders = s.expanders := rfl
@[simp] theorem State.setTenant_regionAt (s : State) (i : Nat) (x : Tenant) : (s.setTenant i x).regionAt = s.regionAt := rfl
@[simp] theorem State.setTenant_migWait (s : State) (i : Nat) (x : Tenant) : (s.setTenant i x).migWait = s.migWait := rfl
@[simp] theorem State.setTenant_heldWrites (s : State) (i : Nat) (x : Tenant) : (s.setTenant i x).heldWrites = s.heldWrites := rfl
@[simp] theorem State.setTenant_poisoned (s : State) (i : Nat) (x : Tenant) : (s.setTenant i x).poisoned = s.poisoned := rfl
@[simp] theorem State.setTenant_latent (s : State) (i : Nat) (x : Tenant) : (s.setTenant i x).latent = s.latent := rfl
@[simp] theorem State.setTenant_msgs (s : State) (i : Nat) (x : Tenant) : (s.setTenant i x).msgs = s.msgs := rfl
@[simp] theorem State.setTenant_tenants (s : State) (i : Nat) (x : Tenant) : (s.setTenant i x).tenants = SMap.set s.tenants i x := rfl
@[simp] theorem State.setTenant_queues (s : State) (i : Nat) (x : Tenant) : (s.setTenant i x).queues = s.queues := rfl
@[simp] theorem State.setTenant_launches (s : State) (i : Nat) (x : Tenant) : (s.setTenant i x).launches = s.launches := rfl
@[simp] theorem State.setTenant_caps (s : State) (i : Nat) (x : Tenant) : (s.setTenant i x).caps = s.caps := rfl
@[simp] theorem State.setTenant_status (s : State) (i : Nat) (x : Tenant) : (s.setTenant i x).status = s.status := rfl
@[simp] theorem State.setTenant_security (s : State) (i : Nat) (x : Tenant) : (s.setTenant i x).security = s.security := rfl
@[simp] theorem State.setTenant_devNum (s : State) (i : Nat) (x : Tenant) : (s.setTenant i x).devNum = s.devNum := rfl
@[simp] theorem State.setTenant_devNumSet (s : State) (i : Nat) (x : Tenant) : (s.setTenant i x).devNumSet = s.devNumSet := rfl
@[simp] theorem State.setTenant_trip (s : State) (i : Nat) (x : Tenant) : (s.setTenant i x).trip = s.trip := rfl
@[simp] theorem State.setTenant_islands (s : State) (i : Nat) (x : Tenant) : (s.setTenant i x).islands = s.islands := rfl
@[simp] theorem State.setTenant_erasure (s : State) (i : Nat) (x : Tenant) : (s.setTenant i x).erasure = s.erasure := rfl
@[simp] theorem State.setTenant_symbolFixes (s : State) (i : Nat) (x : Tenant) : (s.setTenant i x).symbolFixes = s.symbolFixes := rfl
@[simp] theorem State.setTenant_corrected (s : State) (i : Nat) (x : Tenant) : (s.setTenant i x).corrected = s.corrected := rfl
@[simp] theorem State.setTenant_linksUp (s : State) (i : Nat) (x : Tenant) : (s.setTenant i x).linksUp = s.linksUp := rfl
@[simp] theorem State.setTenant_ownerKey (s : State) (i : Nat) (x : Tenant) : (s.setTenant i x).ownerKey = s.ownerKey := rfl
@[simp] theorem State.setTenant_transfers (s : State) (i : Nat) (x : Tenant) : (s.setTenant i x).transfers = s.transfers := rfl
@[simp] theorem State.setTenant_transfer (s : State) (i : Nat) (x : Tenant) : (s.setTenant i x).transfer = s.transfer := rfl
@[simp] theorem State.setTenant_nonceOut (s : State) (i : Nat) (x : Tenant) : (s.setTenant i x).nonceOut = s.nonceOut := rfl
@[simp] theorem State.setTenant_minVersion (s : State) (i : Nat) (x : Tenant) : (s.setTenant i x).minVersion = s.minVersion := rfl
@[simp] theorem State.setTenant_measures (s : State) (i : Nat) (x : Tenant) : (s.setTenant i x).measures = s.measures := rfl
@[simp] theorem State.setTenant_spdmSession (s : State) (i : Nat) (x : Tenant) : (s.setTenant i x).spdmSession = s.spdmSession := rfl
@[simp] theorem State.setTenant_out (s : State) (i : Nat) (x : Tenant) : (s.setTenant i x).out = s.out := rfl

/-! ## State.setQueue -/

@[simp] theorem State.setQueue_turns (s : State) (q : Nat) (x : Queue) : (s.setQueue q x).turns = s.turns := rfl
@[simp] theorem State.setQueue_cur (s : State) (q : Nat) (x : Queue) : (s.setQueue q x).cur = s.cur := rfl
@[simp] theorem State.setQueue_free (s : State) (q : Nat) (x : Queue) : (s.setQueue q x).free = s.free := rfl
@[simp] theorem State.setQueue_nextId (s : State) (q : Nat) (x : Queue) : (s.setQueue q x).nextId = s.nextId := rfl
@[simp] theorem State.setQueue_mem (s : State) (q : Nat) (x : Queue) : (s.setQueue q x).mem = s.mem := rfl
@[simp] theorem State.setQueue_cores (s : State) (q : Nat) (x : Queue) : (s.setQueue q x).cores = s.cores := rfl
@[simp] theorem State.setQueue_dies (s : State) (q : Nat) (x : Queue) : (s.setQueue q x).dies = s.dies := rfl
@[simp] theorem State.setQueue_hubTlb (s : State) (q : Nat) (x : Queue) : (s.setQueue q x).hubTlb = s.hubTlb := rfl
@[simp] theorem State.setQueue_hubWmaps (s : State) (q : Nat) (x : Queue) : (s.setQueue q x).hubWmaps = s.hubWmaps := rfl
@[simp] theorem State.setQueue_homeMap (s : State) (q : Nat) (x : Queue) : (s.setQueue q x).homeMap = s.homeMap := rfl
@[simp] theorem State.setQueue_expanders (s : State) (q : Nat) (x : Queue) : (s.setQueue q x).expanders = s.expanders := rfl
@[simp] theorem State.setQueue_regionAt (s : State) (q : Nat) (x : Queue) : (s.setQueue q x).regionAt = s.regionAt := rfl
@[simp] theorem State.setQueue_migWait (s : State) (q : Nat) (x : Queue) : (s.setQueue q x).migWait = s.migWait := rfl
@[simp] theorem State.setQueue_heldWrites (s : State) (q : Nat) (x : Queue) : (s.setQueue q x).heldWrites = s.heldWrites := rfl
@[simp] theorem State.setQueue_poisoned (s : State) (q : Nat) (x : Queue) : (s.setQueue q x).poisoned = s.poisoned := rfl
@[simp] theorem State.setQueue_latent (s : State) (q : Nat) (x : Queue) : (s.setQueue q x).latent = s.latent := rfl
@[simp] theorem State.setQueue_msgs (s : State) (q : Nat) (x : Queue) : (s.setQueue q x).msgs = s.msgs := rfl
@[simp] theorem State.setQueue_tenants (s : State) (q : Nat) (x : Queue) : (s.setQueue q x).tenants = s.tenants := rfl
@[simp] theorem State.setQueue_queues (s : State) (q : Nat) (x : Queue) : (s.setQueue q x).queues = SMap.set s.queues q x := rfl
@[simp] theorem State.setQueue_launches (s : State) (q : Nat) (x : Queue) : (s.setQueue q x).launches = s.launches := rfl
@[simp] theorem State.setQueue_caps (s : State) (q : Nat) (x : Queue) : (s.setQueue q x).caps = s.caps := rfl
@[simp] theorem State.setQueue_status (s : State) (q : Nat) (x : Queue) : (s.setQueue q x).status = s.status := rfl
@[simp] theorem State.setQueue_security (s : State) (q : Nat) (x : Queue) : (s.setQueue q x).security = s.security := rfl
@[simp] theorem State.setQueue_devNum (s : State) (q : Nat) (x : Queue) : (s.setQueue q x).devNum = s.devNum := rfl
@[simp] theorem State.setQueue_devNumSet (s : State) (q : Nat) (x : Queue) : (s.setQueue q x).devNumSet = s.devNumSet := rfl
@[simp] theorem State.setQueue_trip (s : State) (q : Nat) (x : Queue) : (s.setQueue q x).trip = s.trip := rfl
@[simp] theorem State.setQueue_islands (s : State) (q : Nat) (x : Queue) : (s.setQueue q x).islands = s.islands := rfl
@[simp] theorem State.setQueue_erasure (s : State) (q : Nat) (x : Queue) : (s.setQueue q x).erasure = s.erasure := rfl
@[simp] theorem State.setQueue_symbolFixes (s : State) (q : Nat) (x : Queue) : (s.setQueue q x).symbolFixes = s.symbolFixes := rfl
@[simp] theorem State.setQueue_corrected (s : State) (q : Nat) (x : Queue) : (s.setQueue q x).corrected = s.corrected := rfl
@[simp] theorem State.setQueue_linksUp (s : State) (q : Nat) (x : Queue) : (s.setQueue q x).linksUp = s.linksUp := rfl
@[simp] theorem State.setQueue_ownerKey (s : State) (q : Nat) (x : Queue) : (s.setQueue q x).ownerKey = s.ownerKey := rfl
@[simp] theorem State.setQueue_transfers (s : State) (q : Nat) (x : Queue) : (s.setQueue q x).transfers = s.transfers := rfl
@[simp] theorem State.setQueue_transfer (s : State) (q : Nat) (x : Queue) : (s.setQueue q x).transfer = s.transfer := rfl
@[simp] theorem State.setQueue_nonceOut (s : State) (q : Nat) (x : Queue) : (s.setQueue q x).nonceOut = s.nonceOut := rfl
@[simp] theorem State.setQueue_minVersion (s : State) (q : Nat) (x : Queue) : (s.setQueue q x).minVersion = s.minVersion := rfl
@[simp] theorem State.setQueue_measures (s : State) (q : Nat) (x : Queue) : (s.setQueue q x).measures = s.measures := rfl
@[simp] theorem State.setQueue_spdmSession (s : State) (q : Nat) (x : Queue) : (s.setQueue q x).spdmSession = s.spdmSession := rfl
@[simp] theorem State.setQueue_out (s : State) (q : Nat) (x : Queue) : (s.setQueue q x).out = s.out := rfl

/-! ## State.setIsland -/

@[simp] theorem State.setIsland_turns (s : State) (i : Nat) (x : Island) : (s.setIsland i x).turns = s.turns := rfl
@[simp] theorem State.setIsland_cur (s : State) (i : Nat) (x : Island) : (s.setIsland i x).cur = s.cur := rfl
@[simp] theorem State.setIsland_free (s : State) (i : Nat) (x : Island) : (s.setIsland i x).free = s.free := rfl
@[simp] theorem State.setIsland_nextId (s : State) (i : Nat) (x : Island) : (s.setIsland i x).nextId = s.nextId := rfl
@[simp] theorem State.setIsland_mem (s : State) (i : Nat) (x : Island) : (s.setIsland i x).mem = s.mem := rfl
@[simp] theorem State.setIsland_cores (s : State) (i : Nat) (x : Island) : (s.setIsland i x).cores = s.cores := rfl
@[simp] theorem State.setIsland_dies (s : State) (i : Nat) (x : Island) : (s.setIsland i x).dies = s.dies := rfl
@[simp] theorem State.setIsland_hubTlb (s : State) (i : Nat) (x : Island) : (s.setIsland i x).hubTlb = s.hubTlb := rfl
@[simp] theorem State.setIsland_hubWmaps (s : State) (i : Nat) (x : Island) : (s.setIsland i x).hubWmaps = s.hubWmaps := rfl
@[simp] theorem State.setIsland_homeMap (s : State) (i : Nat) (x : Island) : (s.setIsland i x).homeMap = s.homeMap := rfl
@[simp] theorem State.setIsland_expanders (s : State) (i : Nat) (x : Island) : (s.setIsland i x).expanders = s.expanders := rfl
@[simp] theorem State.setIsland_regionAt (s : State) (i : Nat) (x : Island) : (s.setIsland i x).regionAt = s.regionAt := rfl
@[simp] theorem State.setIsland_migWait (s : State) (i : Nat) (x : Island) : (s.setIsland i x).migWait = s.migWait := rfl
@[simp] theorem State.setIsland_heldWrites (s : State) (i : Nat) (x : Island) : (s.setIsland i x).heldWrites = s.heldWrites := rfl
@[simp] theorem State.setIsland_poisoned (s : State) (i : Nat) (x : Island) : (s.setIsland i x).poisoned = s.poisoned := rfl
@[simp] theorem State.setIsland_latent (s : State) (i : Nat) (x : Island) : (s.setIsland i x).latent = s.latent := rfl
@[simp] theorem State.setIsland_msgs (s : State) (i : Nat) (x : Island) : (s.setIsland i x).msgs = s.msgs := rfl
@[simp] theorem State.setIsland_tenants (s : State) (i : Nat) (x : Island) : (s.setIsland i x).tenants = s.tenants := rfl
@[simp] theorem State.setIsland_queues (s : State) (i : Nat) (x : Island) : (s.setIsland i x).queues = s.queues := rfl
@[simp] theorem State.setIsland_launches (s : State) (i : Nat) (x : Island) : (s.setIsland i x).launches = s.launches := rfl
@[simp] theorem State.setIsland_caps (s : State) (i : Nat) (x : Island) : (s.setIsland i x).caps = s.caps := rfl
@[simp] theorem State.setIsland_status (s : State) (i : Nat) (x : Island) : (s.setIsland i x).status = s.status := rfl
@[simp] theorem State.setIsland_security (s : State) (i : Nat) (x : Island) : (s.setIsland i x).security = s.security := rfl
@[simp] theorem State.setIsland_devNum (s : State) (i : Nat) (x : Island) : (s.setIsland i x).devNum = s.devNum := rfl
@[simp] theorem State.setIsland_devNumSet (s : State) (i : Nat) (x : Island) : (s.setIsland i x).devNumSet = s.devNumSet := rfl
@[simp] theorem State.setIsland_trip (s : State) (i : Nat) (x : Island) : (s.setIsland i x).trip = s.trip := rfl
@[simp] theorem State.setIsland_islands (s : State) (i : Nat) (x : Island) : (s.setIsland i x).islands = SMap.set s.islands i x := rfl
@[simp] theorem State.setIsland_erasure (s : State) (i : Nat) (x : Island) : (s.setIsland i x).erasure = s.erasure := rfl
@[simp] theorem State.setIsland_symbolFixes (s : State) (i : Nat) (x : Island) : (s.setIsland i x).symbolFixes = s.symbolFixes := rfl
@[simp] theorem State.setIsland_corrected (s : State) (i : Nat) (x : Island) : (s.setIsland i x).corrected = s.corrected := rfl
@[simp] theorem State.setIsland_linksUp (s : State) (i : Nat) (x : Island) : (s.setIsland i x).linksUp = s.linksUp := rfl
@[simp] theorem State.setIsland_ownerKey (s : State) (i : Nat) (x : Island) : (s.setIsland i x).ownerKey = s.ownerKey := rfl
@[simp] theorem State.setIsland_transfers (s : State) (i : Nat) (x : Island) : (s.setIsland i x).transfers = s.transfers := rfl
@[simp] theorem State.setIsland_transfer (s : State) (i : Nat) (x : Island) : (s.setIsland i x).transfer = s.transfer := rfl
@[simp] theorem State.setIsland_nonceOut (s : State) (i : Nat) (x : Island) : (s.setIsland i x).nonceOut = s.nonceOut := rfl
@[simp] theorem State.setIsland_minVersion (s : State) (i : Nat) (x : Island) : (s.setIsland i x).minVersion = s.minVersion := rfl
@[simp] theorem State.setIsland_measures (s : State) (i : Nat) (x : Island) : (s.setIsland i x).measures = s.measures := rfl
@[simp] theorem State.setIsland_spdmSession (s : State) (i : Nat) (x : Island) : (s.setIsland i x).spdmSession = s.spdmSession := rfl
@[simp] theorem State.setIsland_out (s : State) (i : Nat) (x : Island) : (s.setIsland i x).out = s.out := rfl

/-! ## State.modLaunch -/

@[simp] theorem State.modLaunch_turns (s : State) (u : Nat) (f : Launch → Launch) : (s.modLaunch u f).turns = s.turns := rfl
@[simp] theorem State.modLaunch_cur (s : State) (u : Nat) (f : Launch → Launch) : (s.modLaunch u f).cur = s.cur := rfl
@[simp] theorem State.modLaunch_free (s : State) (u : Nat) (f : Launch → Launch) : (s.modLaunch u f).free = s.free := rfl
@[simp] theorem State.modLaunch_nextId (s : State) (u : Nat) (f : Launch → Launch) : (s.modLaunch u f).nextId = s.nextId := rfl
@[simp] theorem State.modLaunch_mem (s : State) (u : Nat) (f : Launch → Launch) : (s.modLaunch u f).mem = s.mem := rfl
@[simp] theorem State.modLaunch_cores (s : State) (u : Nat) (f : Launch → Launch) : (s.modLaunch u f).cores = s.cores := rfl
@[simp] theorem State.modLaunch_dies (s : State) (u : Nat) (f : Launch → Launch) : (s.modLaunch u f).dies = s.dies := rfl
@[simp] theorem State.modLaunch_hubTlb (s : State) (u : Nat) (f : Launch → Launch) : (s.modLaunch u f).hubTlb = s.hubTlb := rfl
@[simp] theorem State.modLaunch_hubWmaps (s : State) (u : Nat) (f : Launch → Launch) : (s.modLaunch u f).hubWmaps = s.hubWmaps := rfl
@[simp] theorem State.modLaunch_homeMap (s : State) (u : Nat) (f : Launch → Launch) : (s.modLaunch u f).homeMap = s.homeMap := rfl
@[simp] theorem State.modLaunch_expanders (s : State) (u : Nat) (f : Launch → Launch) : (s.modLaunch u f).expanders = s.expanders := rfl
@[simp] theorem State.modLaunch_regionAt (s : State) (u : Nat) (f : Launch → Launch) : (s.modLaunch u f).regionAt = s.regionAt := rfl
@[simp] theorem State.modLaunch_migWait (s : State) (u : Nat) (f : Launch → Launch) : (s.modLaunch u f).migWait = s.migWait := rfl
@[simp] theorem State.modLaunch_heldWrites (s : State) (u : Nat) (f : Launch → Launch) : (s.modLaunch u f).heldWrites = s.heldWrites := rfl
@[simp] theorem State.modLaunch_poisoned (s : State) (u : Nat) (f : Launch → Launch) : (s.modLaunch u f).poisoned = s.poisoned := rfl
@[simp] theorem State.modLaunch_latent (s : State) (u : Nat) (f : Launch → Launch) : (s.modLaunch u f).latent = s.latent := rfl
@[simp] theorem State.modLaunch_msgs (s : State) (u : Nat) (f : Launch → Launch) : (s.modLaunch u f).msgs = s.msgs := rfl
@[simp] theorem State.modLaunch_tenants (s : State) (u : Nat) (f : Launch → Launch) : (s.modLaunch u f).tenants = s.tenants := rfl
@[simp] theorem State.modLaunch_queues (s : State) (u : Nat) (f : Launch → Launch) : (s.modLaunch u f).queues = s.queues := rfl
@[simp] theorem State.modLaunch_launches (s : State) (u : Nat) (f : Launch → Launch) : (s.modLaunch u f).launches = s.launches.map fun l => if l.uid == u then f l else l := rfl
@[simp] theorem State.modLaunch_caps (s : State) (u : Nat) (f : Launch → Launch) : (s.modLaunch u f).caps = s.caps := rfl
@[simp] theorem State.modLaunch_status (s : State) (u : Nat) (f : Launch → Launch) : (s.modLaunch u f).status = s.status := rfl
@[simp] theorem State.modLaunch_security (s : State) (u : Nat) (f : Launch → Launch) : (s.modLaunch u f).security = s.security := rfl
@[simp] theorem State.modLaunch_devNum (s : State) (u : Nat) (f : Launch → Launch) : (s.modLaunch u f).devNum = s.devNum := rfl
@[simp] theorem State.modLaunch_devNumSet (s : State) (u : Nat) (f : Launch → Launch) : (s.modLaunch u f).devNumSet = s.devNumSet := rfl
@[simp] theorem State.modLaunch_trip (s : State) (u : Nat) (f : Launch → Launch) : (s.modLaunch u f).trip = s.trip := rfl
@[simp] theorem State.modLaunch_islands (s : State) (u : Nat) (f : Launch → Launch) : (s.modLaunch u f).islands = s.islands := rfl
@[simp] theorem State.modLaunch_erasure (s : State) (u : Nat) (f : Launch → Launch) : (s.modLaunch u f).erasure = s.erasure := rfl
@[simp] theorem State.modLaunch_symbolFixes (s : State) (u : Nat) (f : Launch → Launch) : (s.modLaunch u f).symbolFixes = s.symbolFixes := rfl
@[simp] theorem State.modLaunch_corrected (s : State) (u : Nat) (f : Launch → Launch) : (s.modLaunch u f).corrected = s.corrected := rfl
@[simp] theorem State.modLaunch_linksUp (s : State) (u : Nat) (f : Launch → Launch) : (s.modLaunch u f).linksUp = s.linksUp := rfl
@[simp] theorem State.modLaunch_ownerKey (s : State) (u : Nat) (f : Launch → Launch) : (s.modLaunch u f).ownerKey = s.ownerKey := rfl
@[simp] theorem State.modLaunch_transfers (s : State) (u : Nat) (f : Launch → Launch) : (s.modLaunch u f).transfers = s.transfers := rfl
@[simp] theorem State.modLaunch_transfer (s : State) (u : Nat) (f : Launch → Launch) : (s.modLaunch u f).transfer = s.transfer := rfl
@[simp] theorem State.modLaunch_nonceOut (s : State) (u : Nat) (f : Launch → Launch) : (s.modLaunch u f).nonceOut = s.nonceOut := rfl
@[simp] theorem State.modLaunch_minVersion (s : State) (u : Nat) (f : Launch → Launch) : (s.modLaunch u f).minVersion = s.minVersion := rfl
@[simp] theorem State.modLaunch_measures (s : State) (u : Nat) (f : Launch → Launch) : (s.modLaunch u f).measures = s.measures := rfl
@[simp] theorem State.modLaunch_spdmSession (s : State) (u : Nat) (f : Launch → Launch) : (s.modLaunch u f).spdmSession = s.spdmSession := rfl
@[simp] theorem State.modLaunch_out (s : State) (u : Nat) (f : Launch → Launch) : (s.modLaunch u f).out = s.out := rfl

/-! ## State.fresh -/

@[simp] theorem State.fresh_turns (s : State) : (s.fresh).turns = s.turns := rfl
@[simp] theorem State.fresh_cur (s : State) : (s.fresh).cur = s.cur := rfl
@[simp] theorem State.fresh_free (s : State) : (s.fresh).free = s.free := rfl
@[simp] theorem State.fresh_nextId (s : State) : (s.fresh).nextId = s.nextId + 1 := rfl
@[simp] theorem State.fresh_mem (s : State) : (s.fresh).mem = s.mem := rfl
@[simp] theorem State.fresh_cores (s : State) : (s.fresh).cores = s.cores := rfl
@[simp] theorem State.fresh_dies (s : State) : (s.fresh).dies = s.dies := rfl
@[simp] theorem State.fresh_hubTlb (s : State) : (s.fresh).hubTlb = s.hubTlb := rfl
@[simp] theorem State.fresh_hubWmaps (s : State) : (s.fresh).hubWmaps = s.hubWmaps := rfl
@[simp] theorem State.fresh_homeMap (s : State) : (s.fresh).homeMap = s.homeMap := rfl
@[simp] theorem State.fresh_expanders (s : State) : (s.fresh).expanders = s.expanders := rfl
@[simp] theorem State.fresh_regionAt (s : State) : (s.fresh).regionAt = s.regionAt := rfl
@[simp] theorem State.fresh_migWait (s : State) : (s.fresh).migWait = s.migWait := rfl
@[simp] theorem State.fresh_heldWrites (s : State) : (s.fresh).heldWrites = s.heldWrites := rfl
@[simp] theorem State.fresh_poisoned (s : State) : (s.fresh).poisoned = s.poisoned := rfl
@[simp] theorem State.fresh_latent (s : State) : (s.fresh).latent = s.latent := rfl
@[simp] theorem State.fresh_msgs (s : State) : (s.fresh).msgs = s.msgs := rfl
@[simp] theorem State.fresh_tenants (s : State) : (s.fresh).tenants = s.tenants := rfl
@[simp] theorem State.fresh_queues (s : State) : (s.fresh).queues = s.queues := rfl
@[simp] theorem State.fresh_launches (s : State) : (s.fresh).launches = s.launches := rfl
@[simp] theorem State.fresh_caps (s : State) : (s.fresh).caps = s.caps := rfl
@[simp] theorem State.fresh_status (s : State) : (s.fresh).status = s.status := rfl
@[simp] theorem State.fresh_security (s : State) : (s.fresh).security = s.security := rfl
@[simp] theorem State.fresh_devNum (s : State) : (s.fresh).devNum = s.devNum := rfl
@[simp] theorem State.fresh_devNumSet (s : State) : (s.fresh).devNumSet = s.devNumSet := rfl
@[simp] theorem State.fresh_trip (s : State) : (s.fresh).trip = s.trip := rfl
@[simp] theorem State.fresh_islands (s : State) : (s.fresh).islands = s.islands := rfl
@[simp] theorem State.fresh_erasure (s : State) : (s.fresh).erasure = s.erasure := rfl
@[simp] theorem State.fresh_symbolFixes (s : State) : (s.fresh).symbolFixes = s.symbolFixes := rfl
@[simp] theorem State.fresh_corrected (s : State) : (s.fresh).corrected = s.corrected := rfl
@[simp] theorem State.fresh_linksUp (s : State) : (s.fresh).linksUp = s.linksUp := rfl
@[simp] theorem State.fresh_ownerKey (s : State) : (s.fresh).ownerKey = s.ownerKey := rfl
@[simp] theorem State.fresh_transfers (s : State) : (s.fresh).transfers = s.transfers := rfl
@[simp] theorem State.fresh_transfer (s : State) : (s.fresh).transfer = s.transfer := rfl
@[simp] theorem State.fresh_nonceOut (s : State) : (s.fresh).nonceOut = s.nonceOut := rfl
@[simp] theorem State.fresh_minVersion (s : State) : (s.fresh).minVersion = s.minVersion := rfl
@[simp] theorem State.fresh_measures (s : State) : (s.fresh).measures = s.measures := rfl
@[simp] theorem State.fresh_spdmSession (s : State) : (s.fresh).spdmSession = s.spdmSession := rfl
@[simp] theorem State.fresh_out (s : State) : (s.fresh).out = s.out := rfl

/-! ## State.draw -/

@[simp] theorem State.draw_turns (s : State) : (s.draw).turns = s.turns := rfl
@[simp] theorem State.draw_cur (s : State) : (s.draw).cur = s.cur := rfl
@[simp] theorem State.draw_free (s : State) : (s.draw).free = s.free + 1 := rfl
@[simp] theorem State.draw_nextId (s : State) : (s.draw).nextId = s.nextId := rfl
@[simp] theorem State.draw_mem (s : State) : (s.draw).mem = s.mem := rfl
@[simp] theorem State.draw_cores (s : State) : (s.draw).cores = s.cores := rfl
@[simp] theorem State.draw_dies (s : State) : (s.draw).dies = s.dies := rfl
@[simp] theorem State.draw_hubTlb (s : State) : (s.draw).hubTlb = s.hubTlb := rfl
@[simp] theorem State.draw_hubWmaps (s : State) : (s.draw).hubWmaps = s.hubWmaps := rfl
@[simp] theorem State.draw_homeMap (s : State) : (s.draw).homeMap = s.homeMap := rfl
@[simp] theorem State.draw_expanders (s : State) : (s.draw).expanders = s.expanders := rfl
@[simp] theorem State.draw_regionAt (s : State) : (s.draw).regionAt = s.regionAt := rfl
@[simp] theorem State.draw_migWait (s : State) : (s.draw).migWait = s.migWait := rfl
@[simp] theorem State.draw_heldWrites (s : State) : (s.draw).heldWrites = s.heldWrites := rfl
@[simp] theorem State.draw_poisoned (s : State) : (s.draw).poisoned = s.poisoned := rfl
@[simp] theorem State.draw_latent (s : State) : (s.draw).latent = s.latent := rfl
@[simp] theorem State.draw_msgs (s : State) : (s.draw).msgs = s.msgs := rfl
@[simp] theorem State.draw_tenants (s : State) : (s.draw).tenants = s.tenants := rfl
@[simp] theorem State.draw_queues (s : State) : (s.draw).queues = s.queues := rfl
@[simp] theorem State.draw_launches (s : State) : (s.draw).launches = s.launches := rfl
@[simp] theorem State.draw_caps (s : State) : (s.draw).caps = s.caps := rfl
@[simp] theorem State.draw_status (s : State) : (s.draw).status = s.status := rfl
@[simp] theorem State.draw_security (s : State) : (s.draw).security = s.security := rfl
@[simp] theorem State.draw_devNum (s : State) : (s.draw).devNum = s.devNum := rfl
@[simp] theorem State.draw_devNumSet (s : State) : (s.draw).devNumSet = s.devNumSet := rfl
@[simp] theorem State.draw_trip (s : State) : (s.draw).trip = s.trip := rfl
@[simp] theorem State.draw_islands (s : State) : (s.draw).islands = s.islands := rfl
@[simp] theorem State.draw_erasure (s : State) : (s.draw).erasure = s.erasure := rfl
@[simp] theorem State.draw_symbolFixes (s : State) : (s.draw).symbolFixes = s.symbolFixes := rfl
@[simp] theorem State.draw_corrected (s : State) : (s.draw).corrected = s.corrected := rfl
@[simp] theorem State.draw_linksUp (s : State) : (s.draw).linksUp = s.linksUp := rfl
@[simp] theorem State.draw_ownerKey (s : State) : (s.draw).ownerKey = s.ownerKey := rfl
@[simp] theorem State.draw_transfers (s : State) : (s.draw).transfers = s.transfers := rfl
@[simp] theorem State.draw_transfer (s : State) : (s.draw).transfer = s.transfer := rfl
@[simp] theorem State.draw_nonceOut (s : State) : (s.draw).nonceOut = s.nonceOut := rfl
@[simp] theorem State.draw_minVersion (s : State) : (s.draw).minVersion = s.minVersion := rfl
@[simp] theorem State.draw_measures (s : State) : (s.draw).measures = s.measures := rfl
@[simp] theorem State.draw_spdmSession (s : State) : (s.draw).spdmSession = s.spdmSession := rfl
@[simp] theorem State.draw_out (s : State) : (s.draw).out = s.out := rfl

/-! ## State.emit -/

@[simp] theorem State.emit_turns (s : State) (o : Out) : (s.emit o).turns = s.turns := rfl
@[simp] theorem State.emit_cur (s : State) (o : Out) : (s.emit o).cur = s.cur := rfl
@[simp] theorem State.emit_free (s : State) (o : Out) : (s.emit o).free = s.free := rfl
@[simp] theorem State.emit_nextId (s : State) (o : Out) : (s.emit o).nextId = s.nextId := rfl
@[simp] theorem State.emit_mem (s : State) (o : Out) : (s.emit o).mem = s.mem := rfl
@[simp] theorem State.emit_cores (s : State) (o : Out) : (s.emit o).cores = s.cores := rfl
@[simp] theorem State.emit_dies (s : State) (o : Out) : (s.emit o).dies = s.dies := rfl
@[simp] theorem State.emit_hubTlb (s : State) (o : Out) : (s.emit o).hubTlb = s.hubTlb := rfl
@[simp] theorem State.emit_hubWmaps (s : State) (o : Out) : (s.emit o).hubWmaps = s.hubWmaps := rfl
@[simp] theorem State.emit_homeMap (s : State) (o : Out) : (s.emit o).homeMap = s.homeMap := rfl
@[simp] theorem State.emit_expanders (s : State) (o : Out) : (s.emit o).expanders = s.expanders := rfl
@[simp] theorem State.emit_regionAt (s : State) (o : Out) : (s.emit o).regionAt = s.regionAt := rfl
@[simp] theorem State.emit_migWait (s : State) (o : Out) : (s.emit o).migWait = s.migWait := rfl
@[simp] theorem State.emit_heldWrites (s : State) (o : Out) : (s.emit o).heldWrites = s.heldWrites := rfl
@[simp] theorem State.emit_poisoned (s : State) (o : Out) : (s.emit o).poisoned = s.poisoned := rfl
@[simp] theorem State.emit_latent (s : State) (o : Out) : (s.emit o).latent = s.latent := rfl
@[simp] theorem State.emit_msgs (s : State) (o : Out) : (s.emit o).msgs = s.msgs := rfl
@[simp] theorem State.emit_tenants (s : State) (o : Out) : (s.emit o).tenants = s.tenants := rfl
@[simp] theorem State.emit_queues (s : State) (o : Out) : (s.emit o).queues = s.queues := rfl
@[simp] theorem State.emit_launches (s : State) (o : Out) : (s.emit o).launches = s.launches := rfl
@[simp] theorem State.emit_caps (s : State) (o : Out) : (s.emit o).caps = s.caps := rfl
@[simp] theorem State.emit_status (s : State) (o : Out) : (s.emit o).status = s.status := rfl
@[simp] theorem State.emit_security (s : State) (o : Out) : (s.emit o).security = s.security := rfl
@[simp] theorem State.emit_devNum (s : State) (o : Out) : (s.emit o).devNum = s.devNum := rfl
@[simp] theorem State.emit_devNumSet (s : State) (o : Out) : (s.emit o).devNumSet = s.devNumSet := rfl
@[simp] theorem State.emit_trip (s : State) (o : Out) : (s.emit o).trip = s.trip := rfl
@[simp] theorem State.emit_islands (s : State) (o : Out) : (s.emit o).islands = s.islands := rfl
@[simp] theorem State.emit_erasure (s : State) (o : Out) : (s.emit o).erasure = s.erasure := rfl
@[simp] theorem State.emit_symbolFixes (s : State) (o : Out) : (s.emit o).symbolFixes = s.symbolFixes := rfl
@[simp] theorem State.emit_corrected (s : State) (o : Out) : (s.emit o).corrected = s.corrected := rfl
@[simp] theorem State.emit_linksUp (s : State) (o : Out) : (s.emit o).linksUp = s.linksUp := rfl
@[simp] theorem State.emit_ownerKey (s : State) (o : Out) : (s.emit o).ownerKey = s.ownerKey := rfl
@[simp] theorem State.emit_transfers (s : State) (o : Out) : (s.emit o).transfers = s.transfers := rfl
@[simp] theorem State.emit_transfer (s : State) (o : Out) : (s.emit o).transfer = s.transfer := rfl
@[simp] theorem State.emit_nonceOut (s : State) (o : Out) : (s.emit o).nonceOut = s.nonceOut := rfl
@[simp] theorem State.emit_minVersion (s : State) (o : Out) : (s.emit o).minVersion = s.minVersion := rfl
@[simp] theorem State.emit_measures (s : State) (o : Out) : (s.emit o).measures = s.measures := rfl
@[simp] theorem State.emit_spdmSession (s : State) (o : Out) : (s.emit o).spdmSession = s.spdmSession := rfl
@[simp] theorem State.emit_out (s : State) (o : Out) : (s.emit o).out = s.out ++ [o] := rfl

/-! ## State.modCore -/

@[simp] theorem State.modCore_turns (s : State) (c : Nat) (f : Core → Core) : (s.modCore c f).turns = s.turns := rfl
@[simp] theorem State.modCore_cur (s : State) (c : Nat) (f : Core → Core) : (s.modCore c f).cur = s.cur := rfl
@[simp] theorem State.modCore_free (s : State) (c : Nat) (f : Core → Core) : (s.modCore c f).free = s.free := rfl
@[simp] theorem State.modCore_nextId (s : State) (c : Nat) (f : Core → Core) : (s.modCore c f).nextId = s.nextId := rfl
@[simp] theorem State.modCore_mem (s : State) (c : Nat) (f : Core → Core) : (s.modCore c f).mem = s.mem := rfl
@[simp] theorem State.modCore_cores (s : State) (c : Nat) (f : Core → Core) : (s.modCore c f).cores = SMap.set s.cores c (f (s.core c)) := rfl
@[simp] theorem State.modCore_dies (s : State) (c : Nat) (f : Core → Core) : (s.modCore c f).dies = s.dies := rfl
@[simp] theorem State.modCore_hubTlb (s : State) (c : Nat) (f : Core → Core) : (s.modCore c f).hubTlb = s.hubTlb := rfl
@[simp] theorem State.modCore_hubWmaps (s : State) (c : Nat) (f : Core → Core) : (s.modCore c f).hubWmaps = s.hubWmaps := rfl
@[simp] theorem State.modCore_homeMap (s : State) (c : Nat) (f : Core → Core) : (s.modCore c f).homeMap = s.homeMap := rfl
@[simp] theorem State.modCore_expanders (s : State) (c : Nat) (f : Core → Core) : (s.modCore c f).expanders = s.expanders := rfl
@[simp] theorem State.modCore_regionAt (s : State) (c : Nat) (f : Core → Core) : (s.modCore c f).regionAt = s.regionAt := rfl
@[simp] theorem State.modCore_migWait (s : State) (c : Nat) (f : Core → Core) : (s.modCore c f).migWait = s.migWait := rfl
@[simp] theorem State.modCore_heldWrites (s : State) (c : Nat) (f : Core → Core) : (s.modCore c f).heldWrites = s.heldWrites := rfl
@[simp] theorem State.modCore_poisoned (s : State) (c : Nat) (f : Core → Core) : (s.modCore c f).poisoned = s.poisoned := rfl
@[simp] theorem State.modCore_latent (s : State) (c : Nat) (f : Core → Core) : (s.modCore c f).latent = s.latent := rfl
@[simp] theorem State.modCore_msgs (s : State) (c : Nat) (f : Core → Core) : (s.modCore c f).msgs = s.msgs := rfl
@[simp] theorem State.modCore_tenants (s : State) (c : Nat) (f : Core → Core) : (s.modCore c f).tenants = s.tenants := rfl
@[simp] theorem State.modCore_queues (s : State) (c : Nat) (f : Core → Core) : (s.modCore c f).queues = s.queues := rfl
@[simp] theorem State.modCore_launches (s : State) (c : Nat) (f : Core → Core) : (s.modCore c f).launches = s.launches := rfl
@[simp] theorem State.modCore_caps (s : State) (c : Nat) (f : Core → Core) : (s.modCore c f).caps = s.caps := rfl
@[simp] theorem State.modCore_status (s : State) (c : Nat) (f : Core → Core) : (s.modCore c f).status = s.status := rfl
@[simp] theorem State.modCore_security (s : State) (c : Nat) (f : Core → Core) : (s.modCore c f).security = s.security := rfl
@[simp] theorem State.modCore_devNum (s : State) (c : Nat) (f : Core → Core) : (s.modCore c f).devNum = s.devNum := rfl
@[simp] theorem State.modCore_devNumSet (s : State) (c : Nat) (f : Core → Core) : (s.modCore c f).devNumSet = s.devNumSet := rfl
@[simp] theorem State.modCore_trip (s : State) (c : Nat) (f : Core → Core) : (s.modCore c f).trip = s.trip := rfl
@[simp] theorem State.modCore_islands (s : State) (c : Nat) (f : Core → Core) : (s.modCore c f).islands = s.islands := rfl
@[simp] theorem State.modCore_erasure (s : State) (c : Nat) (f : Core → Core) : (s.modCore c f).erasure = s.erasure := rfl
@[simp] theorem State.modCore_symbolFixes (s : State) (c : Nat) (f : Core → Core) : (s.modCore c f).symbolFixes = s.symbolFixes := rfl
@[simp] theorem State.modCore_corrected (s : State) (c : Nat) (f : Core → Core) : (s.modCore c f).corrected = s.corrected := rfl
@[simp] theorem State.modCore_linksUp (s : State) (c : Nat) (f : Core → Core) : (s.modCore c f).linksUp = s.linksUp := rfl
@[simp] theorem State.modCore_ownerKey (s : State) (c : Nat) (f : Core → Core) : (s.modCore c f).ownerKey = s.ownerKey := rfl
@[simp] theorem State.modCore_transfers (s : State) (c : Nat) (f : Core → Core) : (s.modCore c f).transfers = s.transfers := rfl
@[simp] theorem State.modCore_transfer (s : State) (c : Nat) (f : Core → Core) : (s.modCore c f).transfer = s.transfer := rfl
@[simp] theorem State.modCore_nonceOut (s : State) (c : Nat) (f : Core → Core) : (s.modCore c f).nonceOut = s.nonceOut := rfl
@[simp] theorem State.modCore_minVersion (s : State) (c : Nat) (f : Core → Core) : (s.modCore c f).minVersion = s.minVersion := rfl
@[simp] theorem State.modCore_measures (s : State) (c : Nat) (f : Core → Core) : (s.modCore c f).measures = s.measures := rfl
@[simp] theorem State.modCore_spdmSession (s : State) (c : Nat) (f : Core → Core) : (s.modCore c f).spdmSession = s.spdmSession := rfl
@[simp] theorem State.modCore_out (s : State) (c : Nat) (f : Core → Core) : (s.modCore c f).out = s.out := rfl

/-! ## State.modWg -/

@[simp] theorem State.modWg_turns (s : State) (c : Nat) (f : Wg → Wg) : (s.modWg c f).turns = s.turns := rfl
@[simp] theorem State.modWg_cur (s : State) (c : Nat) (f : Wg → Wg) : (s.modWg c f).cur = s.cur := rfl
@[simp] theorem State.modWg_free (s : State) (c : Nat) (f : Wg → Wg) : (s.modWg c f).free = s.free := rfl
@[simp] theorem State.modWg_nextId (s : State) (c : Nat) (f : Wg → Wg) : (s.modWg c f).nextId = s.nextId := rfl
@[simp] theorem State.modWg_mem (s : State) (c : Nat) (f : Wg → Wg) : (s.modWg c f).mem = s.mem := rfl
@[simp] theorem State.modWg_dies (s : State) (c : Nat) (f : Wg → Wg) : (s.modWg c f).dies = s.dies := rfl
@[simp] theorem State.modWg_hubTlb (s : State) (c : Nat) (f : Wg → Wg) : (s.modWg c f).hubTlb = s.hubTlb := rfl
@[simp] theorem State.modWg_hubWmaps (s : State) (c : Nat) (f : Wg → Wg) : (s.modWg c f).hubWmaps = s.hubWmaps := rfl
@[simp] theorem State.modWg_homeMap (s : State) (c : Nat) (f : Wg → Wg) : (s.modWg c f).homeMap = s.homeMap := rfl
@[simp] theorem State.modWg_expanders (s : State) (c : Nat) (f : Wg → Wg) : (s.modWg c f).expanders = s.expanders := rfl
@[simp] theorem State.modWg_regionAt (s : State) (c : Nat) (f : Wg → Wg) : (s.modWg c f).regionAt = s.regionAt := rfl
@[simp] theorem State.modWg_migWait (s : State) (c : Nat) (f : Wg → Wg) : (s.modWg c f).migWait = s.migWait := rfl
@[simp] theorem State.modWg_heldWrites (s : State) (c : Nat) (f : Wg → Wg) : (s.modWg c f).heldWrites = s.heldWrites := rfl
@[simp] theorem State.modWg_poisoned (s : State) (c : Nat) (f : Wg → Wg) : (s.modWg c f).poisoned = s.poisoned := rfl
@[simp] theorem State.modWg_latent (s : State) (c : Nat) (f : Wg → Wg) : (s.modWg c f).latent = s.latent := rfl
@[simp] theorem State.modWg_msgs (s : State) (c : Nat) (f : Wg → Wg) : (s.modWg c f).msgs = s.msgs := rfl
@[simp] theorem State.modWg_tenants (s : State) (c : Nat) (f : Wg → Wg) : (s.modWg c f).tenants = s.tenants := rfl
@[simp] theorem State.modWg_queues (s : State) (c : Nat) (f : Wg → Wg) : (s.modWg c f).queues = s.queues := rfl
@[simp] theorem State.modWg_launches (s : State) (c : Nat) (f : Wg → Wg) : (s.modWg c f).launches = s.launches := rfl
@[simp] theorem State.modWg_caps (s : State) (c : Nat) (f : Wg → Wg) : (s.modWg c f).caps = s.caps := rfl
@[simp] theorem State.modWg_status (s : State) (c : Nat) (f : Wg → Wg) : (s.modWg c f).status = s.status := rfl
@[simp] theorem State.modWg_security (s : State) (c : Nat) (f : Wg → Wg) : (s.modWg c f).security = s.security := rfl
@[simp] theorem State.modWg_devNum (s : State) (c : Nat) (f : Wg → Wg) : (s.modWg c f).devNum = s.devNum := rfl
@[simp] theorem State.modWg_devNumSet (s : State) (c : Nat) (f : Wg → Wg) : (s.modWg c f).devNumSet = s.devNumSet := rfl
@[simp] theorem State.modWg_trip (s : State) (c : Nat) (f : Wg → Wg) : (s.modWg c f).trip = s.trip := rfl
@[simp] theorem State.modWg_islands (s : State) (c : Nat) (f : Wg → Wg) : (s.modWg c f).islands = s.islands := rfl
@[simp] theorem State.modWg_erasure (s : State) (c : Nat) (f : Wg → Wg) : (s.modWg c f).erasure = s.erasure := rfl
@[simp] theorem State.modWg_symbolFixes (s : State) (c : Nat) (f : Wg → Wg) : (s.modWg c f).symbolFixes = s.symbolFixes := rfl
@[simp] theorem State.modWg_corrected (s : State) (c : Nat) (f : Wg → Wg) : (s.modWg c f).corrected = s.corrected := rfl
@[simp] theorem State.modWg_linksUp (s : State) (c : Nat) (f : Wg → Wg) : (s.modWg c f).linksUp = s.linksUp := rfl
@[simp] theorem State.modWg_ownerKey (s : State) (c : Nat) (f : Wg → Wg) : (s.modWg c f).ownerKey = s.ownerKey := rfl
@[simp] theorem State.modWg_transfers (s : State) (c : Nat) (f : Wg → Wg) : (s.modWg c f).transfers = s.transfers := rfl
@[simp] theorem State.modWg_transfer (s : State) (c : Nat) (f : Wg → Wg) : (s.modWg c f).transfer = s.transfer := rfl
@[simp] theorem State.modWg_nonceOut (s : State) (c : Nat) (f : Wg → Wg) : (s.modWg c f).nonceOut = s.nonceOut := rfl
@[simp] theorem State.modWg_minVersion (s : State) (c : Nat) (f : Wg → Wg) : (s.modWg c f).minVersion = s.minVersion := rfl
@[simp] theorem State.modWg_measures (s : State) (c : Nat) (f : Wg → Wg) : (s.modWg c f).measures = s.measures := rfl
@[simp] theorem State.modWg_spdmSession (s : State) (c : Nat) (f : Wg → Wg) : (s.modWg c f).spdmSession = s.spdmSession := rfl
@[simp] theorem State.modWg_out (s : State) (c : Nat) (f : Wg → Wg) : (s.modWg c f).out = s.out := rfl

/-! ## State.modGroup -/

@[simp] theorem State.modGroup_turns (s : State) (c g : Nat) (f : Group → Group) : (s.modGroup c g f).turns = s.turns := rfl
@[simp] theorem State.modGroup_cur (s : State) (c g : Nat) (f : Group → Group) : (s.modGroup c g f).cur = s.cur := rfl
@[simp] theorem State.modGroup_free (s : State) (c g : Nat) (f : Group → Group) : (s.modGroup c g f).free = s.free := rfl
@[simp] theorem State.modGroup_nextId (s : State) (c g : Nat) (f : Group → Group) : (s.modGroup c g f).nextId = s.nextId := rfl
@[simp] theorem State.modGroup_mem (s : State) (c g : Nat) (f : Group → Group) : (s.modGroup c g f).mem = s.mem := rfl
@[simp] theorem State.modGroup_dies (s : State) (c g : Nat) (f : Group → Group) : (s.modGroup c g f).dies = s.dies := rfl
@[simp] theorem State.modGroup_hubTlb (s : State) (c g : Nat) (f : Group → Group) : (s.modGroup c g f).hubTlb = s.hubTlb := rfl
@[simp] theorem State.modGroup_hubWmaps (s : State) (c g : Nat) (f : Group → Group) : (s.modGroup c g f).hubWmaps = s.hubWmaps := rfl
@[simp] theorem State.modGroup_homeMap (s : State) (c g : Nat) (f : Group → Group) : (s.modGroup c g f).homeMap = s.homeMap := rfl
@[simp] theorem State.modGroup_expanders (s : State) (c g : Nat) (f : Group → Group) : (s.modGroup c g f).expanders = s.expanders := rfl
@[simp] theorem State.modGroup_regionAt (s : State) (c g : Nat) (f : Group → Group) : (s.modGroup c g f).regionAt = s.regionAt := rfl
@[simp] theorem State.modGroup_migWait (s : State) (c g : Nat) (f : Group → Group) : (s.modGroup c g f).migWait = s.migWait := rfl
@[simp] theorem State.modGroup_heldWrites (s : State) (c g : Nat) (f : Group → Group) : (s.modGroup c g f).heldWrites = s.heldWrites := rfl
@[simp] theorem State.modGroup_poisoned (s : State) (c g : Nat) (f : Group → Group) : (s.modGroup c g f).poisoned = s.poisoned := rfl
@[simp] theorem State.modGroup_latent (s : State) (c g : Nat) (f : Group → Group) : (s.modGroup c g f).latent = s.latent := rfl
@[simp] theorem State.modGroup_msgs (s : State) (c g : Nat) (f : Group → Group) : (s.modGroup c g f).msgs = s.msgs := rfl
@[simp] theorem State.modGroup_tenants (s : State) (c g : Nat) (f : Group → Group) : (s.modGroup c g f).tenants = s.tenants := rfl
@[simp] theorem State.modGroup_queues (s : State) (c g : Nat) (f : Group → Group) : (s.modGroup c g f).queues = s.queues := rfl
@[simp] theorem State.modGroup_launches (s : State) (c g : Nat) (f : Group → Group) : (s.modGroup c g f).launches = s.launches := rfl
@[simp] theorem State.modGroup_caps (s : State) (c g : Nat) (f : Group → Group) : (s.modGroup c g f).caps = s.caps := rfl
@[simp] theorem State.modGroup_status (s : State) (c g : Nat) (f : Group → Group) : (s.modGroup c g f).status = s.status := rfl
@[simp] theorem State.modGroup_security (s : State) (c g : Nat) (f : Group → Group) : (s.modGroup c g f).security = s.security := rfl
@[simp] theorem State.modGroup_devNum (s : State) (c g : Nat) (f : Group → Group) : (s.modGroup c g f).devNum = s.devNum := rfl
@[simp] theorem State.modGroup_devNumSet (s : State) (c g : Nat) (f : Group → Group) : (s.modGroup c g f).devNumSet = s.devNumSet := rfl
@[simp] theorem State.modGroup_trip (s : State) (c g : Nat) (f : Group → Group) : (s.modGroup c g f).trip = s.trip := rfl
@[simp] theorem State.modGroup_islands (s : State) (c g : Nat) (f : Group → Group) : (s.modGroup c g f).islands = s.islands := rfl
@[simp] theorem State.modGroup_erasure (s : State) (c g : Nat) (f : Group → Group) : (s.modGroup c g f).erasure = s.erasure := rfl
@[simp] theorem State.modGroup_symbolFixes (s : State) (c g : Nat) (f : Group → Group) : (s.modGroup c g f).symbolFixes = s.symbolFixes := rfl
@[simp] theorem State.modGroup_corrected (s : State) (c g : Nat) (f : Group → Group) : (s.modGroup c g f).corrected = s.corrected := rfl
@[simp] theorem State.modGroup_linksUp (s : State) (c g : Nat) (f : Group → Group) : (s.modGroup c g f).linksUp = s.linksUp := rfl
@[simp] theorem State.modGroup_ownerKey (s : State) (c g : Nat) (f : Group → Group) : (s.modGroup c g f).ownerKey = s.ownerKey := rfl
@[simp] theorem State.modGroup_transfers (s : State) (c g : Nat) (f : Group → Group) : (s.modGroup c g f).transfers = s.transfers := rfl
@[simp] theorem State.modGroup_transfer (s : State) (c g : Nat) (f : Group → Group) : (s.modGroup c g f).transfer = s.transfer := rfl
@[simp] theorem State.modGroup_nonceOut (s : State) (c g : Nat) (f : Group → Group) : (s.modGroup c g f).nonceOut = s.nonceOut := rfl
@[simp] theorem State.modGroup_minVersion (s : State) (c g : Nat) (f : Group → Group) : (s.modGroup c g f).minVersion = s.minVersion := rfl
@[simp] theorem State.modGroup_measures (s : State) (c g : Nat) (f : Group → Group) : (s.modGroup c g f).measures = s.measures := rfl
@[simp] theorem State.modGroup_spdmSession (s : State) (c g : Nat) (f : Group → Group) : (s.modGroup c g f).spdmSession = s.spdmSession := rfl
@[simp] theorem State.modGroup_out (s : State) (c g : Nat) (f : Group → Group) : (s.modGroup c g f).out = s.out := rfl

/-! ## State.modDie -/

@[simp] theorem State.modDie_turns (s : State) (d : Nat) (f : Die → Die) : (s.modDie d f).turns = s.turns := rfl
@[simp] theorem State.modDie_cur (s : State) (d : Nat) (f : Die → Die) : (s.modDie d f).cur = s.cur := rfl
@[simp] theorem State.modDie_free (s : State) (d : Nat) (f : Die → Die) : (s.modDie d f).free = s.free := rfl
@[simp] theorem State.modDie_nextId (s : State) (d : Nat) (f : Die → Die) : (s.modDie d f).nextId = s.nextId := rfl
@[simp] theorem State.modDie_mem (s : State) (d : Nat) (f : Die → Die) : (s.modDie d f).mem = s.mem := rfl
@[simp] theorem State.modDie_cores (s : State) (d : Nat) (f : Die → Die) : (s.modDie d f).cores = s.cores := rfl
@[simp] theorem State.modDie_dies (s : State) (d : Nat) (f : Die → Die) : (s.modDie d f).dies = SMap.set s.dies d (f (s.die d)) := rfl
@[simp] theorem State.modDie_hubTlb (s : State) (d : Nat) (f : Die → Die) : (s.modDie d f).hubTlb = s.hubTlb := rfl
@[simp] theorem State.modDie_hubWmaps (s : State) (d : Nat) (f : Die → Die) : (s.modDie d f).hubWmaps = s.hubWmaps := rfl
@[simp] theorem State.modDie_homeMap (s : State) (d : Nat) (f : Die → Die) : (s.modDie d f).homeMap = s.homeMap := rfl
@[simp] theorem State.modDie_expanders (s : State) (d : Nat) (f : Die → Die) : (s.modDie d f).expanders = s.expanders := rfl
@[simp] theorem State.modDie_regionAt (s : State) (d : Nat) (f : Die → Die) : (s.modDie d f).regionAt = s.regionAt := rfl
@[simp] theorem State.modDie_migWait (s : State) (d : Nat) (f : Die → Die) : (s.modDie d f).migWait = s.migWait := rfl
@[simp] theorem State.modDie_heldWrites (s : State) (d : Nat) (f : Die → Die) : (s.modDie d f).heldWrites = s.heldWrites := rfl
@[simp] theorem State.modDie_poisoned (s : State) (d : Nat) (f : Die → Die) : (s.modDie d f).poisoned = s.poisoned := rfl
@[simp] theorem State.modDie_latent (s : State) (d : Nat) (f : Die → Die) : (s.modDie d f).latent = s.latent := rfl
@[simp] theorem State.modDie_msgs (s : State) (d : Nat) (f : Die → Die) : (s.modDie d f).msgs = s.msgs := rfl
@[simp] theorem State.modDie_tenants (s : State) (d : Nat) (f : Die → Die) : (s.modDie d f).tenants = s.tenants := rfl
@[simp] theorem State.modDie_queues (s : State) (d : Nat) (f : Die → Die) : (s.modDie d f).queues = s.queues := rfl
@[simp] theorem State.modDie_launches (s : State) (d : Nat) (f : Die → Die) : (s.modDie d f).launches = s.launches := rfl
@[simp] theorem State.modDie_caps (s : State) (d : Nat) (f : Die → Die) : (s.modDie d f).caps = s.caps := rfl
@[simp] theorem State.modDie_status (s : State) (d : Nat) (f : Die → Die) : (s.modDie d f).status = s.status := rfl
@[simp] theorem State.modDie_security (s : State) (d : Nat) (f : Die → Die) : (s.modDie d f).security = s.security := rfl
@[simp] theorem State.modDie_devNum (s : State) (d : Nat) (f : Die → Die) : (s.modDie d f).devNum = s.devNum := rfl
@[simp] theorem State.modDie_devNumSet (s : State) (d : Nat) (f : Die → Die) : (s.modDie d f).devNumSet = s.devNumSet := rfl
@[simp] theorem State.modDie_trip (s : State) (d : Nat) (f : Die → Die) : (s.modDie d f).trip = s.trip := rfl
@[simp] theorem State.modDie_islands (s : State) (d : Nat) (f : Die → Die) : (s.modDie d f).islands = s.islands := rfl
@[simp] theorem State.modDie_erasure (s : State) (d : Nat) (f : Die → Die) : (s.modDie d f).erasure = s.erasure := rfl
@[simp] theorem State.modDie_symbolFixes (s : State) (d : Nat) (f : Die → Die) : (s.modDie d f).symbolFixes = s.symbolFixes := rfl
@[simp] theorem State.modDie_corrected (s : State) (d : Nat) (f : Die → Die) : (s.modDie d f).corrected = s.corrected := rfl
@[simp] theorem State.modDie_linksUp (s : State) (d : Nat) (f : Die → Die) : (s.modDie d f).linksUp = s.linksUp := rfl
@[simp] theorem State.modDie_ownerKey (s : State) (d : Nat) (f : Die → Die) : (s.modDie d f).ownerKey = s.ownerKey := rfl
@[simp] theorem State.modDie_transfers (s : State) (d : Nat) (f : Die → Die) : (s.modDie d f).transfers = s.transfers := rfl
@[simp] theorem State.modDie_transfer (s : State) (d : Nat) (f : Die → Die) : (s.modDie d f).transfer = s.transfer := rfl
@[simp] theorem State.modDie_nonceOut (s : State) (d : Nat) (f : Die → Die) : (s.modDie d f).nonceOut = s.nonceOut := rfl
@[simp] theorem State.modDie_minVersion (s : State) (d : Nat) (f : Die → Die) : (s.modDie d f).minVersion = s.minVersion := rfl
@[simp] theorem State.modDie_measures (s : State) (d : Nat) (f : Die → Die) : (s.modDie d f).measures = s.measures := rfl
@[simp] theorem State.modDie_spdmSession (s : State) (d : Nat) (f : Die → Die) : (s.modDie d f).spdmSession = s.spdmSession := rfl
@[simp] theorem State.modDie_out (s : State) (d : Nat) (f : Die → Die) : (s.modDie d f).out = s.out := rfl

/-! ## State.modTenant -/

@[simp] theorem State.modTenant_turns (s : State) (i : Nat) (f : Tenant → Tenant) : (s.modTenant i f).turns = s.turns := rfl
@[simp] theorem State.modTenant_cur (s : State) (i : Nat) (f : Tenant → Tenant) : (s.modTenant i f).cur = s.cur := rfl
@[simp] theorem State.modTenant_free (s : State) (i : Nat) (f : Tenant → Tenant) : (s.modTenant i f).free = s.free := rfl
@[simp] theorem State.modTenant_nextId (s : State) (i : Nat) (f : Tenant → Tenant) : (s.modTenant i f).nextId = s.nextId := rfl
@[simp] theorem State.modTenant_mem (s : State) (i : Nat) (f : Tenant → Tenant) : (s.modTenant i f).mem = s.mem := rfl
@[simp] theorem State.modTenant_cores (s : State) (i : Nat) (f : Tenant → Tenant) : (s.modTenant i f).cores = s.cores := rfl
@[simp] theorem State.modTenant_dies (s : State) (i : Nat) (f : Tenant → Tenant) : (s.modTenant i f).dies = s.dies := rfl
@[simp] theorem State.modTenant_hubTlb (s : State) (i : Nat) (f : Tenant → Tenant) : (s.modTenant i f).hubTlb = s.hubTlb := rfl
@[simp] theorem State.modTenant_hubWmaps (s : State) (i : Nat) (f : Tenant → Tenant) : (s.modTenant i f).hubWmaps = s.hubWmaps := rfl
@[simp] theorem State.modTenant_homeMap (s : State) (i : Nat) (f : Tenant → Tenant) : (s.modTenant i f).homeMap = s.homeMap := rfl
@[simp] theorem State.modTenant_expanders (s : State) (i : Nat) (f : Tenant → Tenant) : (s.modTenant i f).expanders = s.expanders := rfl
@[simp] theorem State.modTenant_regionAt (s : State) (i : Nat) (f : Tenant → Tenant) : (s.modTenant i f).regionAt = s.regionAt := rfl
@[simp] theorem State.modTenant_migWait (s : State) (i : Nat) (f : Tenant → Tenant) : (s.modTenant i f).migWait = s.migWait := rfl
@[simp] theorem State.modTenant_heldWrites (s : State) (i : Nat) (f : Tenant → Tenant) : (s.modTenant i f).heldWrites = s.heldWrites := rfl
@[simp] theorem State.modTenant_poisoned (s : State) (i : Nat) (f : Tenant → Tenant) : (s.modTenant i f).poisoned = s.poisoned := rfl
@[simp] theorem State.modTenant_latent (s : State) (i : Nat) (f : Tenant → Tenant) : (s.modTenant i f).latent = s.latent := rfl
@[simp] theorem State.modTenant_msgs (s : State) (i : Nat) (f : Tenant → Tenant) : (s.modTenant i f).msgs = s.msgs := rfl
@[simp] theorem State.modTenant_tenants (s : State) (i : Nat) (f : Tenant → Tenant) : (s.modTenant i f).tenants = SMap.set s.tenants i (f (s.tenant i)) := rfl
@[simp] theorem State.modTenant_queues (s : State) (i : Nat) (f : Tenant → Tenant) : (s.modTenant i f).queues = s.queues := rfl
@[simp] theorem State.modTenant_launches (s : State) (i : Nat) (f : Tenant → Tenant) : (s.modTenant i f).launches = s.launches := rfl
@[simp] theorem State.modTenant_caps (s : State) (i : Nat) (f : Tenant → Tenant) : (s.modTenant i f).caps = s.caps := rfl
@[simp] theorem State.modTenant_status (s : State) (i : Nat) (f : Tenant → Tenant) : (s.modTenant i f).status = s.status := rfl
@[simp] theorem State.modTenant_security (s : State) (i : Nat) (f : Tenant → Tenant) : (s.modTenant i f).security = s.security := rfl
@[simp] theorem State.modTenant_devNum (s : State) (i : Nat) (f : Tenant → Tenant) : (s.modTenant i f).devNum = s.devNum := rfl
@[simp] theorem State.modTenant_devNumSet (s : State) (i : Nat) (f : Tenant → Tenant) : (s.modTenant i f).devNumSet = s.devNumSet := rfl
@[simp] theorem State.modTenant_trip (s : State) (i : Nat) (f : Tenant → Tenant) : (s.modTenant i f).trip = s.trip := rfl
@[simp] theorem State.modTenant_islands (s : State) (i : Nat) (f : Tenant → Tenant) : (s.modTenant i f).islands = s.islands := rfl
@[simp] theorem State.modTenant_erasure (s : State) (i : Nat) (f : Tenant → Tenant) : (s.modTenant i f).erasure = s.erasure := rfl
@[simp] theorem State.modTenant_symbolFixes (s : State) (i : Nat) (f : Tenant → Tenant) : (s.modTenant i f).symbolFixes = s.symbolFixes := rfl
@[simp] theorem State.modTenant_corrected (s : State) (i : Nat) (f : Tenant → Tenant) : (s.modTenant i f).corrected = s.corrected := rfl
@[simp] theorem State.modTenant_linksUp (s : State) (i : Nat) (f : Tenant → Tenant) : (s.modTenant i f).linksUp = s.linksUp := rfl
@[simp] theorem State.modTenant_ownerKey (s : State) (i : Nat) (f : Tenant → Tenant) : (s.modTenant i f).ownerKey = s.ownerKey := rfl
@[simp] theorem State.modTenant_transfers (s : State) (i : Nat) (f : Tenant → Tenant) : (s.modTenant i f).transfers = s.transfers := rfl
@[simp] theorem State.modTenant_transfer (s : State) (i : Nat) (f : Tenant → Tenant) : (s.modTenant i f).transfer = s.transfer := rfl
@[simp] theorem State.modTenant_nonceOut (s : State) (i : Nat) (f : Tenant → Tenant) : (s.modTenant i f).nonceOut = s.nonceOut := rfl
@[simp] theorem State.modTenant_minVersion (s : State) (i : Nat) (f : Tenant → Tenant) : (s.modTenant i f).minVersion = s.minVersion := rfl
@[simp] theorem State.modTenant_measures (s : State) (i : Nat) (f : Tenant → Tenant) : (s.modTenant i f).measures = s.measures := rfl
@[simp] theorem State.modTenant_spdmSession (s : State) (i : Nat) (f : Tenant → Tenant) : (s.modTenant i f).spdmSession = s.spdmSession := rfl
@[simp] theorem State.modTenant_out (s : State) (i : Nat) (f : Tenant → Tenant) : (s.modTenant i f).out = s.out := rfl

/-! ## State.modQueue -/

@[simp] theorem State.modQueue_turns (s : State) (q : Nat) (f : Queue → Queue) : (s.modQueue q f).turns = s.turns := rfl
@[simp] theorem State.modQueue_cur (s : State) (q : Nat) (f : Queue → Queue) : (s.modQueue q f).cur = s.cur := rfl
@[simp] theorem State.modQueue_free (s : State) (q : Nat) (f : Queue → Queue) : (s.modQueue q f).free = s.free := rfl
@[simp] theorem State.modQueue_nextId (s : State) (q : Nat) (f : Queue → Queue) : (s.modQueue q f).nextId = s.nextId := rfl
@[simp] theorem State.modQueue_mem (s : State) (q : Nat) (f : Queue → Queue) : (s.modQueue q f).mem = s.mem := rfl
@[simp] theorem State.modQueue_cores (s : State) (q : Nat) (f : Queue → Queue) : (s.modQueue q f).cores = s.cores := rfl
@[simp] theorem State.modQueue_dies (s : State) (q : Nat) (f : Queue → Queue) : (s.modQueue q f).dies = s.dies := rfl
@[simp] theorem State.modQueue_hubTlb (s : State) (q : Nat) (f : Queue → Queue) : (s.modQueue q f).hubTlb = s.hubTlb := rfl
@[simp] theorem State.modQueue_hubWmaps (s : State) (q : Nat) (f : Queue → Queue) : (s.modQueue q f).hubWmaps = s.hubWmaps := rfl
@[simp] theorem State.modQueue_homeMap (s : State) (q : Nat) (f : Queue → Queue) : (s.modQueue q f).homeMap = s.homeMap := rfl
@[simp] theorem State.modQueue_expanders (s : State) (q : Nat) (f : Queue → Queue) : (s.modQueue q f).expanders = s.expanders := rfl
@[simp] theorem State.modQueue_regionAt (s : State) (q : Nat) (f : Queue → Queue) : (s.modQueue q f).regionAt = s.regionAt := rfl
@[simp] theorem State.modQueue_migWait (s : State) (q : Nat) (f : Queue → Queue) : (s.modQueue q f).migWait = s.migWait := rfl
@[simp] theorem State.modQueue_heldWrites (s : State) (q : Nat) (f : Queue → Queue) : (s.modQueue q f).heldWrites = s.heldWrites := rfl
@[simp] theorem State.modQueue_poisoned (s : State) (q : Nat) (f : Queue → Queue) : (s.modQueue q f).poisoned = s.poisoned := rfl
@[simp] theorem State.modQueue_latent (s : State) (q : Nat) (f : Queue → Queue) : (s.modQueue q f).latent = s.latent := rfl
@[simp] theorem State.modQueue_msgs (s : State) (q : Nat) (f : Queue → Queue) : (s.modQueue q f).msgs = s.msgs := rfl
@[simp] theorem State.modQueue_tenants (s : State) (q : Nat) (f : Queue → Queue) : (s.modQueue q f).tenants = s.tenants := rfl
@[simp] theorem State.modQueue_queues (s : State) (q : Nat) (f : Queue → Queue) : (s.modQueue q f).queues = SMap.set s.queues q (f (s.queue q)) := rfl
@[simp] theorem State.modQueue_launches (s : State) (q : Nat) (f : Queue → Queue) : (s.modQueue q f).launches = s.launches := rfl
@[simp] theorem State.modQueue_caps (s : State) (q : Nat) (f : Queue → Queue) : (s.modQueue q f).caps = s.caps := rfl
@[simp] theorem State.modQueue_status (s : State) (q : Nat) (f : Queue → Queue) : (s.modQueue q f).status = s.status := rfl
@[simp] theorem State.modQueue_security (s : State) (q : Nat) (f : Queue → Queue) : (s.modQueue q f).security = s.security := rfl
@[simp] theorem State.modQueue_devNum (s : State) (q : Nat) (f : Queue → Queue) : (s.modQueue q f).devNum = s.devNum := rfl
@[simp] theorem State.modQueue_devNumSet (s : State) (q : Nat) (f : Queue → Queue) : (s.modQueue q f).devNumSet = s.devNumSet := rfl
@[simp] theorem State.modQueue_trip (s : State) (q : Nat) (f : Queue → Queue) : (s.modQueue q f).trip = s.trip := rfl
@[simp] theorem State.modQueue_islands (s : State) (q : Nat) (f : Queue → Queue) : (s.modQueue q f).islands = s.islands := rfl
@[simp] theorem State.modQueue_erasure (s : State) (q : Nat) (f : Queue → Queue) : (s.modQueue q f).erasure = s.erasure := rfl
@[simp] theorem State.modQueue_symbolFixes (s : State) (q : Nat) (f : Queue → Queue) : (s.modQueue q f).symbolFixes = s.symbolFixes := rfl
@[simp] theorem State.modQueue_corrected (s : State) (q : Nat) (f : Queue → Queue) : (s.modQueue q f).corrected = s.corrected := rfl
@[simp] theorem State.modQueue_linksUp (s : State) (q : Nat) (f : Queue → Queue) : (s.modQueue q f).linksUp = s.linksUp := rfl
@[simp] theorem State.modQueue_ownerKey (s : State) (q : Nat) (f : Queue → Queue) : (s.modQueue q f).ownerKey = s.ownerKey := rfl
@[simp] theorem State.modQueue_transfers (s : State) (q : Nat) (f : Queue → Queue) : (s.modQueue q f).transfers = s.transfers := rfl
@[simp] theorem State.modQueue_transfer (s : State) (q : Nat) (f : Queue → Queue) : (s.modQueue q f).transfer = s.transfer := rfl
@[simp] theorem State.modQueue_nonceOut (s : State) (q : Nat) (f : Queue → Queue) : (s.modQueue q f).nonceOut = s.nonceOut := rfl
@[simp] theorem State.modQueue_minVersion (s : State) (q : Nat) (f : Queue → Queue) : (s.modQueue q f).minVersion = s.minVersion := rfl
@[simp] theorem State.modQueue_measures (s : State) (q : Nat) (f : Queue → Queue) : (s.modQueue q f).measures = s.measures := rfl
@[simp] theorem State.modQueue_spdmSession (s : State) (q : Nat) (f : Queue → Queue) : (s.modQueue q f).spdmSession = s.spdmSession := rfl
@[simp] theorem State.modQueue_out (s : State) (q : Nat) (f : Queue → Queue) : (s.modQueue q f).out = s.out := rfl

/-! ## State.modIsland -/

@[simp] theorem State.modIsland_turns (s : State) (i : Nat) (f : Island → Island) : (s.modIsland i f).turns = s.turns := rfl
@[simp] theorem State.modIsland_cur (s : State) (i : Nat) (f : Island → Island) : (s.modIsland i f).cur = s.cur := rfl
@[simp] theorem State.modIsland_free (s : State) (i : Nat) (f : Island → Island) : (s.modIsland i f).free = s.free := rfl
@[simp] theorem State.modIsland_nextId (s : State) (i : Nat) (f : Island → Island) : (s.modIsland i f).nextId = s.nextId := rfl
@[simp] theorem State.modIsland_mem (s : State) (i : Nat) (f : Island → Island) : (s.modIsland i f).mem = s.mem := rfl
@[simp] theorem State.modIsland_cores (s : State) (i : Nat) (f : Island → Island) : (s.modIsland i f).cores = s.cores := rfl
@[simp] theorem State.modIsland_dies (s : State) (i : Nat) (f : Island → Island) : (s.modIsland i f).dies = s.dies := rfl
@[simp] theorem State.modIsland_hubTlb (s : State) (i : Nat) (f : Island → Island) : (s.modIsland i f).hubTlb = s.hubTlb := rfl
@[simp] theorem State.modIsland_hubWmaps (s : State) (i : Nat) (f : Island → Island) : (s.modIsland i f).hubWmaps = s.hubWmaps := rfl
@[simp] theorem State.modIsland_homeMap (s : State) (i : Nat) (f : Island → Island) : (s.modIsland i f).homeMap = s.homeMap := rfl
@[simp] theorem State.modIsland_expanders (s : State) (i : Nat) (f : Island → Island) : (s.modIsland i f).expanders = s.expanders := rfl
@[simp] theorem State.modIsland_regionAt (s : State) (i : Nat) (f : Island → Island) : (s.modIsland i f).regionAt = s.regionAt := rfl
@[simp] theorem State.modIsland_migWait (s : State) (i : Nat) (f : Island → Island) : (s.modIsland i f).migWait = s.migWait := rfl
@[simp] theorem State.modIsland_heldWrites (s : State) (i : Nat) (f : Island → Island) : (s.modIsland i f).heldWrites = s.heldWrites := rfl
@[simp] theorem State.modIsland_poisoned (s : State) (i : Nat) (f : Island → Island) : (s.modIsland i f).poisoned = s.poisoned := rfl
@[simp] theorem State.modIsland_latent (s : State) (i : Nat) (f : Island → Island) : (s.modIsland i f).latent = s.latent := rfl
@[simp] theorem State.modIsland_msgs (s : State) (i : Nat) (f : Island → Island) : (s.modIsland i f).msgs = s.msgs := rfl
@[simp] theorem State.modIsland_tenants (s : State) (i : Nat) (f : Island → Island) : (s.modIsland i f).tenants = s.tenants := rfl
@[simp] theorem State.modIsland_queues (s : State) (i : Nat) (f : Island → Island) : (s.modIsland i f).queues = s.queues := rfl
@[simp] theorem State.modIsland_launches (s : State) (i : Nat) (f : Island → Island) : (s.modIsland i f).launches = s.launches := rfl
@[simp] theorem State.modIsland_caps (s : State) (i : Nat) (f : Island → Island) : (s.modIsland i f).caps = s.caps := rfl
@[simp] theorem State.modIsland_status (s : State) (i : Nat) (f : Island → Island) : (s.modIsland i f).status = s.status := rfl
@[simp] theorem State.modIsland_security (s : State) (i : Nat) (f : Island → Island) : (s.modIsland i f).security = s.security := rfl
@[simp] theorem State.modIsland_devNum (s : State) (i : Nat) (f : Island → Island) : (s.modIsland i f).devNum = s.devNum := rfl
@[simp] theorem State.modIsland_devNumSet (s : State) (i : Nat) (f : Island → Island) : (s.modIsland i f).devNumSet = s.devNumSet := rfl
@[simp] theorem State.modIsland_trip (s : State) (i : Nat) (f : Island → Island) : (s.modIsland i f).trip = s.trip := rfl
@[simp] theorem State.modIsland_islands (s : State) (i : Nat) (f : Island → Island) : (s.modIsland i f).islands = SMap.set s.islands i (f (s.island i)) := rfl
@[simp] theorem State.modIsland_erasure (s : State) (i : Nat) (f : Island → Island) : (s.modIsland i f).erasure = s.erasure := rfl
@[simp] theorem State.modIsland_symbolFixes (s : State) (i : Nat) (f : Island → Island) : (s.modIsland i f).symbolFixes = s.symbolFixes := rfl
@[simp] theorem State.modIsland_corrected (s : State) (i : Nat) (f : Island → Island) : (s.modIsland i f).corrected = s.corrected := rfl
@[simp] theorem State.modIsland_linksUp (s : State) (i : Nat) (f : Island → Island) : (s.modIsland i f).linksUp = s.linksUp := rfl
@[simp] theorem State.modIsland_ownerKey (s : State) (i : Nat) (f : Island → Island) : (s.modIsland i f).ownerKey = s.ownerKey := rfl
@[simp] theorem State.modIsland_transfers (s : State) (i : Nat) (f : Island → Island) : (s.modIsland i f).transfers = s.transfers := rfl
@[simp] theorem State.modIsland_transfer (s : State) (i : Nat) (f : Island → Island) : (s.modIsland i f).transfer = s.transfer := rfl
@[simp] theorem State.modIsland_nonceOut (s : State) (i : Nat) (f : Island → Island) : (s.modIsland i f).nonceOut = s.nonceOut := rfl
@[simp] theorem State.modIsland_minVersion (s : State) (i : Nat) (f : Island → Island) : (s.modIsland i f).minVersion = s.minVersion := rfl
@[simp] theorem State.modIsland_measures (s : State) (i : Nat) (f : Island → Island) : (s.modIsland i f).measures = s.measures := rfl
@[simp] theorem State.modIsland_spdmSession (s : State) (i : Nat) (f : Island → Island) : (s.modIsland i f).spdmSession = s.spdmSession := rfl
@[simp] theorem State.modIsland_out (s : State) (i : Nat) (f : Island → Island) : (s.modIsland i f).out = s.out := rfl

/-! ## Reading a part by its number -/

theorem State.core_setCore (s : State) (c d : Nat) (x : Core) : (s.setCore c x).core d = if d = c then x else s.core d := by
  simp only [State.core, State.setCore_cores, SMap.getD_set]

@[simp] theorem State.core_setCore_self (s : State) (c : Nat) (x : Core) : (s.setCore c x).core c = x := by simp [State.core_setCore]

theorem State.core_modCore (s : State) (c d : Nat) (f : Core → Core) :
    (s.modCore c f).core d = if d = c then f (s.core c) else s.core d := State.core_setCore s c d _

@[simp] theorem State.core_modCore_self (s : State) (c : Nat) (f : Core → Core) : (s.modCore c f).core c = f (s.core c) := by
  simp [State.core_modCore]

theorem State.core_modCore_ne {s : State} {c d : Nat} {f : Core → Core} (h : d ≠ c) : (s.modCore c f).core d = s.core d := by
  simp [State.core_modCore, h]

theorem State.wg?_modCore (s : State) (c d : Nat) (f : Core → Core) :
    (s.modCore c f).wg? d = if d = c then (f (s.core c)).wg else s.wg? d := by
  simp only [State.wg?, State.core_modCore]; split <;> rfl

theorem State.wg?_modWg (s : State) (c d : Nat) (f : Wg → Wg) :
    (s.modWg c f).wg? d = if d = c then (s.wg? c).map f else s.wg? d := by
  simp only [State.modWg, State.wg?_modCore]; rfl

@[simp] theorem State.wg?_modWg_self (s : State) (c : Nat) (f : Wg → Wg) : (s.modWg c f).wg? c = (s.wg? c).map f := by
  simp [State.wg?_modWg]

theorem State.core_modWg (s : State) (c d : Nat) (f : Wg → Wg) :
    (s.modWg c f).core d = if d = c then { s.core c with wg := (s.wg? c).map f } else s.core d := by
  simp only [State.modWg, State.core_modCore]; rfl

theorem State.group?_modGroup (s : State) (c g j : Nat) (f : Group → Group) :
    (s.modGroup c g f).group? c j = if j = g then (s.group? c g).map f else s.group? c j := by
  simp only [State.group?, State.modGroup, State.wg?_modWg_self]
  cases s.wg? c with
  | none => simp
  | some w => simp only [Option.map_some, Option.bind_some, Wg.group?, Wg.modGroup, SMap.get?_modify]

theorem State.die_modDie (s : State) (d e : Nat) (f : Die → Die) :
    (s.modDie d f).die e = if e = d then f (s.die d) else s.die e := by
  simp only [State.die, State.modDie_dies, SMap.getD_set]

theorem State.tenant_modTenant (s : State) (i j : Nat) (f : Tenant → Tenant) :
    (s.modTenant i f).tenant j = if j = i then f (s.tenant i) else s.tenant j := by
  simp only [State.tenant, State.modTenant_tenants, SMap.getD_set]

theorem State.queue_modQueue (s : State) (q r : Nat) (f : Queue → Queue) :
    (s.modQueue q f).queue r = if r = q then f (s.queue q) else s.queue r := by
  simp only [State.queue, State.modQueue_queues, SMap.getD_set]

theorem State.island_modIsland (s : State) (i j : Nat) (f : Island → Island) :
    (s.modIsland i f).island j = if j = i then f (s.island i) else s.island j := by
  simp only [State.island, State.modIsland_islands, SMap.getD_set]

/-! ## Registers -/

@[simp] theorem Wg.vreg_setVreg_self (w : Wg) (slot r : Nat) (v : Word32) : (w.setVreg slot r v).vreg slot r = v := by
  simp [Wg.vreg, Wg.setVreg]

theorem vregKey_inj {a b r q : Nat} (hr : r < 256) (hq : q < 256) : vregKey a r = vregKey b q ↔ a = b ∧ r = q := by
  unfold vregKey; omega

theorem Wg.vreg_setVreg (w : Wg) {a b r q : Nat} (v : Word32) (hr : r < 256) (hq : q < 256) :
    (w.setVreg a r v).vreg b q = if b = a ∧ q = r then v else w.vreg b q := by
  simp only [Wg.vreg, Wg.setVreg, SMap.getD_set, vregKey_inj hq hr]

@[simp] theorem Group.pred_all (t : Thread) : t.pred 7 = true := rfl

end Sys2Proof.Machine
end

