-- ==== Sys2Proof/Laws/Memory.lean ====
section
/-! SUPPORT. What the operations over device and host memory leave: finding a place writes nothing; a write at a home changes only the bytes of its range; and
every one of them keeps memory in its canonical form. -/

namespace Sys2Proof

open Sys2Proof.Machine

/-- Memory after reset lists nothing, which is its canonical form. -/
theorem reset_mem_wf : State.reset.mem.wf = true := rfl

namespace Machine

@[simp] theorem State.memWrite_mem (s : State) (key : Nat) (bs : List Byte) : (s.memWrite key bs).mem = Mem.writeBytes s.mem key bs := rfl
@[simp] theorem State.memWrite_cores (s : State) (key : Nat) (bs : List Byte) : (s.memWrite key bs).cores = s.cores := rfl

theorem State.memWrite_read (s : State) (key : Nat) (bs : List Byte) (j : Nat) :
    Mem.read (s.memWrite key bs).mem j = if key ≤ j ∧ j < key + bs.length then bs.getD (j - key) 0 else Mem.read s.mem j := by
  simp [Mem.read_writeBytes]

theorem State.memWrite_ok {s : State} (h : MemOk s) (key : Nat) (bs : List Byte) : MemOk (s.memWrite key bs) := Mem.wf_writeBytes _ _ _ h

/-! ## Finding a place -/

@[simp] theorem State.setXl_mem (s : State) (c : Option (Nat × Nat)) (t : List TlbEntry) (m : List WMap) : (s.setXl c t m).mem = s.mem := by
  unfold State.setXl
  split <;> simp

@[simp] theorem State.translate_mem (s : State) (asid va : Nat) (c : Option (Nat × Nat)) (tier : Nat) (need : Need) (leaf : Except Nat Leaf) :
    (s.translate asid va c tier need leaf).1.mem = s.mem := by
  unfold State.translate
  split
  · rfl
  · split
    · rfl
    · dsimp only
      repeat' split
      all_goals first | rfl | exact State.setXl_mem ..

@[simp] theorem State.placeAt_mem (s : State) (asid va : Nat) (need : Need) (home tier : Nat) (leaf : Except Nat Leaf) :
    (s.placeAt asid va need home tier leaf).1.mem = s.mem := by
  have h := s.translate_mem asid va (ctlOf asid va home tier) tier need leaf
  unfold State.placeAt
  dsimp only
  split
  · rfl
  · split
    · rename_i e
      rw [e] at h
      split
      · exact h
      · simpa using h
    · exact h

theorem State.place_mem (s : State) (asid va : Nat) (need : Need) : (s.place asid va need).1.mem = s.mem := by
  unfold State.place
  dsimp only
  split
  · rfl
  · split <;> simp [State.placeNew, State.placeOld]

/-- The move of a line keeps the form of memory. -/
theorem State.moveLine_ok (s : State) (die slot : Nat) (m : Migration) (h : MemOk s) : MemOk (s.moveLine die slot m) := by
  unfold State.moveLine
  dsimp only
  unfold MemOk
  rw [State.modDie_mem]
  split
  · exact h
  · simp only [State.modDie_mem]
    exact Mem.wf_writeBytes _ _ _ h

theorem State.moveHeld_ok (s : State) (asid va : Nat) (h : MemOk s) : MemOk (s.moveHeld asid va) := by
  unfold State.moveHeld
  dsimp only
  split
  · exact State.moveLine_ok s _ _ _ h
  · exact h

theorem State.placeHub_ok (s : State) (asid va : Nat) (need : Need) (h : MemOk s) : MemOk (s.placeHub asid va need).1 := by
  unfold State.placeHub MemOk
  rw [State.place_mem]
  exact s.moveHeld_ok asid va h

/-! ## Writes at a home -/

@[simp] theorem State.dropShadows_mem (s : State) (die key n : Nat) : (s.dropShadows die key n).mem = s.mem := by simp [State.dropShadows]

theorem foldl_mem {α : Type} (f : State → α → State) (h : ∀ s a, (f s a).mem = s.mem) (as : List α) (s : State) : (as.foldl f s).mem = s.mem := by
  induction as generalizing s with
  | nil => rfl
  | cons a as ih => rw [List.foldl_cons, ih, h]

@[simp] theorem State.hear_mem (s : State) (c g : Nat) : (s.hear c g).mem = s.mem := by
  unfold State.hear
  split <;> simp

@[simp] theorem State.hearHome_mem (s : State) (c va : Nat) : (s.hearHome c va).mem = s.mem := by
  unfold State.hearHome
  split <;> simp

@[simp] theorem State.hubHearHome_mem (s : State) (ti va : Nat) : (s.hubHearHome ti va).mem = s.mem := by
  unfold State.hubHearHome
  dsimp only
  split <;> simp [State.hubHear]

@[simp] theorem State.updateReplicas_mem (s : State) (asid va : Nat) (bs : List Byte) : (s.updateReplicas asid va bs).mem = s.mem := by
  unfold State.updateReplicas
  apply foldl_mem
  intro s c
  split
  · rfl
  · split
    · rfl
    · apply foldl_mem
      intro s p
      dsimp only
      split <;> simp

@[simp] theorem lateBytes_length (m : Mem) (live : List (Nat × Byte)) (key n : Nat) : (lateBytes m live key n).length = n := by simp [lateBytes]

/-- What a write at a home leaves: memory keeps its form, and outside the range it is as before. -/
theorem State.homeWrite_spec {s t : State} {asid va key tag : Nat} {bs : List Byte} {keep : Bool} (h : s.homeWrite asid va key bs tag keep = some t) :
    (MemOk s → MemOk t) ∧ ∀ j, ¬ (key ≤ j ∧ j < key + bs.length) → Mem.read t.mem j = Mem.read s.mem j := by
  have plain : ∀ u : State, u.mem = (s.memWrite key bs).mem →
      (MemOk s → MemOk u) ∧ ∀ j, ¬ (key ≤ j ∧ j < key + bs.length) → Mem.read u.mem j = Mem.read s.mem j := by
    intro u e
    refine ⟨fun hs => ?_, fun j hj => ?_⟩
    · unfold MemOk
      rw [e]
      exact State.memWrite_ok hs key bs
    · rw [e, State.memWrite_read, if_neg hj]
  have dropped : ∀ (u : State) (die n : Nat), (if keep = true then u else u.dropShadows die key n).mem = u.mem := by
    intro u die n
    split <;> simp
  unfold State.homeWrite at h
  split at h
  · cases h
    exact plain _ rfl
  · split at h
    · cases h
      exact plain _ (State.updateReplicas_mem ..)
    · dsimp only at h
      split at h
      · cases h
        unfold MemOk
        simp only [State.updateReplicas_mem, State.modTenant_mem, State.memWrite_mem, dropped]
        exact ⟨fun hs => Mem.wf_writeBytes _ _ _ hs, fun j hj => by rw [Mem.read_writeBytes, lateBytes_length, if_neg hj]⟩
      · split at h
        · cases h
        · cases h
          apply plain
          simp only [State.updateReplicas_mem, State.modDie_mem, State.modTenant_mem, State.memWrite_mem]
          split <;> simp [dropped]

/-- A run of pieces, each written at its home, keeps the form of memory. -/
theorem State.writePieces_ok (asid gen : Nat) : ∀ (ps : List (Nat × List Byte)) (s : State), MemOk s → MemOk (s.writePieces asid gen ps).1
  | [], s, h => h
  | (va, p) :: ps, s, h => by
    unfold State.writePieces
    split
    · split
      · exact h
      · exact State.writePieces_ok asid gen ps _ h
    · have hp := s.place_mem asid va needWrite
      have hu : MemOk (s.place asid va needWrite).1 := by
        unfold MemOk
        rwa [hp]
      split
      · rename_i e
        rwa [e] at hu
      · rename_i e
        rwa [e] at hu
      · rename_i u k e
        rw [e] at hu
        split
        · exact hu
        · rename_i t ht
          exact State.writePieces_ok asid gen ps t ((State.homeWrite_spec ht).1 hu)

theorem State.writeRun_ok (s : State) (asid va gen : Nat) (bs : List Byte) (h : MemOk s) : MemOk (s.writeRun asid va gen bs).1 :=
  State.writePieces_ok _ _ _ _ h

theorem State.hubPieces_ok (tenant : Nat) : ∀ (ps : List (Nat × List Byte)) (s : State), MemOk s → MemOk (s.hubPieces tenant ps).1
  | [], s, h => h
  | (va, p) :: ps, s, h => by
    unfold State.hubPieces
    dsimp only
    split
    · exact h
    · have hu := s.placeHub_ok (s.tenant tenant).cfg.asid va needWrite h
      split
      · rename_i e
        rwa [e] at hu
      · rename_i e
        rwa [e] at hu
      · rename_i u k e
        rw [e] at hu
        split
        · exact hu
        · rename_i t ht
          apply State.hubPieces_ok tenant ps
          unfold MemOk
          rw [State.hubHearHome_mem]
          exact (State.homeWrite_spec ht).1 hu

theorem State.hubWrite_ok (s : State) (tenant va : Nat) (bs : List Byte) (h : MemOk s) : MemOk (s.hubWrite tenant va bs).1 := State.hubPieces_ok _ _ _ h

end Machine

end Sys2Proof
end

