-- ==== Sys2Proof/Laws/Issue.lean ====
section
/-! SUPPORT. What the frame of every word can answer, and what its parts, an exception taken among them, leave of memory. -/

namespace Sys2Proof.Machine

open Sys2Proof

/-! ## Parts of an issue that write no memory -/

@[simp] theorem State.advanceTo_mem (s : State) (c ck : Nat) : (s.advanceTo c ck).mem = s.mem := by simp [State.advanceTo]
@[simp] theorem State.advance_mem (s : State) (x : Ctx) : (s.advance x).mem = s.mem := by simp [State.advance]
@[simp] theorem State.incCt_mem (s : State) (x : Ctx) : (s.incCt x).mem = s.mem := by
  unfold State.incCt
  split <;> simp
@[simp] theorem State.decCt_mem (s : State) (c uid ct : Nat) : (s.decCt c uid ct).mem = s.mem := by
  unfold State.decCt
  split <;> simp
@[simp] theorem State.setWait_mem (s : State) (c g : Nat) (w : Option Wait) : (s.setWait c g w).mem = s.mem := by simp [State.setWait]
@[simp] theorem State.commit_mem (s : State) (x : Ctx) (lat : Nat) (var : Bool) (ws : List (Loc × Word32)) : (s.commit x lat var ws).mem = s.mem := by
  simp [State.commit]
@[simp] theorem State.orFlags_mem (s : State) (x : Ctx) (f : Word32) : (s.orFlags x f).mem = s.mem := by simp [State.orFlags]
@[simp] theorem State.orWgFlags_mem (s : State) (c : Nat) (f : Word32) : (s.orWgFlags c f).mem = s.mem := by simp [State.orWgFlags]
@[simp] theorem State.joinDrop_mem (s : State) (c : Nat) : (s.joinDrop c).mem = s.mem := by simp [State.joinDrop]
@[simp] theorem State.orphanHandles_mem (s : State) (c uid : Nat) : (s.orphanHandles c uid).mem = s.mem := by simp [State.orphanHandles]
@[simp] theorem State.resumeWg_mem (s : State) (c : Nat) : (s.resumeWg c).mem = s.mem := by simp [State.resumeWg]
@[simp] theorem State.sendFault_mem (s : State) (ti va asid core kind cause : Nat) (depot : Bool) : (s.sendFault ti va asid core kind cause depot).mem = s.mem := by
  simp [State.sendFault]
@[simp] theorem State.reportFault_mem (s : State) (ti va asid core kind cause : Nat) : (s.reportFault ti va asid core kind cause).mem = s.mem := by
  unfold State.reportFault
  split <;> simp
@[simp] theorem State.reportDepot_mem (s : State) (ti va core cause : Nat) : (s.reportDepot ti va core cause).mem = s.mem := by
  unfold State.reportDepot
  dsimp only
  split <;> simp
@[simp] theorem State.interrupt_mem (s : State) (ti : Nat) : (s.interrupt ti).mem = s.mem := by simp [State.interrupt]
@[simp] theorem State.traceSuspend_mem (s : State) (u ti va core cause : Nat) : (s.traceSuspend u ti va core cause).mem = s.mem := by
  simp [State.traceSuspend]
@[simp] theorem State.reportClass_mem (s : State) (l : Launch) (c code : Nat) : (s.reportClass l c code).mem = s.mem := by
  unfold State.reportClass
  split <;> simp
@[simp] theorem State.haltLaunch_mem (s : State) (c u code : Nat) : (s.haltLaunch c u code).mem = s.mem := by
  unfold State.haltLaunch
  dsimp only
  rw [foldl_mem]
  · simp
  · intro s d
    split <;> simp
@[simp] theorem State.completeFlight_mem (s : State) (c id : Nat) : (s.completeFlight c id).mem = s.mem := by
  unfold State.completeFlight
  split
  · rfl
  · dsimp only
    split <;> simp

/-! ## Trace records and exceptions, which write memory through the hub -/

theorem ok_of_mem {s t : State} (h : t.mem = s.mem) (hs : MemOk s) : MemOk t := by
  unfold MemOk
  rwa [h]

theorem foldl_ok {α β : Type} (f : State × β → α → State × β) (hf : ∀ p a, MemOk p.1 → MemOk (f p a).1) (as : List α) (p : State × β) (h : MemOk p.1) :
    MemOk (as.foldl f p).1 := by
  induction as generalizing p with
  | nil => exact h
  | cons a as ih => exact ih _ (hf p a h)

theorem State.traceRing_ok (s : State) (l : Launch) (core : Nat) (es : List (List Byte)) (h : MemOk s) : MemOk (s.traceRing l core es).1 := by
  unfold State.traceRing
  split
  · exact h
  · dsimp only
    split
    · exact ok_of_mem (by simp) h
    · split
      · exact ok_of_mem (by simp) h
      · generalize hp : List.foldl _ (s, none) _ = put
        have hput : MemOk put.1 := by
          rw [← hp]
          refine foldl_ok _ (fun p i h => ?_) _ _ h
          split
          · exact h
          · exact State.hubWrite_ok _ _ _ _ h
        split
        · exact ok_of_mem (by simp) hput
        · rename_i u
          generalize hq : u.hubWrite _ _ _ = put'
          have hput' : MemOk put'.1 := by
            rw [← hq]
            exact State.hubWrite_ok _ _ _ _ hput
          split
          · exact ok_of_mem (by simp) hput'
          · exact hput'

theorem State.traceGap_ok (s : State) (l : Launch) (c x y z ph : Nat) (h : MemOk s) : MemOk (s.traceGap l c x y z ph).1 := by
  unfold State.traceGap
  split
  · exact h
  · have ht := fun es => State.traceRing_ok s l c es h
    dsimp only
    split
    · exact ok_of_mem ((State.modLaunch_mem ..).trans (State.modCore_mem ..)) (ht _)
    · exact ok_of_mem (State.modCore_mem ..) (ht _)

theorem State.traceRecord_ok (s : State) (c ty tag : Nat) (pc mask : Word64) (extra : List (List Byte)) (h : MemOk s) :
    MemOk (s.traceRecord c ty tag pc mask extra) := by
  unfold State.traceRecord
  split
  · split
    · exact h
    · split
      · exact ok_of_mem (by simp) h
      · dsimp only
        generalize hg : s.traceGap _ c _ _ _ _ = u
        have hu : MemOk u.1 := by
          rw [← hg]
          exact State.traceGap_ok s _ c _ _ _ _ h
        split
        · exact hu
        · exact ok_of_mem (State.modCore_mem ..) (State.traceRing_ok _ _ _ _ hu)
  · exact h

/-- Taking an exception keeps the form of memory. -/
theorem State.raise_ok (s : State) (c : Nat) (e : Exc) (mask : Nat) (h : MemOk s) : MemOk (s.raise c e mask) := by
  unfold State.raise
  split
  · split
    · exact ok_of_mem (by simp) h
    · dsimp only
      have hr : ∀ (v : State) (l : Launch), MemOk v → MemOk ((v.traceRecord c 2 e.code e.pc (BitVec.ofNat 64 mask) []).reportClass l c e.code) := fun v l hv =>
        ok_of_mem (State.reportClass_mem ..) (State.traceRecord_ok _ _ _ _ _ _ _ hv)
      have hw : ∀ {v : Option Wg}, MemOk (s.setWg c v).fresh := ok_of_mem (by simp [State.setWg]) h
      repeat' split
      all_goals first
        | exact hr _ _ hw
        | exact ok_of_mem (State.haltLaunch_mem ..) (hr _ _ hw)
  · exact h

/-- A machine check keeps the form of memory. -/
theorem State.machineCheck_ok (s : State) (c code : Nat) (pc : Word64) (mask : Nat) (h : MemOk s) : MemOk (s.machineCheck c code pc mask) := by
  unfold State.machineCheck
  split
  · split
    · exact h
    · exact ok_of_mem ((State.modLaunch_mem ..).trans (State.reportClass_mem ..)) (State.traceRecord_ok _ _ _ _ _ _ _ h)
  · exact h

theorem State.raisePrecise_ok (s : State) (x : Ctx) (code aux : Nat) (h : MemOk s) : MemOk (s.raisePrecise x code aux) :=
  State.raise_ok _ _ _ _ (ok_of_mem (by simp) h)

theorem State.freeGroup_ok (s : State) (c g : Nat) (h : MemOk s) : MemOk (s.freeGroup c g) := by
  unfold State.freeGroup
  split
  · exact h
  · dsimp only
    unfold State.raiseStatuses
    have fold : ∀ (hs : SMap Handle) (s : State), MemOk s → MemOk (hs.foldl (fun s p =>
        if p.2.done && p.2.status != 0 then s.raise c ⟨p.2.status.toNat, 2, 0, 0, 0⟩ else s) s) := by
      intro hs
      induction hs with
      | nil => intro s h; exact h
      | cons p hs ih =>
        intro s h
        rw [List.foldl_cons]
        apply ih
        split
        · exact State.raise_ok _ _ _ _ h
        · exact h
    exact fold _ _ (ok_of_mem (by simp) h)

/-! ## A word -/

/-- Everything that a word can do: without an issuer it faults; else it waits, or raises an operand's or a stall's exception, or meets a poisoned register, or what its
effect answers becomes of it. -/
theorem word_cases {s : State} {h : Head} {op : Nat} {lit : Lit} {illegal : Ctx → Bool} {reads writes : Ctx → List Loc} {eff : Ctx → State → Res} :
    (s.ctx? h op lit = none ∧ word s h op lit illegal reads writes eff = .fault .noIssuer) ∨
    ∃ x t, s.ctx? h op lit = some x ∧ word s h op lit illegal reads writes eff = .next t ∧
      ((∃ w, t = s.setWait x.c x.g w) ∨ (∃ code aux, t = s.raisePrecise x code aux) ∨ eff x s = .done t ∨ eff x s = .raised t ∨
        (∃ u code, eff x s = .after u code ∧ t = u.raise x.c ⟨code, 0, x.g, laneMask x.ex % 2 ^ 32, x.pc⟩ (laneMask x.ex)) ∨
        (∃ u w, eff x s = .hold u w ∧ t = u.setWait x.c x.g (some w)) ∨
        t = (s.advanceTo x.c x.now).machineCheck x.c cMemUncorrectable x.pc (laneMask x.ex)) := by
  unfold word
  split
  · rename_i e
    exact .inl ⟨e, rfl⟩
  · rename_i x e
    refine .inr ⟨x, ?_⟩
    dsimp only
    split
    · exact ⟨_, e, rfl, .inl ⟨_, rfl⟩⟩
    split
    · exact ⟨_, e, rfl, .inr (.inl ⟨_, _, rfl⟩)⟩
    split
    · exact ⟨_, e, rfl, .inl ⟨_, rfl⟩⟩
    split
    · exact ⟨_, e, rfl, .inr (.inl ⟨_, _, rfl⟩)⟩
    split
    · exact ⟨_, e, rfl, .inr (.inr (.inr (.inr (.inr (.inr rfl)))))⟩
    split
    · rename_i hr
      exact ⟨_, e, rfl, .inr (.inr (.inl hr))⟩
    · exact ⟨_, e, rfl, .inr (.inl ⟨_, _, rfl⟩)⟩
    · rename_i hr
      exact ⟨_, e, rfl, .inr (.inr (.inr (.inr (.inl ⟨_, _, hr, rfl⟩))))⟩
    · exact ⟨_, e, rfl, .inl ⟨_, rfl⟩⟩
    · rename_i hr
      exact ⟨_, e, rfl, .inr (.inr (.inr (.inr (.inr (.inl ⟨_, _, hr, rfl⟩)))))⟩
    · rename_i hr
      exact ⟨_, e, rfl, .inr (.inr (.inr (.inl hr)))⟩

/-- A word keeps the form of memory if what its effect answers does. -/
theorem word_ok {s t : State} {h : Head} {op : Nat} {lit : Lit} {illegal : Ctx → Bool} {reads writes : Ctx → List Loc} {eff : Ctx → State → Res}
    (hs : MemOk s) (he : ∀ x u, (eff x s = .done u ∨ eff x s = .raised u ∨ (∃ code, eff x s = .after u code) ∨ ∃ w, eff x s = .hold u w) → MemOk u)
    (hw : word s h op lit illegal reads writes eff = .next t) : MemOk t := by
  rcases word_cases (s := s) (h := h) (op := op) (lit := lit) (illegal := illegal) (reads := reads) (writes := writes) (eff := eff) with
    ⟨-, e⟩ | ⟨x, u, -, e, hu⟩
  · rw [e] at hw
    cases hw
  · rw [e] at hw
    cases hw
    rcases hu with ⟨w, rfl⟩ | ⟨code, aux, rfl⟩ | h | h | ⟨v, code, h, rfl⟩ | ⟨v, w, h, rfl⟩ | rfl
    · exact ok_of_mem (by simp) hs
    · exact State.raisePrecise_ok _ _ _ _ hs
    · exact he x _ (.inl h)
    · exact he x _ (.inr (.inl h))
    · exact State.raise_ok _ _ _ _ (he x v (.inr (.inr (.inl ⟨code, h⟩))))
    · exact ok_of_mem (by simp) (he x v (.inr (.inr (.inr ⟨w, h⟩))))
    · exact State.machineCheck_ok _ _ _ _ _ (ok_of_mem (by simp) hs)

end Sys2Proof.Machine
end

