-- ==== Sys2Proof/Laws/PerInstr.lean ====
section
/-! SUPPORT. Laws of each instruction. `Opcode`: an instruction that has a word is encoded under an assigned opcode, in the format that R119 gives that opcode;
so the decoder reads the word's fields where the encoder put them. -/

namespace Sys2Proof.Laws.Opcode

open Sys2Proof

/-- The format of a body. -/
def format : Body → Fmt
  | .v _ => .v | .m _ => .m | .c _ => .c | .x _ => .x

/-- R119, R132, R133: the instruction has no word, or its opcode is an assigned one and its fields are in that opcode's format. -/
def Statement (i : Instr) : Prop := ∀ e, encodeParts i = some e → e.op < 256 ∧ unassigned e.op = false ∧ format e.body = fmtOf e.op

theorem Statement.none {i : Instr} (h : encodeParts i = Option.none) : Statement i := fun e he => by
  rw [h] at he
  cases he

theorem Statement.some {i : Instr} {e : Encoded} (h : encodeParts i = Option.some e)
    (k : (decide (e.op < 256) && !unassigned e.op && decide (format e.body = fmtOf e.op)) = true) : Statement i := fun f hf => by
  rw [h] at hf
  cases hf
  simpa [and_assoc] using k

theorem iadd (h : Head) (sat u : Bool) (d : Dst) (a b : Src) (lit : Lit) : Statement (.iadd h sat u d a b lit) := .some rfl rfl
theorem iaddB64 (h : Head) (sat u : Bool) (d : Dst) (a b : Src) (lit : Lit) : Statement (.iaddB64 h sat u d a b lit) := .some rfl rfl
theorem iaddc (h : Head) (cout cin : BitVec 3) (d : Dst) (a b : Src) (lit : Lit) : Statement (.iaddc h cout cin d a b lit) := .some rfl rfl
theorem isub (h : Head) (sat u : Bool) (d : Dst) (a b : Src) (lit : Lit) : Statement (.isub h sat u d a b lit) := .some rfl rfl
theorem isubB64 (h : Head) (sat u : Bool) (d : Dst) (a b : Src) (lit : Lit) : Statement (.isubB64 h sat u d a b lit) := .some rfl rfl
theorem imul (h : Head) (d : Dst) (a b : Src) (lit : Lit) : Statement (.imul h d a b lit) := .some rfl rfl
theorem imulB64 (h : Head) (d : Dst) (a b : Src) (lit : Lit) : Statement (.imulB64 h d a b lit) := .some rfl rfl
theorem imulh (h : Head) (u : Bool) (d : Dst) (a b : Src) (lit : Lit) : Statement (.imulh h u d a b lit) := .some rfl rfl
theorem imad (h : Head) (d : Dst) (a b c : Src) (lit : Lit) : Statement (.imad h d a b c lit) := .some rfl rfl
theorem imadB64 (h : Head) (u : Bool) (d : Dst) (a b c : Src) (lit : Lit) : Statement (.imadB64 h u d a b c lit) := .some rfl rfl
theorem imin (h : Head) (u : Bool) (d : Dst) (a b : Src) (lit : Lit) : Statement (.imin h u d a b lit) := .some rfl rfl
theorem imax (h : Head) (u : Bool) (d : Dst) (a b : Src) (lit : Lit) : Statement (.imax h u d a b lit) := .some rfl rfl
theorem iabs (h : Head) (sat : Bool) (d : Dst) (a : Src) (lit : Lit) : Statement (.iabs h sat d a lit) := .some rfl rfl
theorem ineg (h : Head) (sat : Bool) (d : Dst) (a : Src) (lit : Lit) : Statement (.ineg h sat d a lit) := .some rfl rfl
theorem lea (h : Head) (sx : Bool) (n : BitVec 5) (d : Dst) (a b : Src) (lit : Lit) : Statement (.lea h sx n d a b lit) := .some rfl rfl
theorem and (h : Head) (d : Dst) (a b : Src) (lit : Lit) : Statement (.and h d a b lit) := .some rfl rfl
theorem or (h : Head) (d : Dst) (a b : Src) (lit : Lit) : Statement (.or h d a b lit) := .some rfl rfl
theorem xor (h : Head) (d : Dst) (a b : Src) (lit : Lit) : Statement (.xor h d a b lit) := .some rfl rfl
theorem not (h : Head) (d : Dst) (a : Src) (lit : Lit) : Statement (.not h d a lit) := .some rfl rfl
theorem shl (h : Head) (d : Dst) (a b : Src) (lit : Lit) : Statement (.shl h d a b lit) := .some rfl rfl
theorem shr (h : Head) (d : Dst) (a b : Src) (lit : Lit) : Statement (.shr h d a b lit) := .some rfl rfl
theorem sar (h : Head) (d : Dst) (a b : Src) (lit : Lit) : Statement (.sar h d a b lit) := .some rfl rfl
theorem rol (h : Head) (d : Dst) (a b : Src) (lit : Lit) : Statement (.rol h d a b lit) := .some rfl rfl
theorem bfx (h : Head) (u : Bool) (d : Dst) (a b : Src) (lit : Lit) : Statement (.bfx h u d a b lit) := .some rfl rfl
theorem bfi (h : Head) (d : Dst) (a b c : Src) (lit : Lit) : Statement (.bfi h d a b c lit) := .some rfl rfl
theorem popc (h : Head) (d : Dst) (a : Src) (lit : Lit) : Statement (.popc h d a lit) := .some rfl rfl
theorem clz (h : Head) (d : Dst) (a : Src) (lit : Lit) : Statement (.clz h d a lit) := .some rfl rfl
theorem brev (h : Head) (d : Dst) (a : Src) (lit : Lit) : Statement (.brev h d a lit) := .some rfl rfl
theorem shlB64 (h : Head) (d : Dst) (a b : Src) (lit : Lit) : Statement (.shlB64 h d a b lit) := .some rfl rfl
theorem shrB64 (h : Head) (d : Dst) (a b : Src) (lit : Lit) : Statement (.shrB64 h d a b lit) := .some rfl rfl
theorem sarB64 (h : Head) (d : Dst) (a b : Src) (lit : Lit) : Statement (.sarB64 h d a b lit) := .some rfl rfl
theorem fadd (h : Head) (na : Bool) (rnd : Rnd) (d : Dst) (a b : Src) (lit : Lit) : Statement (.fadd h na rnd d a b lit) := .some rfl rfl
theorem fsub (h : Head) (na : Bool) (rnd : Rnd) (d : Dst) (a b : Src) (lit : Lit) : Statement (.fsub h na rnd d a b lit) := .some rfl rfl
theorem fmul (h : Head) (na : Bool) (rnd : Rnd) (d : Dst) (a b : Src) (lit : Lit) : Statement (.fmul h na rnd d a b lit) := .some rfl rfl
theorem ffma (h : Head) (nc na : Bool) (rnd : Rnd) (d : Dst) (a b c : Src) (lit : Lit) : Statement (.ffma h nc na rnd d a b c lit) := .some rfl rfl
theorem fmin (h : Head) (na : Bool) (d : Dst) (a b : Src) (lit : Lit) : Statement (.fmin h na d a b lit) := .some rfl rfl
theorem fmax (h : Head) (na : Bool) (d : Dst) (a b : Src) (lit : Lit) : Statement (.fmax h na d a b lit) := .some rfl rfl
theorem frnd (h : Head) (na : Bool) (rnd : Rnd) (d : Dst) (a : Src) (lit : Lit) : Statement (.frnd h na rnd d a lit) := .some rfl rfl
theorem frcp (h : Head) (na : Bool) (d : Dst) (a : Src) (lit : Lit) : Statement (.frcp h na d a lit) := .some rfl rfl
theorem frsq (h : Head) (na : Bool) (d : Dst) (a : Src) (lit : Lit) : Statement (.frsq h na d a lit) := .some rfl rfl
theorem fsqrt (h : Head) (na : Bool) (d : Dst) (a : Src) (lit : Lit) : Statement (.fsqrt h na d a lit) := .some rfl rfl
theorem fexp2 (h : Head) (na : Bool) (d : Dst) (a : Src) (lit : Lit) : Statement (.fexp2 h na d a lit) := .some rfl rfl
theorem flog2 (h : Head) (na : Bool) (d : Dst) (a : Src) (lit : Lit) : Statement (.flog2 h na d a lit) := .some rfl rfl
theorem fsin (h : Head) (na : Bool) (d : Dst) (a : Src) (lit : Lit) : Statement (.fsin h na d a lit) := .some rfl rfl
theorem fcos (h : Head) (na : Bool) (d : Dst) (a : Src) (lit : Lit) : Statement (.fcos h na d a lit) := .some rfl rfl
theorem hadd2 (h : Head) (bf : Bool) (rnd : Rnd) (d : Dst) (a b : Src) (lit : Lit) : Statement (.hadd2 h bf rnd d a b lit) := .some rfl rfl
theorem hmul2 (h : Head) (bf : Bool) (rnd : Rnd) (d : Dst) (a b : Src) (lit : Lit) : Statement (.hmul2 h bf rnd d a b lit) := .some rfl rfl
theorem hfma2 (h : Head) (rnd : Rnd) (d : Dst) (a b c : Src) (lit : Lit) : Statement (.hfma2 h rnd d a b c lit) := .some rfl rfl
theorem bfma2 (h : Head) (rnd : Rnd) (d : Dst) (a b c : Src) (lit : Lit) : Statement (.bfma2 h rnd d a b c lit) := .some rfl rfl
theorem hmin2 (h : Head) (bf : Bool) (d : Dst) (a b : Src) (lit : Lit) : Statement (.hmin2 h bf d a b lit) := .some rfl rfl
theorem hmax2 (h : Head) (bf : Bool) (d : Dst) (a b : Src) (lit : Lit) : Statement (.hmax2 h bf d a b lit) := .some rfl rfl
theorem cvtFF (h : Head) (dt st : FTy) (rnd : Rnd) (d : Dst) (a : Src) (lit : Lit) : Statement (.cvtFF h dt st rnd d a lit) := .some rfl rfl
theorem cvtIF (h : Head) (st : FTy) (dt : ITy) (rnd : Rnd) (d : Dst) (a : Src) (lit : Lit) : Statement (.cvtIF h st dt rnd d a lit) := .some rfl rfl
theorem cvtFI (h : Head) (dt : FTy) (st : ITy) (rnd : Rnd) (d : Dst) (a : Src) (lit : Lit) : Statement (.cvtFI h dt st rnd d a lit) := .some rfl rfl
theorem cvtn (h : Head) (slot pos : BitVec 3) (d : Dst) (a b c : Src) (lit : Lit) : Statement (.cvtn h slot pos d a b c lit) := .some rfl rfl
theorem cvtw (h : Head) (slot pos : BitVec 3) (d : Dst) (a : Src) (lit : Lit) : Statement (.cvtw h slot pos d a lit) := .some rfl rfl
theorem icmpEq (h : Head) (comb : Comb) (pc : BitVec 3) (u : Bool) (d : Dst) (a b : Src) (lit : Lit) : Statement (.icmpEq h comb pc u d a b lit) := .some rfl rfl
theorem icmpNe (h : Head) (comb : Comb) (pc : BitVec 3) (u : Bool) (d : Dst) (a b : Src) (lit : Lit) : Statement (.icmpNe h comb pc u d a b lit) := .some rfl rfl
theorem icmpLt (h : Head) (comb : Comb) (pc : BitVec 3) (u : Bool) (d : Dst) (a b : Src) (lit : Lit) : Statement (.icmpLt h comb pc u d a b lit) := .some rfl rfl
theorem icmpLe (h : Head) (comb : Comb) (pc : BitVec 3) (u : Bool) (d : Dst) (a b : Src) (lit : Lit) : Statement (.icmpLe h comb pc u d a b lit) := .some rfl rfl
theorem icmpGt (h : Head) (comb : Comb) (pc : BitVec 3) (u : Bool) (d : Dst) (a b : Src) (lit : Lit) : Statement (.icmpGt h comb pc u d a b lit) := .some rfl rfl
theorem icmpGe (h : Head) (comb : Comb) (pc : BitVec 3) (u : Bool) (d : Dst) (a b : Src) (lit : Lit) : Statement (.icmpGe h comb pc u d a b lit) := .some rfl rfl
theorem fcmpEq (h : Head) (comb : Comb) (pc : BitVec 3) (d : Dst) (a b : Src) (lit : Lit) : Statement (.fcmpEq h comb pc d a b lit) := .some rfl rfl
theorem fcmpNe (h : Head) (comb : Comb) (pc : BitVec 3) (d : Dst) (a b : Src) (lit : Lit) : Statement (.fcmpNe h comb pc d a b lit) := .some rfl rfl
theorem fcmpLt (h : Head) (comb : Comb) (pc : BitVec 3) (d : Dst) (a b : Src) (lit : Lit) : Statement (.fcmpLt h comb pc d a b lit) := .some rfl rfl
theorem fcmpLe (h : Head) (comb : Comb) (pc : BitVec 3) (d : Dst) (a b : Src) (lit : Lit) : Statement (.fcmpLe h comb pc d a b lit) := .some rfl rfl
theorem fcmpGt (h : Head) (comb : Comb) (pc : BitVec 3) (d : Dst) (a b : Src) (lit : Lit) : Statement (.fcmpGt h comb pc d a b lit) := .some rfl rfl
theorem fcmpGe (h : Head) (comb : Comb) (pc : BitVec 3) (d : Dst) (a b : Src) (lit : Lit) : Statement (.fcmpGe h comb pc d a b lit) := .some rfl rfl
theorem fcmpUn (h : Head) (comb : Comb) (pc : BitVec 3) (d : Dst) (a b : Src) (lit : Lit) : Statement (.fcmpUn h comb pc d a b lit) := .some rfl rfl
theorem sel (h : Head) (pn : Bool) (p : BitVec 3) (d : Dst) (a b : Src) (lit : Lit) : Statement (.sel h pn p d a b lit) := .some rfl rfl
theorem pset (h : Head) (d : Dst) (a : Src) (lit : Lit) : Statement (.pset h d a lit) := .some rfl rfl
theorem pmovGet (h : Head) (d : Dst) : Statement (.pmovGet h d) := .some rfl rfl
theorem pmovPut (h : Head) (dk : Bool) (a b : Src) (lit : Lit) : Statement (.pmovPut h dk a b lit) := .some rfl rfl
theorem mov (h : Head) (d : Dst) (a : Src) (lit : Lit) : Statement (.mov h d a lit) := .some rfl rfl
theorem movB64 (h : Head) (d : Dst) (a : Src) (lit : Lit) : Statement (.movB64 h d a lit) := .some rfl rfl
theorem movc (h : Head) (bank : BitVec 2) (d : Dst) (a : Src) (lit : Lit) : Statement (.movc h bank d a lit) := .some rfl rfl
theorem shflIdx (h : Head) (d : Dst) (a b : Src) (lit : Lit) : Statement (.shflIdx h d a b lit) := .some rfl rfl
theorem shflUp (h : Head) (d : Dst) (a b : Src) (lit : Lit) : Statement (.shflUp h d a b lit) := .some rfl rfl
theorem shflDown (h : Head) (d : Dst) (a b : Src) (lit : Lit) : Statement (.shflDown h d a b lit) := .some rfl rfl
theorem shflXor (h : Head) (d : Dst) (a b : Src) (lit : Lit) : Statement (.shflXor h d a b lit) := .some rfl rfl
theorem voteAny (h : Head) (pn : Bool) (p : BitVec 3) (d : Dst) : Statement (.voteAny h pn p d) := .some rfl rfl
theorem voteAll (h : Head) (pn : Bool) (p : BitVec 3) (d : Dst) : Statement (.voteAll h pn p d) := .some rfl rfl
theorem voteBallot (h : Head) (pn : Bool) (p : BitVec 3) (d : Dst) : Statement (.voteBallot h pn p d) := .some rfl rfl
theorem redg (h : Head) (ty : RTy) (op : ROp) (d : Dst) (a : Src) (lit : Lit) : Statement (.redg h ty op d a lit) := .some rfl rfl
theorem scanInc (h : Head) (ty : RTy) (op : ROp) (d : Dst) (a : Src) (lit : Lit) : Statement (.scanInc h ty op d a lit) := .some rfl rfl
theorem scanExc (h : Head) (ty : RTy) (op : ROp) (d : Dst) (a : Src) (lit : Lit) : Statement (.scanExc h ty op d a lit) := .some rfl rfl
theorem sread (h : Head) (sr : SReg) (d : Dst) : Statement (.sread h sr d) := .some rfl rfl
theorem swrite (h : Head) (sr : SReg) (d : Dst) (a : Src) (lit : Lit) : Statement (.swrite h sr d a lit) := .some rfl rfl
theorem rand (h : Head) (f : Bool) (d : Dst) (a : Src) (lit : Lit) : Statement (.rand h f d a lit) := .some rfl rfl
theorem unassignedOpcode (code : BitVec 8) (body : BitVec 56) : Statement (.unassignedOpcode code body) := .none rfl
theorem nop (h : Head) (dk : Bool) : Statement (.nop h dk) := .some rfl rfl
theorem bra (h : Head) (dk : Bool) (target : BitVec 24) : Statement (.bra h dk target) := .some rfl rfl
theorem braU (h : Head) (dk : Bool) (target : BitVec 24) : Statement (.braU h dk target) := .some rfl rfl
theorem brx (h : Head) (dk : Bool) (x : XReg) : Statement (.brx h dk x) := .some rfl rfl
theorem call (h : Head) (dk : Bool) (ld : BitVec 8) (target : BitVec 24) : Statement (.call h dk ld target) := .some rfl rfl
theorem callx (h : Head) (dk : Bool) (ld : BitVec 8) (x : XReg) : Statement (.callx h dk ld x) := .some rfl rfl
theorem ret (h : Head) (dk : Bool) (x : XReg) : Statement (.ret h dk x) := .some rfl rfl
theorem meet (h : Head) (dk : Bool) (ld : BitVec 8) (target : BitVec 24) : Statement (.meet h dk ld target) := .some rfl rfl
theorem mrset (h : Head) (dk : Bool) (x : XReg) : Statement (.mrset h dk x) := .some rfl rfl
theorem bar (h : Head) (dk stageForm : Bool) : Statement (.bar h dk stageForm) := .some rfl rfl
theorem barArv (h : Head) (dk stageForm : Bool) : Statement (.barArv h dk stageForm) := .some rfl rfl
theorem barWait (h : Head) (dk stageForm : Bool) : Statement (.barWait h dk stageForm) := .some rfl rfl
theorem barg (h : Head) (dk launchForm : Bool) : Statement (.barg h dk launchForm) := .some rfl rfl
theorem bargArv (h : Head) (dk launchForm : Bool) : Statement (.bargArv h dk launchForm) := .some rfl rfl
theorem bargWait (h : Head) (dk launchForm : Bool) : Statement (.bargWait h dk launchForm) := .some rfl rfl
theorem fetch (h : Head) (dk : Bool) (ld : BitVec 8) (p : BitVec 3) : Statement (.fetch h dk ld p) := .some rfl rfl
theorem fetchV (h : Head) (dk : Bool) (ld : BitVec 8) (p : BitVec 3) : Statement (.fetchV h dk ld p) := .some rfl rfl
theorem exit (h : Head) (dk : Bool) : Statement (.exit h dk) := .some rfl rfl
theorem tail (h : Head) (dk : Bool) : Statement (.tail h dk) := .some rfl rfl
theorem yield (h : Head) (dk : Bool) : Statement (.yield h dk) := .some rfl rfl
theorem resampleL (pz : BitVec 3) (a b : Src) (lit : Lit) : Statement (.resampleL pz a b lit) := .some rfl rfl
theorem resampleG (pz : BitVec 3) (a b : Src) (lit : Lit) : Statement (.resampleG pz a b lit) := .some rfl rfl
theorem ld (h : Head) (sx : Bool) (m : MOpnd) (scope : Scope) (order : Order) (size : Size) : Statement (.ld h sx m scope order size) := .some rfl rfl
theorem ldNc (h : Head) (sx : Bool) (m : MOpnd) (scope : Scope) (order : Order) (size : Size) : Statement (.ldNc h sx m scope order size) := .some rfl rfl
theorem ldStr (h : Head) (sx : Bool) (m : MOpnd) (scope : Scope) (order : Order) (size : Size) : Statement (.ldStr h sx m scope order size) := .some rfl rfl
theorem lds (h : Head) (sx : Bool) (m : MOpnd) (scope : Scope) (order : Order) (size : Size) : Statement (.lds h sx m scope order size) := .some rfl rfl
theorem ldp (h : Head) (rank : BitVec 5) (m : MOpnd) (scope : Scope) (order : Order) (size : Size) : Statement (.ldp h rank m scope order size) := .some rfl rfl
theorem st (h : Head) (m : MOpnd) (chan : Option (BitVec 4)) (scope : Scope) (order : Order) (size : Size) : Statement (.st h m chan scope order size) := .some rfl rfl
theorem sts (h : Head) (m : MOpnd) (scope : Scope) (order : Order) (size : Size) : Statement (.sts h m scope order size) := .some rfl rfl
theorem stp (h : Head) (rank : BitVec 5) (m : MOpnd) (scope : Scope) (order : Order) (size : Size) : Statement (.stp h rank m scope order size) := .some rfl rfl
theorem atomAdd (h : Head) (m : MOpnd) (chan : Option (BitVec 4)) (scope : Scope) (order : Order) (size : Size) : Statement (.atomAdd h m chan scope order size) := .some rfl rfl
theorem atomMin (h : Head) (u : Bool) (m : MOpnd) (chan : Option (BitVec 4)) (scope : Scope) (order : Order) (size : Size) : Statement (.atomMin h u m chan scope order size) := .some rfl rfl
theorem atomMax (h : Head) (u : Bool) (m : MOpnd) (chan : Option (BitVec 4)) (scope : Scope) (order : Order) (size : Size) : Statement (.atomMax h u m chan scope order size) := .some rfl rfl
theorem atomAnd (h : Head) (m : MOpnd) (chan : Option (BitVec 4)) (scope : Scope) (order : Order) (size : Size) : Statement (.atomAnd h m chan scope order size) := .some rfl rfl
theorem atomOr (h : Head) (m : MOpnd) (chan : Option (BitVec 4)) (scope : Scope) (order : Order) (size : Size) : Statement (.atomOr h m chan scope order size) := .some rfl rfl
theorem atomXor (h : Head) (m : MOpnd) (chan : Option (BitVec 4)) (scope : Scope) (order : Order) (size : Size) : Statement (.atomXor h m chan scope order size) := .some rfl rfl
theorem atomExch (h : Head) (m : MOpnd) (chan : Option (BitVec 4)) (scope : Scope) (order : Order) (size : Size) : Statement (.atomExch h m chan scope order size) := .some rfl rfl
theorem atomCas (h : Head) (m : MOpnd) (chan : Option (BitVec 4)) (scope : Scope) (order : Order) (size : Size) : Statement (.atomCas h m chan scope order size) := .some rfl rfl
theorem atomFadd (h : Head) (m : MOpnd) (chan : Option (BitVec 4)) (scope : Scope) (order : Order) : Statement (.atomFadd h m chan scope order) := .some rfl rfl
theorem redAdd (h : Head) (m : MOpnd) (chan : Option (BitVec 4)) (scope : Scope) (order : Order) (size : Size) : Statement (.redAdd h m chan scope order size) := .some rfl rfl
theorem redMin (h : Head) (u : Bool) (m : MOpnd) (chan : Option (BitVec 4)) (scope : Scope) (order : Order) (size : Size) : Statement (.redMin h u m chan scope order size) := .some rfl rfl
theorem redMax (h : Head) (u : Bool) (m : MOpnd) (chan : Option (BitVec 4)) (scope : Scope) (order : Order) (size : Size) : Statement (.redMax h u m chan scope order size) := .some rfl rfl
theorem redFadd (h : Head) (ty : FaddTy) (slot : BitVec 3) (m : MOpnd) (chan : Option (BitVec 4)) (scope : Scope) (order : Order) : Statement (.redFadd h ty slot m chan scope order) := .some rfl rfl
theorem fence (h : Head) (scope : Scope) (order : Order) : Statement (.fence h scope order) := .some rfl rfl
theorem mwait (h : Head) (eq : Bool) (m : MOpnd) (scope : Scope) (order : Order) : Statement (.mwait h eq m scope order) := .some rfl rfl
theorem mwaitB64 (h : Head) (eq : Bool) (m : MOpnd) (scope : Scope) (order : Order) : Statement (.mwaitB64 h eq m scope order) := .some rfl rfl
theorem chain (h : Head) (ka kb : BitVec 4) : Statement (.chain h ka kb) := .some rfl rfl
theorem chainAll (h : Head) (ka : BitVec 4) : Statement (.chainAll h ka) := .some rfl rfl
theorem drain (h : Head) (hd : BitVec 8) (k : BitVec 4) : Statement (.drain h hd k) := .some rfl rfl
theorem chstat (h : Head) (d : BitVec 8) (k : BitVec 4) (n : BitVec 2) : Statement (.chstat h d k n) := .some rfl rfl
theorem chreset (h : Head) (k : BitVec 4) : Statement (.chreset h k) := .some rfl rfl
theorem subscribe (h : Head) (hd : BitVec 8) (q : BitVec 8) (n : BitVec 4) : Statement (.subscribe h hd q n) := .some rfl rfl
theorem unsub (h : Head) (n : BitVec 4) : Statement (.unsub h n) := .some rfl rfl
theorem wown (h : Head) (rank : BitVec 5) (m : MOpnd) : Statement (.wown h rank m) := .some rfl rfl
theorem copy (h : Head) (hd base : BitVec 8) (chan : Option (BitVec 4)) (scope : Scope) : Statement (.copy h hd base chan scope) := .some rfl rfl
theorem copyT (h : Head) (hd base : BitVec 8) (chan : Option (BitVec 4)) (scope : Scope) (size : Size) : Statement (.copyT h hd base chan scope size) := .some rfl rfl
theorem hgather (h : Head) (hd base : BitVec 8) (size : Size) : Statement (.hgather h hd base size) := .some rfl rfl
theorem cbset (h : Head) (q : BitVec 8) (n : BitVec 3) : Statement (.cbset h q n) := .some rfl rfl
theorem cbwaitP (h : Head) (d : BitVec 8) (cnt : Src) (n : BitVec 3) (lit : Lit) : Statement (.cbwaitP h d cnt n lit) := .some rfl rfl
theorem cbwaitC (h : Head) (d : BitVec 8) (cnt : Src) (n : BitVec 3) (lit : Lit) : Statement (.cbwaitC h d cnt n lit) := .some rfl rfl
theorem cbrelP (h : Head) (cnt : Src) (n : BitVec 3) (lit : Lit) : Statement (.cbrelP h cnt n lit) := .some rfl rfl
theorem cbrelC (h : Head) (cnt : Src) (n : BitVec 3) (lit : Lit) : Statement (.cbrelC h cnt n lit) := .some rfl rfl
theorem htest (h : Head) (pd : BitVec 8) (hs : BitVec 8) : Statement (.htest h pd hs) := .some rfl rfl
theorem hwait (h : Head) (all : Bool) (d : BitVec 8) (m : Src) (lit : Lit) : Statement (.hwait h all d m lit) := .some rfl rfl
theorem hcancel (h : Head) (hs : BitVec 8) : Statement (.hcancel h hs) := .some rfl rfl
theorem hmov (h : Head) (hd hs : BitVec 8) (sg : BitVec 5) : Statement (.hmov h hd hs sg) := .some rfl rfl
theorem mldb (h : Head) (half : Bool) (fb : BitVec 3) (col : BitVec 8) (kb : BitVec 5) (sx : BitVec 8) : Statement (.mldb h half fb col kb sx) := .some rfl rfl
theorem mldbPe (h : Head) (half : Bool) (fb : BitVec 3) (col : BitVec 8) (kb : BitVec 5) (sx sy : BitVec 8) : Statement (.mldbPe h half fb col kb sx sy) := .some rfl rfl
theorem mlda (h : Head) (fa : BitVec 3) (row rows : BitVec 7) (kb : BitVec 6) (sx : BitVec 8) : Statement (.mlda h fa row rows kb sx) := .some rfl rfl
theorem mldaV (h : Head) (fa : BitVec 3) (row : BitVec 7) (kb : BitVec 6) (sy : BitVec 8) : Statement (.mldaV h fa row kb sy) := .some rfl rfl
theorem mldaG (h : Head) (fa : BitVec 3) (row rows : BitVec 7) (kb : BitVec 6) (sx : BitVec 8) : Statement (.mldaG h fa row rows kb sx) := .some rfl rfl
theorem mzero (h : Head) (side half : Bool) (row : BitVec 7) (col : BitVec 8) (rows : BitVec 7) : Statement (.mzero h side half row col rows) := .some rfl rfl
theorem mma (h : Head) (half : Bool) (fa fb : BitVec 3) (row : BitVec 7) (col : BitVec 8) (rows : BitVec 7) : Statement (.mma h half fa fb row col rows) := .some rfl rfl
theorem mmaZ (h : Head) (half : Bool) (fa fb : BitVec 3) (row : BitVec 7) (col : BitVec 8) (rows : BitVec 7) : Statement (.mmaZ h half fa fb row col rows) := .some rfl rfl
theorem mmas (h : Head) (fa : BitVec 3) (row : BitVec 7) (col : BitVec 8) (rows : BitVec 7) : Statement (.mmas h fa row col rows) := .some rfl rfl
theorem mscale (h : Head) (half : Bool) (row : BitVec 7) (col : BitVec 8) (rows : BitVec 7) (sx : BitVec 8) : Statement (.mscale h half row col rows sx) := .some rfl rfl
theorem mscaleL (h : Head) (half : Bool) (row : BitVec 7) (col : BitVec 8) (rows : BitVec 7) : Statement (.mscaleL h half row col rows) := .some rfl rfl
theorem mside (h : Head) (row rows : BitVec 7) (sx : BitVec 8) : Statement (.mside h row rows sx) := .some rfl rfl
theorem msideQ (h : Head) (row rows : BitVec 7) : Statement (.msideQ h row rows) := .some rfl rfl
theorem msideW (h : Head) (row rows : BitVec 7) (sx : BitVec 8) : Statement (.msideW h row rows sx) := .some rfl rfl
theorem mrdV (h : Head) (half : Bool) (row : BitVec 7) (col : BitVec 8) (sy : BitVec 8) : Statement (.mrdV h half row col sy) := .some rfl rfl
theorem mrdSp (h : Head) (half : Bool) (fa : BitVec 3) (row : BitVec 7) (col : BitVec 8) (rows : BitVec 7) (sx : BitVec 8) : Statement (.mrdSp h half fa row col rows sx) := .some rfl rfl
theorem mwrV (h : Head) (half : Bool) (row : BitVec 7) (col : BitVec 8) (sy : BitVec 8) : Statement (.mwrV h half row col sy) := .some rfl rfl
theorem mwrSp (h : Head) (half : Bool) (fa : BitVec 3) (row : BitVec 7) (col : BitVec 8) (rows : BitVec 7) (sx : BitVec 8) : Statement (.mwrSp h half fa row col rows sx) := .some rfl rfl
theorem mcomp (h : Head) (fb : BitVec 3) (n : BitVec 8) (kb : BitVec 6) (sx sy : BitVec 8) : Statement (.mcomp h fb n kb sx sy) := .some rfl rfl
theorem mspma (h : Head) (half : Bool) (fa fb : BitVec 3) (row : BitVec 7) (col : BitVec 8) (rows : BitVec 7) (sx : BitVec 8) : Statement (.mspma h half fa fb row col rows sx) := .some rfl rfl
theorem mspmaZ (h : Head) (half : Bool) (fa fb : BitVec 3) (row : BitVec 7) (col : BitVec 8) (rows : BitVec 7) (sx : BitVec 8) : Statement (.mspmaZ h half fa fb row col rows sx) := .some rfl rfl
theorem mdrain (h : Head) (half : Bool) (fa : BitVec 3) (row : BitVec 7) (col : BitVec 8) (rows : BitVec 7) (sx sy : BitVec 8) : Statement (.mdrain h half fa row col rows sx sy) := .some rfl rfl
theorem mdrainAdd (h : Head) (half : Bool) (fa : BitVec 3) (row : BitVec 7) (col : BitVec 8) (rows : BitVec 7) (sx sy : BitVec 8) : Statement (.mdrainAdd h half fa row col rows sx sy) := .some rfl rfl
theorem mgang (h : Head) (log : BitVec 2) : Statement (.mgang h log) := .some rfl rfl
theorem mchk (h : Head) : Statement (.mchk h) := .some rfl rfl
theorem trap (h : Head) (a : Src) (lit : Lit) : Statement (.trap h a lit) := .some rfl rfl
theorem brk (h : Head) : Statement (.brk h) := .some rfl rfl
theorem icinv (h : Head) (scope : Scope) (a b : Src) (lit : Lit) : Statement (.icinv h scope a b lit) := .some rfl rfl
theorem dcflush (h : Head) (a b : Src) (lit : Lit) : Statement (.dcflush h a b lit) := .some rfl rfl
theorem trec (h : Head) (a : Src) (lit : Lit) : Statement (.trec h a lit) := .some rfl rfl
theorem trecV (h : Head) (a b : Src) (lit : Lit) : Statement (.trecV h a b lit) := .some rfl rfl
theorem snap (h : Head) (d : Dst) : Statement (.snap h d) := .some rfl rfl
theorem clauseFetch (core grp : Nat) : Statement (.clauseFetch core grp) := .none rfl
theorem clauseFetchMissFill (core grp : Nat) : Statement (.clauseFetchMissFill core grp) := .none rfl
theorem groupFormation (core : Nat) : Statement (.groupFormation core) := .none rfl
theorem groupPark (core : Nat) : Statement (.groupPark core) := .none rfl
theorem parkedGroupReturn (core : Nat) : Statement (.parkedGroupReturn core) := .none rfl
theorem plazaBarrierComplete (core : Nat) (launchForm : Bool) : Statement (.plazaBarrierComplete core launchForm) := .none rfl
theorem tailDeadlockTimeout (core : Nat) : Statement (.tailDeadlockTimeout core) := .none rfl
theorem retirementTrackerEmpty (core : Nat) : Statement (.retirementTrackerEmpty core) := .none rfl
theorem coordinateDelivery (launch : Nat) : Statement (.coordinateDelivery launch) := .none rfl
theorem loadReply (core op : Nat) : Statement (.loadReply core op) := .none rfl
theorem atomReply (core op : Nat) : Statement (.atomReply core op) := .none rfl
theorem homeWriteArrival (core op lane : Nat) : Statement (.homeWriteArrival core op lane) := .none rfl
theorem storeAck (core op : Nat) : Statement (.storeAck core op) := .none rfl
theorem peerScratchpadWrite (core op lane : Nat) : Statement (.peerScratchpadWrite core op lane) := .none rfl
theorem mwaitRetest (core grp : Nat) : Statement (.mwaitRetest core grp) := .none rfl
theorem subscribeFillComplete (core n : Nat) : Statement (.subscribeFillComplete core n) := .none rfl
theorem unsubComplete (core n : Nat) : Statement (.unsubComplete core n) := .none rfl
theorem copyQ2Command (core grp : Nat) (cmd : BitVec 32) : Statement (.copyQ2Command core grp cmd) := .none rfl
theorem q2CopyStart (core grp : Nat) : Statement (.q2CopyStart core grp) := .none rfl
theorem copyComplete (core op : Nat) : Statement (.copyComplete core op) := .none rfl
theorem hgatherComplete (core op : Nat) : Statement (.hgatherComplete core op) := .none rfl
theorem drainComplete (core op : Nat) : Statement (.drainComplete core op) := .none rfl
theorem icinvDropReceive (core op : Nat) : Statement (.icinvDropReceive core op) := .none rfl
theorem dcflushComplete (core op : Nat) : Statement (.dcflushComplete core op) := .none rfl
theorem channelPacketSend (core stream nops link : Nat) : Statement (.channelPacketSend core stream nops link) := .none rfl
theorem channelPacketArrive (n : Nat) : Statement (.channelPacketArrive n) := .none rfl
theorem ackSend (die stream : Nat) : Statement (.ackSend die stream) := .none rfl
theorem channelAckReceive (n : Nat) : Statement (.channelAckReceive n) := .none rfl
theorem nakReceive (n : Nat) : Statement (.nakReceive n) := .none rfl
theorem sclReceive (n : Nat) : Statement (.sclReceive n) := .none rfl
theorem linkDownNotice (core stream : Nat) : Statement (.linkDownNotice core stream) := .none rfl
theorem channelAckTimeout (core stream : Nat) : Statement (.channelAckTimeout core stream) := .none rfl
theorem rsqReceive (n : Nat) : Statement (.rsqReceive n) := .none rfl
theorem rsaReceive (n : Nat) : Statement (.rsaReceive n) := .none rfl
theorem resyncAttemptTimeout (core stream : Nat) : Statement (.resyncAttemptTimeout core stream) := .none rfl
theorem causewayLinkFail (link : Nat) : Statement (.causewayLinkFail link) := .none rfl
theorem causewayLinkUp (link : Nat) (agreed : Bool) : Statement (.causewayLinkUp link agreed) := .none rfl
theorem matrixQ0Command (core grp : Nat) (cmd : BitVec 32) : Statement (.matrixQ0Command core grp cmd) := .none rfl
theorem q0CommandEnqueue (core grp : Nat) : Statement (.q0CommandEnqueue core grp) := .none rfl
theorem matrixWordStart (core : Nat) : Statement (.matrixWordStart core) := .none rfl
theorem matrixWordEnd (core : Nat) : Statement (.matrixWordEnd core) := .none rfl
theorem mldaGTransfer (core : Nat) : Statement (.mldaGTransfer core) := .none rfl
theorem mdrainComplete (core op : Nat) : Statement (.mdrainComplete core op) := .none rfl
theorem tollgateWindow (island : Nat) : Statement (.tollgateWindow island) := .none rfl
theorem resampleStepBegin (launch : Nat) (gangForm : Bool) (gang : Nat) : Statement (.resampleStepBegin launch gangForm gang) := .none rfl
theorem resampleStepEnd (launch : Nat) (gangForm : Bool) (gang : Nat) : Statement (.resampleStepEnd launch gangForm gang) := .none rfl
theorem resampleStallTimeout (core : Nat) : Statement (.resampleStallTimeout core) := .none rfl
theorem l2MissTranslate (core op lane : Nat) : Statement (.l2MissTranslate core op lane) := .none rfl
theorem faultRecord (tenant : Nat) : Statement (.faultRecord tenant) := .none rfl
theorem faultRingRoom (tenant : Nat) : Statement (.faultRingRoom tenant) := .none rfl
theorem faultAnswerRetry (tenant id : Nat) : Statement (.faultAnswerRetry tenant id) := .none rfl
theorem faultAnswerRefuse (tenant id : Nat) : Statement (.faultAnswerRefuse tenant id) := .none rfl
theorem faultSwitchOut (core : Nat) : Statement (.faultSwitchOut core) := .none rfl
theorem faultResume (launch wgno : Nat) : Statement (.faultResume launch wgno) := .none rfl
theorem homeMapChange (asid region : Nat) (entry : BitVec 32) : Statement (.homeMapChange asid region entry) := .none rfl
theorem shootDownRequest (asid va len : Nat) : Statement (.shootDownRequest asid va len) := .none rfl
theorem shootdownReceive (core : Nat) : Statement (.shootdownReceive core) := .none rfl
theorem migrationRequest (asid region newHome newTier frame : Nat) : Statement (.migrationRequest asid region newHome newTier frame) := .none rfl
theorem migrationLineMove (die slot : Nat) : Statement (.migrationLineMove die slot) := .none rfl
theorem cutBroadcastReceive (tenant : Nat) (atDie : Bool) (n : Nat) : Statement (.cutBroadcastReceive tenant atDie n) := .none rfl
theorem milestoneMarkerSend (tenant : Nat) (fromHub : Bool) (src die : Nat) : Statement (.milestoneMarkerSend tenant fromHub src die) := .none rfl
theorem milestoneMarkerReceive (tenant : Nat) (fromHub : Bool) (src die : Nat) : Statement (.milestoneMarkerReceive tenant fromHub src die) := .none rfl
theorem milestoneDrainPage (tenant : Nat) : Statement (.milestoneDrainPage tenant) := .none rfl
theorem revertExecute (queue : Nat) : Statement (.revertExecute queue) := .none rfl
theorem queueDoorbell (queue : Nat) (value : BitVec 64) (wide : Bool) : Statement (.queueDoorbell queue value wide) := .none rfl
theorem nopPacket (queue : Nat) : Statement (.nopPacket queue) := .none rfl
theorem launchPacket (queue : Nat) : Statement (.launchPacket queue) := .none rfl
theorem waitPacket (queue : Nat) : Statement (.waitPacket queue) := .none rfl
theorem waitConditionMet (queue : Nat) : Statement (.waitConditionMet queue) := .none rfl
theorem signalPacket (queue : Nat) : Statement (.signalPacket queue) := .none rfl
theorem copyPacket (queue : Nat) : Statement (.copyPacket queue) := .none rfl
theorem hubCopyComplete (queue num : Nat) : Statement (.hubCopyComplete queue num) := .none rfl
theorem snapPacket (queue : Nat) : Statement (.snapPacket queue) := .none rfl
theorem revertPacket (queue : Nat) : Statement (.revertPacket queue) := .none rfl
theorem appendPacket (queue : Nat) : Statement (.appendPacket queue) := .none rfl
theorem dumpResumePacket (queue : Nat) : Statement (.dumpResumePacket queue) := .none rfl
theorem unassignedPacket (queue : Nat) : Statement (.unassignedPacket queue) := .none rfl
theorem launchAdmission (launch : Nat) : Statement (.launchAdmission launch) := .none rfl
theorem preemption (launch : Nat) : Statement (.preemption launch) := .none rfl
theorem contextSave (core : Nat) : Statement (.contextSave core) := .none rfl
theorem launchResume (launch : Nat) : Statement (.launchResume launch) := .none rfl
theorem haltBroadcastReceive (core : Nat) : Statement (.haltBroadcastReceive core) := .none rfl
theorem dumpWrite (core : Nat) : Statement (.dumpWrite core) := .none rfl
theorem gangKill (launch gang : Nat) : Statement (.gangKill launch gang) := .none rfl
theorem gangRelaunch (launch gang : Nat) : Statement (.gangRelaunch launch gang) := .none rfl
theorem debugStop (wg : BitVec 32) (lid : PageLid) (cap : BitVec 64) : Statement (.debugStop wg lid cap) := .none rfl
theorem debugResume (wg : BitVec 32) (lid : PageLid) (cap : BitVec 64) : Statement (.debugResume wg lid cap) := .none rfl
theorem debugEnd (lid : PageLid) (cap : BitVec 64) : Statement (.debugEnd lid cap) := .none rfl
theorem debugTresume (lid : PageLid) (cap : BitVec 64) : Statement (.debugTresume lid cap) := .none rfl
theorem capabilityMint (r : CapReq) : Statement (.capabilityMint r) := .none rfl
theorem capabilityDelegate (r : CapChild) : Statement (.capabilityDelegate r) := .none rfl
theorem capabilityRevoke (slot : PageSlot) : Statement (.capabilityRevoke slot) := .none rfl
theorem hostCxlMemAccess (pa : Nat) (write : Option (BitVec 8)) : Statement (.hostCxlMemAccess pa write) := .none rfl
theorem deviceNumberWrite (value : BitVec 16) : Statement (.deviceNumberWrite value) := .none rfl
theorem securityCounterRead : Statement .securityCounterRead := .none rfl
theorem tenantCreate (tenant : Nat) (cfg : TenantCfg) : Statement (.tenantCreate tenant cfg) := .none rfl
theorem tenantDelete (tenant : Nat) : Statement (.tenantDelete tenant) := .none rfl
theorem queueMap (queue tenant log base : Nat) : Statement (.queueMap queue tenant log base) := .none rfl
theorem queueReset (queue : Nat) : Statement (.queueReset queue) := .none rfl
theorem queueUnmap (queue : Nat) : Statement (.queueUnmap queue) := .none rfl
theorem islandPointRequest (island : Nat) (point : BitVec 3) : Statement (.islandPointRequest island point) := .none rfl
theorem islandPointChangeDone (island : Nat) : Statement (.islandPointChangeDone island) := .none rfl
theorem islandBudgetWrite (island : Nat) (budget : BitVec 8) : Statement (.islandBudgetWrite island budget) := .none rfl
theorem thermalThrottle (island : Nat) (temp : BitVec 16) : Statement (.thermalThrottle island temp) := .none rfl
theorem thermalTrip (island : Nat) (temp : BitVec 16) : Statement (.thermalTrip island temp) := .none rfl
theorem thermalTripClear (value : BitVec 32) : Statement (.thermalTripClear value) := .none rfl
theorem erasureTableWrite (rank entry : Nat) (value : BitVec 16) : Statement (.erasureTableWrite rank entry value) := .none rfl
theorem patrolScrub (unit : Nat) : Statement (.patrolScrub unit) := .none rfl
theorem correctedCounterClear (kind n : Nat) : Statement (.correctedCounterClear kind n) := .none rfl
theorem deviceReset : Statement .deviceReset := .none rfl
theorem nonce : Statement .nonce := .none rfl
theorem transfer (newOwner : BitVec 256) (nonce signature : Nat) : Statement (.transfer newOwner nonce signature) := .none rfl
theorem getVersion : Statement .getVersion := .none rfl
theorem getCapabilities : Statement .getCapabilities := .none rfl
theorem negotiateAlgorithms : Statement .negotiateAlgorithms := .none rfl
theorem getDigests : Statement .getDigests := .none rfl
theorem getCertificate : Statement .getCertificate := .none rfl
theorem challenge (nonce : Nat) : Statement (.challenge nonce) := .none rfl
theorem getMeasurements (nonce : Nat) : Statement (.getMeasurements nonce) := .none rfl
theorem keyExchange (nonce : Nat) : Statement (.keyExchange nonce) := .none rfl
theorem finish (nonce : Nat) : Statement (.finish nonce) := .none rfl
theorem spdmUnsupportedRequest (code : Nat) : Statement (.spdmUnsupportedRequest code) := .none rfl
theorem registerWrite (bar offset : Nat) (value : BitVec 64) (bytes : Nat) : Statement (.registerWrite bar offset value bytes) := .none rfl
theorem fixedLatencyResult (core op : Nat) : Statement (.fixedLatencyResult core op) := .none rfl

end Sys2Proof.Laws.Opcode
end

