-- ==== Sys2Proof/Laws/Word.lean ====
section
/-! SUPPORT. The frame that the words share: what their shared operations change, said once. `On` says how a state differs from another on one core; `Mid`
how a workgroup in the middle of a word differs from the one that issued it; `aluEff_after` and `lanesEff_after` sum them up. -/

namespace Sys2Proof

open Sys2Proof.Machine

/-! ## One core -/

/-- `t` differs from `s` at most in core `c`, which is `k`, and in the model's counters. -/
def On (s t : State) (c : Nat) (k : Core) : Prop :=
  t = { s with cores := t.cores, free := t.free, nextId := t.nextId } ∧ (∀ d, d ≠ c → t.core d = s.core d) ∧ t.core c = k

theorem On.rfl' (s : State) (c : Nat) : On s s c (s.core c) := ⟨rfl, fun _ _ => rfl, rfl⟩

theorem On.modCore {s t : State} {c : Nat} {k : Core} (h : On s t c k) (f : Core → Core) : On s (t.modCore c f) c (f k) := by
  obtain ⟨h1, h2, h3⟩ := h
  refine ⟨?_, fun d hd => ?_, ?_⟩
  · rw [h1]; rfl
  · rw [State.core_modCore_ne hd, h2 d hd]
  · rw [State.core_modCore_self, h3]

theorem On.modWg {s t : State} {c : Nat} {k : Core} (h : On s t c k) (f : Wg → Wg) : On s (t.modWg c f) c { k with wg := k.wg.map f } :=
  h.modCore _

theorem On.modGroup {s t : State} {c : Nat} {k : Core} (h : On s t c k) (g : Nat) (f : Group → Group) :
    On s (t.modGroup c g f) c { k with wg := k.wg.map (·.modGroup g f) } := h.modWg _

theorem On.draw {s t : State} {c : Nat} {k : Core} (h : On s t c k) : On s t.draw c k := by
  obtain ⟨h1, h2, h3⟩ := h
  exact ⟨by rw [h1]; rfl, h2, h3⟩

theorem On.fresh {s t : State} {c : Nat} {k : Core} (h : On s t c k) : On s t.fresh c k := by
  obtain ⟨h1, h2, h3⟩ := h
  exact ⟨by rw [h1]; rfl, h2, h3⟩

/-! ## The value that results leave -/

@[simp] theorem written_nil (l : Loc) : written [] l = none := rfl

theorem written_append (ws : List (Loc × Word32)) (p : Loc × Word32) (l : Loc) :
    written (ws ++ [p]) l = if p.1 = l then some p.2 else written ws l := by
  simp [written, List.foldl_append]

/-! ## A workgroup in the middle of a word -/

/-- The workgroup `w` has come out of `x.wg` by results `ws`, with the stage queues `sq`, and with `b` in the issuing group's slot but for the scalar
registers. -/
structure Mid (x : Ctx) (w : Wg) (ws : List (Loc × Word32)) (sq : Nat → List Word32) (b : Group) : Prop where
  rest : w = { x.wg with
    threads := w.threads, groups := w.groups, vregs := w.vregs, stageQ := w.stageQ, flights := w.flights, parked := w.parked
    lastIssue := w.lastIssue, issues := w.issues, hist := w.hist, reasons := w.reasons }
  parked : (∀ p ∈ x.wg.parked, p.group.uid ≠ x.grp.uid) → w.parked = x.wg.parked
  vregs : ∀ slot r, r < 256 → w.vreg slot r = (written ws (.vec slot r)).getD (x.wg.vreg slot r)
  threads : ∀ slot, (SMap.get? w.threads slot).map Thread.noPreds = (SMap.get? x.wg.threads slot).map Thread.noPreds
  preds : ∀ slot th th', SMap.get? x.wg.threads slot = some th → SMap.get? w.threads slot = some th' → ∀ p, p < 7 →
    th'.pred p = ((written ws (.pred slot p)).map (· != 0)).getD (th.pred p)
  group : ∃ v, w.group? x.g = some { b with sregs := v } ∧ ∀ r, SMap.getD v r 0 = (written ws (.sca x.grp.uid r)).getD (x.grp.sreg r)
  uid : b.uid = x.grp.uid
  others : ∀ j y, j ≠ x.g → x.wg.group? j = some y → y.uid ≠ x.grp.uid → w.group? j = some y
  stageQ : ∀ k, SMap.getD w.stageQ k [] = sq k

theorem Mid.start {x : Ctx} (h : x.wg.group? x.g = some x.grp) : Mid x x.wg [] (fun k => SMap.getD x.wg.stageQ k []) x.grp where
  rest := rfl
  parked _ := rfl
  vregs _ _ _ := rfl
  threads _ := rfl
  preds slot th th' h1 h2 p hp := by rw [h1] at h2; cases h2; rfl
  group := ⟨x.grp.sregs, h, fun _ => rfl⟩
  uid := rfl
  others _ _ _ h _ := h
  stageQ _ := rfl

/-- A change of fields that the frame leaves open. -/
theorem Mid.times {x : Ctx} {w : Wg} {ws : List (Loc × Word32)} {sq : Nat → List Word32} {b : Group} (h : Mid x w ws sq b)
    (fl : List Flight) (li : Nat) (ss hi re : SMap Nat) :
    Mid x { w with flights := fl, lastIssue := li, issues := ss, hist := hi, reasons := re } ws sq b where
  rest := by rw [h.rest]
  parked := h.parked
  vregs := h.vregs
  threads := h.threads
  preds := h.preds
  group := h.group
  uid := h.uid
  others := h.others
  stageQ := h.stageQ

theorem Mid.modGroup {x : Ctx} {w : Wg} {ws : List (Loc × Word32)} {sq : Nat → List Word32} {b : Group} (h : Mid x w ws sq b)
    (f : Group → Group) (hf : ∀ y v, f { y with sregs := v } = { f y with sregs := v }) (hu : (f b).uid = b.uid) :
    Mid x (w.modGroup x.g f) ws sq (f b) where
  rest := by rw [Wg.modGroup, h.rest]
  parked := h.parked
  vregs := h.vregs
  threads := h.threads
  preds := h.preds
  group := by
    obtain ⟨v, h1, h2⟩ := h.group
    refine ⟨v, ?_, h2⟩
    simp only [Wg.group?] at h1
    simp only [Wg.group?, Wg.modGroup, SMap.get?_modify, ↓reduceIte, h1, Option.map_some]
    rw [hf]
  uid := by rw [hu, h.uid]
  others j y hj h1 h2 := by
    have := h.others j y hj h1 h2
    simp only [Wg.group?] at this
    simp [Wg.group?, Wg.modGroup, SMap.get?_modify, hj, this]
  stageQ := h.stageQ

/-! ## Writing a place -/

theorem SMap.get?_map {α : Type} (m : SMap α) (f : α → α) (j : Nat) :
    SMap.get? (m.map fun p => (p.1, f p.2)) j = (SMap.get? m j).map f := by
  induction m with
  | nil => rfl
  | cons p m ih => simp only [List.map_cons, SMap.get?, ih]; split <;> rfl

theorem modUid_group? (w : Wg) (u : Nat) (f : Group → Group) (j : Nat) :
    (w.modUid u f).group? j = (w.group? j).map fun y => if y.uid == u then f y else y := by
  simp only [Wg.group?, Wg.modUid]
  rw [← SMap.get?_map]
  congr 1
  apply List.map_congr_left
  intro p _
  by_cases e : p.2.uid == u <;> simp [e]

theorem Thread.pred_setPred (t : Thread) {p q : Nat} (b : Bool) (hq : q < 7) (hp : p < 7) :
    (t.setPred p b).pred q = if p = q then b else t.pred q := by
  have hq' : q ≠ 7 := by omega
  simp only [Thread.pred, Thread.setPred, hp, ↓reduceIte, hq', decide_false, Bool.false_or]
  have h7 : (BitVec.ofNat 7 (2 ^ p)).getLsbD q = decide (p = q) := by
    have : ∀ q, q < 7 → ∀ p, p < 7 → (BitVec.ofNat 7 (2 ^ p)).getLsbD q = decide (p = q) := by decide
    exact this q hq p hp
  cases b
  · simp only [Bool.false_eq_true, ↓reduceIte, BitVec.getLsbD_and, BitVec.getLsbD_not, h7, hq, decide_true, Bool.true_and]
    split <;> simp_all
  · simp only [↓reduceIte, BitVec.getLsbD_or, h7]
    split <;> simp_all

@[simp] theorem Thread.setPred_noPreds (t : Thread) (p : Nat) (b : Bool) : (t.setPred p b).noPreds = t.noPreds := by
  unfold Thread.setPred; split <;> rfl

/-- A place that `setLoc` can write: a vector register below 256, a predicate below 7. -/
def Machine.Loc.ok : Loc → Prop
  | .vec _ r => r < 256
  | .pred _ p => p < 7
  | .sca _ _ => True

theorem Mid.setLoc {x : Ctx} {w : Wg} {ws : List (Loc × Word32)} {sq : Nat → List Word32} {b : Group} (h : Mid x w ws sq b)
    (l : Loc) (v : Word32) (hl : l.ok) (hs : ∀ u r, l = .sca u r → u = x.grp.uid) : Mid x (w.setLoc l v) (ws ++ [(l, v)]) sq b := by
  cases l with
  | vec slot r =>
    refine { h with rest := ?_, vregs := ?_, preds := ?_, group := ?_ }
    · simp only [Wg.setLoc, Wg.setVreg]; rw [h.rest]
    · intro sl q hq
      rw [written_append]
      simp only [Wg.setLoc, Wg.vreg_setVreg w v hl hq, Loc.vec.injEq]
      by_cases hh : slot = sl ∧ r = q
      · simp [hh]
      · have : ¬ (sl = slot ∧ q = r) := fun ⟨a, b⟩ => hh ⟨a.symm, b.symm⟩
        simp [hh, this, h.vregs sl q hq]
    · intro sl th th' h1 h2 p hp; rw [written_append]; simpa using h.preds sl th th' h1 h2 p hp
    · obtain ⟨u, h1, h2⟩ := h.group
      exact ⟨u, h1, fun r => by rw [written_append]; simpa using h2 r⟩
  | pred slot p =>
    refine { h with rest := ?_, vregs := ?_, threads := ?_, preds := ?_, group := ?_ }
    · simp only [Wg.setLoc, Wg.modThread]; rw [h.rest]
    · intro sl q hq; rw [written_append]; exact h.vregs sl q hq
    · intro sl
      simp only [Wg.setLoc, Wg.modThread, SMap.get?_modify]
      split
      · next hh => subst hh; rw [← h.threads]; simp [Option.map_map, Function.comp_def]
      · exact h.threads sl
    · intro sl th th' h1 h2 q hq
      simp only [Wg.setLoc, Wg.modThread, SMap.get?_modify] at h2
      rw [written_append]
      split at h2
      · next hh =>
        subst hh
        obtain ⟨y, hy, rfl⟩ := Option.map_eq_some_iff.1 h2
        rw [Thread.pred_setPred _ _ hq hl, h.preds sl th y h1 hy q hq]
        by_cases e : p = q <;> simp [e]
      · next hh =>
        have : ¬ (slot = sl ∧ p = q) := fun e => hh e.1.symm
        simp only [Loc.pred.injEq, this, ↓reduceIte]
        exact h.preds sl th th' h1 h2 q hq
    · obtain ⟨u, h1, h2⟩ := h.group
      exact ⟨u, h1, fun r => by rw [written_append]; simpa using h2 r⟩
  | sca u r =>
    have hu := hs u r rfl
    subst hu
    refine { h with rest := ?_, parked := ?_, vregs := ?_, preds := ?_, group := ?_, others := ?_ }
    · simp only [Wg.setLoc, Wg.modUid]; rw [h.rest]
    · intro hp
      have h1 := h.parked hp
      simp only [Wg.setLoc, Wg.modUid, h1]
      refine (List.map_congr_left (g := id) fun p hpp => ?_).trans (List.map_id _)
      simp [hp p hpp]
    · intro sl q hq; rw [written_append]; exact h.vregs sl q hq
    · intro sl th th' h1 h2 p hp; rw [written_append]; simpa using h.preds sl th th' h1 h2 p hp
    · obtain ⟨y, h1, h2⟩ := h.group
      refine ⟨SMap.set y r v, ?_, fun q => ?_⟩
      · simp only [Wg.setLoc, modUid_group?, h1, Option.map_some, h.uid, beq_self_eq_true, ↓reduceIte]
      · rw [SMap.getD_set, written_append]
        by_cases e : q = r
        · simp [e]
        · have : ¬ r = q := fun e' => e e'.symm
          simpa [e, this] using h2 q
    · intro j y hj h1 h2
      simp [Wg.setLoc, modUid_group?, h.others j y hj h1 h2, h2]

theorem Mid.setLocs {x : Ctx} {sq : Nat → List Word32} {b : Group} (ps : List (Loc × Word32)) :
    ∀ {w : Wg} {ws : List (Loc × Word32)}, Mid x w ws sq b → (∀ p ∈ ps, p.1.ok) → (∀ p ∈ ps, ∀ u r, p.1 = .sca u r → u = x.grp.uid) →
    Mid x (ps.foldl (fun w p => w.setLoc p.1 p.2) w) (ws ++ ps) sq b := by
  induction ps with
  | nil => intro w ws h _ _; simpa using h
  | cons p ps ih =>
    intro w ws h h1 h2
    have := ih (h.setLoc p.1 p.2 (h1 p (by simp)) (h2 p (by simp))) (fun q hq => h1 q (by simp [hq])) (fun q hq => h2 q (by simp [hq]))
    simpa using this

/-- Where no write to the places is outstanding, `writeLoc` writes each place. -/
theorem writeLoc_quiet (now due : Nat) (ps : List (Loc × Word32)) :
    ∀ (w : Wg) (alts : List (Loc × Word32)), (∀ p ∈ ps, ∀ f ∈ w.flights, f.var = false → due < f.due → f.val? p.1 = none) →
    (ps.foldl (writeLoc now due) (w, alts)).1 = ps.foldl (fun w p => w.setLoc p.1 p.2) w := by
  induction ps with
  | nil => intro w alts _; rfl
  | cons p ps ih =>
    intro w alts h
    have hf : ∀ l v, (w.setLoc l v).flights = w.flights := by intro l v; cases l <;> rfl
    have hn : (w.flights.any fun f => !f.var && decide (due < f.due) && (f.val? p.1).isSome) = false := by
      rw [List.any_eq_false]
      intro f hfm hh
      simp only [Bool.and_eq_true, Bool.not_eq_eq_eq_not, Bool.not_true, decide_eq_true_eq] at hh
      have := h p (by simp) f hfm hh.1.1 hh.1.2
      rw [this] at hh; simp at hh
    simp only [List.foldl_cons, writeLoc, hn, Bool.false_eq_true, ↓reduceIte]
    exact ih _ _ (fun q hq f hfm => h q (by simp [hq]) f (by rwa [hf] at hfm))

/-! ## The state in the middle of a word -/

/-- The state `t` has come out of `s` by a part of a word of `x`, whose workgroup is now `w`; `fs` are its flights, `j` says that an operation was joined. -/
structure MidS (s t : State) (x : Ctx) (w : Wg) (ws : List (Loc × Word32)) (sq : Nat → List Word32) (b : Group) (fs : List Flight) (j : Bool) :
    Prop where
  world : t = { s with cores := t.cores, free := t.free, nextId := t.nextId }
  cores : ∀ d, d ≠ x.c → t.core d = s.core d
  core : t.core x.c = { s.core x.c with
    ck := (t.core x.c).ck, vecFree := (t.core x.c).vecFree, sideFree := (t.core x.c).sideFree, l1 := (t.core x.c).l1, wg := (t.core x.c).wg }
  l1 : j = false → (t.core x.c).l1 = (s.core x.c).l1
  wg : t.wg? x.c = some w
  mid : Mid x w ws sq b
  flights : w.flights = fs

/-- Ctx facts: where the issuing group is found. -/
theorem ctx?_some {s : State} {h : Head} {op : Nat} {lit : Lit} {x : Ctx} (hx : s.ctx? h op lit = some x) :
    s.wg? x.c = some x.wg ∧ x.wg.group? x.g = some x.grp ∧ x.now ≤ x.fin ∧ x.h = h ∧ x.lit = lit ∧ x.op = op := by
  unfold State.ctx? at hx
  split at hx
  · next w l g h1 h2 h3 =>
    dsimp only at hx
    split at hx
    · cases hx
      refine ⟨h1, ?_, ?_, rfl, rfl, rfl⟩
      · simpa [State.group?, h1] using h3
      · have : 1 ≤ issueCost g.slots := Nat.le_max_left _ _
        dsimp only; omega
    · cases hx
  · cases hx

theorem MidS.start {s : State} {x : Ctx} (h1 : s.wg? x.c = some x.wg) (h2 : x.wg.group? x.g = some x.grp) :
    MidS s s x x.wg [] (fun k => SMap.getD x.wg.stageQ k []) x.grp x.wg.flights false where
  world := rfl
  cores _ _ := rfl
  core := rfl
  l1 _ := rfl
  wg := h1
  mid := Mid.start h2
  flights := rfl

variable {s t : State} {x : Ctx} {w : Wg} {ws : List (Loc × Word32)} {sq : Nat → List Word32} {b : Group} {fs : List Flight} {j : Bool}

/-- A change of the core that keeps all but what the frame leaves open. -/
theorem MidS.modCore (h : MidS s t x w ws sq b fs j) (f : Core → Core) {w' : Wg} {ws' : List (Loc × Word32)} {sq' : Nat → List Word32} {b' : Group}
    {fs' : List Flight} {j' : Bool}
    (hf : f (t.core x.c) = { t.core x.c with
      ck := (f (t.core x.c)).ck, vecFree := (f (t.core x.c)).vecFree, sideFree := (f (t.core x.c)).sideFree, l1 := (f (t.core x.c)).l1, wg := some w' })
    (hl : j' = false → j = false ∧ (f (t.core x.c)).l1 = (t.core x.c).l1) (hm : Mid x w' ws' sq' b') (hfs : w'.flights = fs') :
    MidS s (t.modCore x.c f) x w' ws' sq' b' fs' j' where
  world := by rw [h.world]; rfl
  cores d hd := by rw [State.core_modCore_ne hd, h.cores d hd]
  core := by rw [State.core_modCore_self, hf, h.core]
  l1 hj := by rw [State.core_modCore_self, (hl hj).2, h.l1 (hl hj).1]
  wg := by rw [State.wg?, State.core_modCore_self, hf]
  mid := hm
  flights := hfs

theorem MidS.draw (h : MidS s t x w ws sq b fs j) : MidS s t.draw x w ws sq b fs j :=
  ⟨by rw [h.world]; rfl, h.cores, h.core, h.l1, h.wg, h.mid, h.flights⟩

theorem MidS.fresh (h : MidS s t x w ws sq b fs j) : MidS s t.fresh x w ws sq b fs j :=
  ⟨by rw [h.world]; rfl, h.cores, h.core, h.l1, h.wg, h.mid, h.flights⟩

theorem MidS.modWg (h : MidS s t x w ws sq b fs j) (f : Wg → Wg) {ws' : List (Loc × Word32)} {sq' : Nat → List Word32} {b' : Group}
    {fs' : List Flight} (hm : Mid x (f w) ws' sq' b') (hfs : (f w).flights = fs') : MidS s (t.modWg x.c f) x (f w) ws' sq' b' fs' j :=
  h.modCore _ (by have := h.wg; rw [State.wg?] at this; rw [this]; rfl) (fun hj => ⟨hj, rfl⟩) hm hfs

theorem MidS.modGroup (h : MidS s t x w ws sq b fs j) (f : Group → Group) (hf : ∀ y v, f { y with sregs := v } = { f y with sregs := v })
    (hu : (f b).uid = b.uid) : MidS s (t.modGroup x.c x.g f) x (w.modGroup x.g f) ws sq (f b) fs j :=
  h.modWg _ (h.mid.modGroup f hf hu) (by rw [Wg.modGroup]; exact h.flights)

theorem countCks_eq (w : Wg) (ck n : Nat) : ∃ hi re, Wg.countCks w ck n = { w with hist := hi, reasons := re } := by
  induction n generalizing w ck with
  | zero => exact ⟨w.hist, w.reasons, rfl⟩
  | succ n ih =>
    have h1 : ∃ hi re, w.countCk ck = { w with hist := hi, reasons := re } := by
      unfold Wg.countCk
      dsimp only
      split
      · exact ⟨_, _, rfl⟩
      · exact ⟨_, w.reasons, rfl⟩
    obtain ⟨hi, re, h1⟩ := h1
    obtain ⟨hi', re', h2⟩ := ih (w.countCk ck) (ck + 1)
    refine ⟨hi', re', ?_⟩
    rw [Wg.countCks, h2, h1]

theorem MidS.advanceTo (h : MidS s t x w ws sq b fs j) (ck : Nat) : ∃ w', MidS s (t.advanceTo x.c ck) x w' ws sq b fs j := by
  have hw : (t.core x.c).wg = some w := h.wg
  unfold State.advanceTo
  by_cases hc : (t.core x.c).ck < ck
  · obtain ⟨hi, re, e⟩ := countCks_eq w (t.core x.c).ck (ck - (t.core x.c).ck)
    refine ⟨_, h.modCore _ (w' := { w with hist := hi, reasons := re }) ?_ (fun hj => ⟨hj, ?_⟩) (h.mid.times w.flights w.lastIssue w.issues hi re) h.flights⟩
    · simp [hc, hw, e]
    · simp [hc]
  · refine ⟨_, h.modCore _ (w' := w) ?_ (fun hj => ⟨hj, ?_⟩) h.mid h.flights⟩
    · simp only [hc, ↓reduceIte, ← hw]
    · simp [hc]

/-- The group's slot once the word has been passed (R54, R126). -/
def advanced (x : Ctx) (b : Group) : Group :=
  { b.next x.lit.isSome with
    seen := x.wg.issued x.op
    notBefore := x.fin + (if x.h.stall = 15 then 1 else max x.h.stall.toNat 1)
    settle := x.h.stall = 15
    lastIssue := x.now
    wait := none }

theorem next_sregs (b : Group) (l : Bool) (v : SMap Word32) : Group.next { b with sregs := v } l = { b.next l with sregs := v } := by
  by_cases hc : b.words.length < b.wix + (if l then 2 else 1) <;> simp [Group.next, hc]

theorem next_uid (b : Group) (l : Bool) : (b.next l).uid = b.uid := by
  by_cases hc : b.words.length < b.wix + (if l then 2 else 1) <;> simp [Group.next, hc]

/-- The issue itself. -/
theorem MidS.advance (h : MidS s t x w ws sq b fs j) : ∃ w', MidS s (t.advance x) x w' ws sq (advanced x b) fs j := by
  unfold State.advance
  obtain ⟨w1, h1⟩ := h.advanceTo x.now
  have hw : ((t.advanceTo x.c x.now).core x.c).wg = some w1 := h1.wg
  have h2 : MidS s ((t.advanceTo x.c x.now).modCore x.c fun k =>
      if x.op < 0x60 then { k with vecFree := x.fin + 1 } else { k with sideFree := x.fin + 1 }) x w1 ws sq b fs j := by
    refine h1.modCore _ ?_ (fun hj => ⟨hj, ?_⟩) h1.mid h1.flights
    · split <;> rw [← hw]
    · split <;> rfl
  have h3 := h2.modWg (fun w => { w with lastIssue := x.now, issues := x.wg.issued x.op })
    (h2.mid.times w1.flights x.now (x.wg.issued x.op) w1.hist w1.reasons) h2.flights
  exact ⟨_, (h3.modGroup (advanced x) (fun y v => by simp only [advanced, next_sregs]) (by simp only [advanced, next_uid])).draw⟩

/-! ## Handles, queues, counters, results, flags -/

theorem MidS.joinDrop (h : MidS s t x w ws sq b fs j) : MidS s (t.joinDrop x.c) x w ws sq b fs true := by
  have hw : (t.core x.c).wg = some w := h.wg
  exact h.modCore _ (by simp only [Core.l1Acquire]; rw [← hw]) (fun hj => by cases hj) h.mid h.flights

theorem MidS.freeHandle (h : MidS s t x w ws sq b fs j) (n : Nat) :
    MidS s (t.freeHandle x.c x.g n) x (w.modGroup x.g fun y => { y with handles := SMap.del y.handles n }) ws sq
      { b with handles := SMap.del b.handles n } fs j :=
  h.modGroup (fun y => { y with handles := SMap.del y.handles n }) (fun _ _ => rfl) rfl

/-- The stage queues once a port has been popped. -/
def popQ (b : Group) (p : Nat) (sq : Nat → List Word32) : Nat → List Word32 :=
  fun k => if 6 ≤ p ∧ k = 2 * (b.stage - 1) + (p - 6) then (sq k).drop 1 else sq k

/-- The group once a port has been popped. -/
def popB (b : Group) (p : Nat) : Group :=
  if p < 6 then
    { b with
      ports := SMap.set b.ports p ((b.port p).drop 1)
      q2Gens := if p = 2 then b.q2Gens.drop 1 else b.q2Gens
      q2Started := if p = 3 then b.q2Started - 1 else b.q2Started }
  else b

theorem Mid.setGroup (h : Mid x w ws sq b) (f : Group → Group) (hf : ∀ y v, f { y with sregs := v } = { f y with sregs := v })
    (hu : (f b).uid = b.uid) {y : Group} (hy : w.group? x.g = some y) : Mid x (w.setGroup x.g (f y)) ws sq (f b) := by
  have : w.setGroup x.g (f y) = w.modGroup x.g f := by
    simp only [Wg.group?] at hy
    simp only [Wg.setGroup, Wg.modGroup, SMap.modify, hy]
  rw [this]
  exact h.modGroup f hf hu

theorem MidS.popPort (h : MidS s t x w ws sq b fs j) {p : Nat} (hp : p < 8) :
    ∃ w', MidS s (t.popPort x.c x.g p) x w' ws (popQ b p sq) (popB b p) fs j := by
  obtain ⟨v, hv, -⟩ := h.mid.group
  unfold State.popPort
  by_cases h6 : p = 6 ∨ p = 7
  · have h6' : 6 ≤ p := by omega
    refine ⟨_, h.modWg _ ?_ ?_⟩
    · simp only [hv, h6, ↓reduceIte]
      have hb : popB b p = b := by simp [popB]; omega
      rw [hb]
      refine { h.mid with rest := ?_, stageQ := fun k => ?_ }
      · rw [h.mid.rest]
      · simp only [SMap.getD_set, h.mid.stageQ, popQ, h6', true_and]
        split
        · next e => subst e; rfl
        · rfl
    · simp only [hv, h6, ↓reduceIte]; exact h.flights
  · have h6' : p < 6 := by omega
    refine ⟨_, h.modWg _ ?_ ?_⟩
    · simp only [hv, h6, ↓reduceIte]
      have hq : popQ b p sq = sq := by funext k; simp [popQ]; omega
      rw [hq]
      exact h.mid.setGroup (fun y => popB y p) (fun y v => by simp [popB, h6', Group.port]) (by simp [popB, h6'])
        (y := { b with sregs := v }) hv |> (by simpa [popB, h6', Group.port] using ·)
    · simp only [hv, h6, ↓reduceIte]; exact h.flights

/-- The stage queues once a value has been pushed. -/
def pushQ (b : Group) (p : Nat) (v : Word32) (sq : Nat → List Word32) : Nat → List Word32 :=
  fun k => if 6 ≤ p ∧ k = 2 * b.stage + (p - 6) then sq k ++ [v] else sq k

/-- The group once a value has been pushed. -/
def pushB (ms : Nat) (b : Group) (p : Nat) (v : Word32) : Group :=
  if p < 6 then { b with ports := SMap.set b.ports p (b.port p ++ [v]), q2Gens := if p = 2 then b.q2Gens ++ [ms] else b.q2Gens } else b

theorem MidS.pushPort (h : MidS s t x w ws sq b fs j) {p : Nat} (hp : p < 8) (a : Word32) :
    ∃ w', MidS s (t.pushPort x.c x.g p a) x w' ws (pushQ b p a sq) (pushB (t.core x.c).ms b p a) fs j := by
  obtain ⟨v, hv, -⟩ := h.mid.group
  unfold State.pushPort
  generalize (t.core x.c).ms = ms
  by_cases h6 : p = 6 ∨ p = 7
  · have h6' : 6 ≤ p := by omega
    refine ⟨_, h.modWg _ ?_ ?_⟩
    · simp only [hv, h6, ↓reduceIte]
      have hb : pushB ms b p a = b := by simp [pushB]; omega
      rw [hb]
      refine { h.mid with rest := ?_, stageQ := fun k => ?_ }
      · rw [h.mid.rest]
      · simp only [SMap.getD_set, h.mid.stageQ, pushQ, h6', true_and]
        split
        · next e => subst e; rfl
        · rfl
    · simp only [hv, h6, ↓reduceIte]; exact h.flights
  · have h6' : p < 6 := by omega
    refine ⟨_, h.modWg _ ?_ ?_⟩
    · simp only [hv, h6, ↓reduceIte]
      have hq : pushQ b p a sq = sq := by funext k; simp [pushQ]; omega
      rw [hq]
      exact h.mid.setGroup (fun y => pushB ms y p a) (fun y v => by simp [pushB, h6', Group.port]) (by simp [pushB, h6'])
        (y := { b with sregs := v }) hv |> (by simpa [pushB, h6', Group.port] using ·)
    · simp only [hv, h6, ↓reduceIte]; exact h.flights

/-- What freeing handles `hs` and popping ports `ps` makes of a group. -/
structure Taken (b b' : Group) (hs ps : List Nat) : Prop where
  rest : b'.kept = b.kept
  place : (b'.hdr, b'.wix, b'.fetched, b'.wait) = (b.hdr, b.wix, b.fetched, b.wait)
  flags : b'.flags = b.flags
  cts : b'.cts = b.cts
  handles : ∀ n, SMap.get? b'.handles n = if n ∈ hs then none else SMap.get? b.handles n
  ports : ∀ p, p < 6 → b'.port p = if p ∈ ps then (b.port p).drop 1 else b.port p

/-- What popping the ports `ps` makes of the stage queues. -/
def takenQ (stage : Nat) (ps : List Nat) (sq : Nat → List Word32) : Nat → List Word32 := fun k =>
  if (6 ∈ ps ∧ k = 2 * (stage - 1)) ∨ (7 ∈ ps ∧ k = 2 * (stage - 1) + 1) then (sq k).drop 1 else sq k

theorem srcPort_lt {o : Src} {p : Nat} (h : srcPort o = some p) : p < 8 := by
  unfold srcPort at h
  split at h
  · split at h
    · next hp => cases h; simp only [isPort, Bool.and_eq_true, decide_eq_true_eq] at hp; simp only [portNo]; omega
    · cases h
  · cases h

theorem srcPort_handle {o : Src} {n : Nat} (h : srcHandle o = some n) : srcPort o = none := by
  cases o with
  | sca f =>
    simp only [srcHandle] at h
    split at h
    · next hh =>
      simp only [isHandle, Bool.and_eq_true, decide_eq_true_eq] at hh
      have : isPort f = false := by simp only [isPort, Bool.and_eq_false_imp, decide_eq_true_eq, decide_eq_false_iff_not]; omega
      simp [srcPort, this]
    · cases h
  | _ => cases h

/-- Taking the sources: handles are freed, ports popped. -/
theorem MidS.takes (srcs : List Src) : ∀ {t : State} {w : Wg} {sq : Nat → List Word32} {b : Group} {j : Bool}, MidS s t x w ws sq b fs j →
    (srcs.filterMap srcPort).Nodup →
    ∃ w' b' j', MidS s (srcs.foldl (fun s o => s.takeSrc x o) t) x w' ws (takenQ b.stage (srcs.filterMap srcPort) sq) b' fs j' ∧
      Taken b b' (srcs.filterMap srcHandle) (srcs.filterMap srcPort) ∧
      (j = false → srcs.filterMap srcHandle = [] → 3 ∉ srcs.filterMap srcPort → j' = false) := by
  induction srcs with
  | nil =>
    intro t w sq b j h _
    refine ⟨w, b, j, ?_, ⟨rfl, rfl, rfl, rfl, fun n => by simp, fun p _ => by simp⟩, fun hj _ _ => hj⟩
    have : takenQ b.stage [] sq = sq := by funext k; simp [takenQ]
    simpa [this] using h
  | cons o srcs ih =>
    intro t w sq b j h hnd
    rw [List.foldl_cons]
    have htake : t.takeSrc x o = match srcHandle o with
      | some n => (t.freeHandle x.c x.g n).joinDrop x.c
      | none =>
        match srcPort o with
        | some p => if p = 3 then (t.popPort x.c x.g p).joinDrop x.c else t.popPort x.c x.g p
        | none => t := rfl
    rw [htake]
    cases ho : srcHandle o with
    | some n =>
      have hp := srcPort_handle ho
      simp only [List.filterMap_cons, ho, hp] at hnd ⊢
      obtain ⟨w', b', j', h1, h2, h3⟩ := ih ((h.freeHandle n).joinDrop) hnd
      refine ⟨w', b', j', h1, ⟨h2.rest, h2.place, h2.flags, h2.cts, fun m => ?_, h2.ports⟩, fun _ hh => by cases hh⟩
      · rw [h2.handles, SMap.get?_del]
        by_cases e : m = n <;> simp [e]
    | none =>
      cases hp : srcPort o with
      | none =>
        simp only [List.filterMap_cons, ho, hp] at hnd ⊢
        exact ih h hnd
      | some p =>
        simp only [List.filterMap_cons, ho, hp, List.nodup_cons] at hnd ⊢
        obtain ⟨w1, h1⟩ := h.popPort (srcPort_lt hp)
        have hst : (popB b p).stage = b.stage := by unfold popB; split <;> rfl
        have key : ∀ {t' : State} {j1 : Bool}, MidS s t' x w1 ws (popQ b p sq) (popB b p) fs j1 → (j = false → p ≠ 3 → j1 = false) →
            ∃ w' b' j', MidS s (srcs.foldl (fun s o => s.takeSrc x o) t') x w' ws (takenQ b.stage (p :: srcs.filterMap srcPort) sq) b' fs j' ∧
              Taken b b' (srcs.filterMap srcHandle) (p :: srcs.filterMap srcPort) ∧
              (j = false → srcs.filterMap srcHandle = [] → 3 ∉ p :: srcs.filterMap srcPort → j' = false) := by
          intro t' j1 h2 hj1
          obtain ⟨w', b', j', h3, h4, h5⟩ := ih h2 hnd.2
          refine ⟨w', b', j', ?_, ⟨?_, ?_, ?_, ?_, fun n => ?_, fun q hq => ?_⟩, fun e0 e1 e2 =>
            h5 (hj1 e0 fun e => e2 (by simp [e])) e1 (fun e => e2 (by simp [e]))⟩
          · have : takenQ (popB b p).stage (srcs.filterMap srcPort) (popQ b p sq) = takenQ b.stage (p :: srcs.filterMap srcPort) sq := by
              funext k
              have hp8 := srcPort_lt hp
              have hn6 : p = 6 → 6 ∉ srcs.filterMap srcPort := fun e => e ▸ hnd.1
              have hn7 : p = 7 → 7 ∉ srcs.filterMap srcPort := fun e => e ▸ hnd.1
              simp only [takenQ, popQ, hst, List.mem_cons]
              by_cases e6 : p = 6
              · subst e6
                have := hn6 rfl
                by_cases k6 : k = 2 * (b.stage - 1)
                · have : ¬ k = 2 * (b.stage - 1) + 1 := by omega
                  simp_all
                · simp_all
              · by_cases e7 : p = 7
                · subst e7
                  have := hn7 rfl
                  by_cases k7 : k = 2 * (b.stage - 1) + 1
                  · have : ¬ k = 2 * (b.stage - 1) := by omega
                    simp_all
                  · simp_all
                · have e6' : ¬ 6 = p := fun e => e6 e.symm
                  have e7' : ¬ 7 = p := fun e => e7 e.symm
                  have : ¬ (6 ≤ p ∧ k = 2 * (b.stage - 1) + (p - 6)) := by omega
                  simp [e6', e7', this]
            rw [← this]; exact h3
          · rw [h4.rest]; unfold popB; split <;> rfl
          · rw [h4.place]; unfold popB; split <;> rfl
          · rw [h4.flags]; unfold popB; split <;> rfl
          · rw [h4.cts]; unfold popB; split <;> rfl
          · rw [h4.handles]
            have : (popB b p).handles = b.handles := by unfold popB; split <;> rfl
            rw [this]
          · rw [h4.ports q hq]
            have hq1 : (popB b p).port q = if q = p then (b.port p).drop 1 else b.port q := by
              unfold popB
              by_cases e : p < 6
              · simp only [e, ↓reduceIte, Group.port, SMap.getD_set]
              · have : ¬ q = p := by omega
                simp [e, this]
            rw [hq1]
            by_cases e : q = p
            · subst e; simp [hnd.1]
            · simp [e]
        by_cases h3 : p = 3
        · subst h3
          obtain ⟨w', b', j', a1, a2, a3⟩ := key (h1.joinDrop) (fun _ e => absurd rfl e)
          exact ⟨w', b', j', by simpa using a1, a2, a3⟩
        · obtain ⟨w', b', j', a1, a2, a3⟩ := key h1 (fun e _ => e)
          exact ⟨w', b', j', by simpa [h3] using a1, a2, a3⟩

/-- The group once the word's counter has gone up (R128). -/
def counted (x : Ctx) (b : Group) : Group :=
  if x.h.ct = 0 then b else { b with cts := SMap.set b.cts x.h.ct.toNat (b.ct x.h.ct.toNat + 1) }

theorem MidS.incCt (h : MidS s t x w ws sq b fs j) : ∃ w', MidS s (t.incCt x) x w' ws sq (counted x b) fs j := by
  unfold State.incCt counted
  by_cases hc : x.h.ct = 0
  · exact ⟨w, by simpa [hc] using h⟩
  · simp only [hc, ↓reduceIte]
    exact ⟨_, h.modGroup (fun y => { y with cts := SMap.set y.cts x.h.ct.toNat (y.ct x.h.ct.toNat + 1) }) (fun _ _ => rfl) rfl⟩

/-- No write that completes later than `due` is outstanding at a place that is to be written. -/
def QuietAt (fs : List Flight) (due : Nat) (ps : List (Loc × Word32)) : Prop :=
  ∀ p ∈ ps, ∀ f ∈ fs, f.var = false → due < f.due → f.val? p.1 = none

theorem Quiet.at {ps : List (Loc × Word32)} (h : Quiet x ps) {due : Nat} (hd : x.now ≤ due) : QuietAt x.wg.flights due ps := by
  intro p hp f hf hv hdue
  have := h p hp
  simp only [Wg.busyAt, Bool.or_eq_false_iff, List.any_eq_false] at this
  have h2 := this.2 f hf
  rw [Bool.not_eq_true, Bool.and_eq_false_iff] at h2
  rcases h2 with h2 | h2
  · simp only [Flight.openAt, hv, Bool.false_and, Bool.false_or, decide_eq_false_iff_not] at h2; omega
  · simp only [Flight.val?, Option.map_eq_none_iff, List.find?_eq_none]
    simpa only [List.any_eq_false] using h2

theorem MidS.commit (h : MidS s t x w ws sq b fs j) (lat : Nat) (var : Bool) {ps : List (Loc × Word32)} (hq : QuietAt fs (x.fin + lat) ps)
    (hok : ∀ p ∈ ps, p.1.ok) (hsc : ∀ p ∈ ps, ∀ u r, p.1 = .sca u r → u = x.grp.uid) :
    ∃ w' fs', MidS s (t.commit x lat var ps) x w' (ws ++ ps) sq (counted x b) fs' j := by
  obtain ⟨w1, h1⟩ := h.incCt
  have hm := h1.mid.setLocs ps hok hsc
  rw [← writeLoc_quiet x.now (x.fin + lat) ps w1 [] (by rw [h1.flights]; exact hq)] at hm
  unfold State.commit
  exact ⟨_, _, (h1.modWg _ (hm.times _ _ _ _ _) rfl).fresh⟩

theorem MidS.orFlags (h : MidS s t x w ws sq b fs j) (f : Word32) :
    ∃ w', MidS s (t.orFlags x f) x w' ws sq { b with flags := b.flags ||| f } fs j :=
  ⟨_, h.modGroup (fun y => { y with flags := y.flags ||| f }) (fun _ _ => rfl) rfl⟩

/-! ## The whole word -/

theorem next_fields (b : Group) (l : Bool) : (b.next l).kept = b.kept ∧ (b.next l).flags = b.flags ∧ (b.next l).cts = b.cts ∧
    (b.next l).handles = b.handles ∧ (b.next l).ports = b.ports := by
  by_cases hc : b.words.length < b.wix + (if l then 2 else 1) <;> simp [Group.next, hc, Group.kept]

theorem pushB_fields (ms : Nat) (b : Group) (p : Nat) (v : Word32) : (pushB ms b p v).kept = b.kept ∧ (pushB ms b p v).flags = b.flags ∧ (pushB ms b p v).cts = b.cts ∧
    (pushB ms b p v).handles = b.handles ∧ ((pushB ms b p v).hdr, (pushB ms b p v).wix, (pushB ms b p v).fetched, (pushB ms b p v).wait) =
      (b.hdr, b.wix, b.fetched, b.wait) := by
  unfold pushB; split <;> exact ⟨rfl, rfl, rfl, rfl, rfl⟩

theorem counted_fields (x : Ctx) (b : Group) : (counted x b).kept = b.kept ∧ (counted x b).flags = b.flags ∧ (counted x b).ports = b.ports ∧
    (counted x b).handles = b.handles ∧ ((counted x b).hdr, (counted x b).wix, (counted x b).fetched, (counted x b).wait) =
      (b.hdr, b.wix, b.fetched, b.wait) := by
  unfold counted; split <;> exact ⟨rfl, rfl, rfl, rfl, rfl⟩

/-- The group once a value has been pushed, or none. -/
def pushed (ms : Nat) (b : Group) : Option (Nat × Word32) → Group
  | some q => pushB ms b q.1 q.2
  | none => b

theorem pushed_fields (ms : Nat) (b : Group) (p : Option (Nat × Word32)) : (pushed ms b p).kept = b.kept ∧ (pushed ms b p).flags = b.flags ∧ (pushed ms b p).cts = b.cts ∧
    (pushed ms b p).handles = b.handles ∧ ((pushed ms b p).hdr, (pushed ms b p).wix, (pushed ms b p).fetched, (pushed ms b p).wait) =
      (b.hdr, b.wix, b.fetched, b.wait) := by
  cases p with
  | none => exact ⟨rfl, rfl, rfl, rfl, rfl⟩
  | some q => exact pushB_fields ms b q.1 q.2

/-- The group's slot at the end of a word, from what the parts have made of it. -/
theorem groupAfter_of {ms : Nat} {b1 : Group} {srcs : List Src} {fl : Word32} {push : Option (Nat × Word32)} {v : SMap Word32}
    (h1 : Taken (advanced x x.grp) b1 (frees x srcs) (pops x srcs))
    (hv : ∀ r, SMap.getD v r 0 = (written ws (.sca x.grp.uid r)).getD (x.grp.sreg r)) :
    GroupAfter x { counted x (pushed ms b1 push) with flags := (counted x (pushed ms b1 push)).flags ||| fl, sregs := v } ws fl srcs push := by
  obtain ⟨n1, n2, n3, n4, n5⟩ := next_fields x.grp x.lit.isSome
  obtain ⟨p1, p2, p3, p4, p5⟩ := pushed_fields ms b1 push
  obtain ⟨c1, c2, c3, c4, c5⟩ := counted_fields x (pushed ms b1 push)
  have a1 : (advanced x x.grp).kept = x.grp.kept := n1
  have e := h1.place
  refine ⟨?_, ?_, ?_, hv, ?_, fun n hn => ?_, fun n => ?_, fun p hp => ?_⟩
  · exact c1.trans (p1.trans (h1.rest.trans a1))
  · simp only [Prod.mk.injEq] at c5 p5 e
    exact c5.2.2.2.trans (p5.2.2.2.trans e.2.2.2)
  · simp only [Prod.mk.injEq] at c5 p5 e ⊢
    exact ⟨c5.1.trans (p5.1.trans e.1), c5.2.1.trans (p5.2.1.trans e.2.1), c5.2.2.1.trans (p5.2.2.1.trans e.2.2.1)⟩
  · show (counted x (pushed ms b1 push)).flags ||| fl = _
    rw [c2, p2, h1.flags]; exact congrArg (· ||| fl) n2
  · have hb : (pushed ms b1 push).cts = x.grp.cts := p3.trans (h1.cts.trans n3)
    show SMap.getD (counted x (pushed ms b1 push)).cts n 0 = _
    unfold counted
    by_cases h0 : x.h.ct = 0
    · have : ¬ n = 0 := hn
      simp [h0, hb, this, Group.ct]
    · simp only [h0, ↓reduceIte, SMap.getD_set, hb, Group.ct]
      split
      · next e => subst e; rfl
      · rfl
  · show SMap.get? (counted x (pushed ms b1 push)).handles n = _
    rw [c4, p4, h1.handles]
    have : (advanced x x.grp).handles = x.grp.handles := n4
    rw [this]
  · have h0 : (advanced x x.grp).port p = x.grp.port p := by
      show SMap.getD (x.grp.next x.lit.isSome).ports p [] = _; rw [n5]; rfl
    have hb1 := h1.ports p hp
    rw [h0] at hb1
    show SMap.getD (counted x (pushed ms b1 push)).ports p [] = _
    rw [c3]
    cases push with
    | none => simpa [Group.port, pushed] using hb1
    | some q =>
      simp only [pushed, pushB]
      by_cases e6 : q.1 < 6
      · simp only [e6, ↓reduceIte, SMap.getD_set]
        by_cases e : q.1 = p
        · subst e; simp [hb1]
        · have e' : ¬ p = q.1 := fun h => e h.symm
          simpa [e, e', Group.port] using hb1
      · have e : ¬ q.1 = p := by omega
        simpa [e6, e, Group.port] using hb1

/-- A push, or none. -/
def Machine.State.pushOpt (s : State) (c g : Nat) : Option (Nat × Word32) → State
  | some q => s.pushPort c g q.1 q.2
  | none => s

theorem MidS.consume (h : MidS s t x w ws sq b fs false) {srcs : List Src} (hnd : (srcs.filterMap srcPort).Nodup) :
    ∃ w' b' j', MidS s (t.consume x srcs) x w' ws (takenQ b.stage (pops x srcs) sq) b' fs j' ∧ Taken b b' (frees x srcs) (pops x srcs) ∧
      (frees x srcs = [] → 3 ∉ pops x srcs → j' = false) := by
  unfold State.consume pops frees
  cases hx : x.ex.isEmpty with
  | true =>
    refine ⟨w, b, false, ?_, ⟨rfl, rfl, rfl, rfl, fun n => by simp, fun p _ => by simp⟩, fun _ _ => rfl⟩
    have : takenQ b.stage [] sq = sq := by funext k; simp [takenQ]
    simpa [this] using h
  | false =>
    obtain ⟨w', b', j', h1, h2, h3⟩ := h.takes srcs hnd
    exact ⟨w', b', j', by simpa using h1, by simpa using h2, by simpa using h3⟩

theorem MidS.pushOpt (h : MidS s t x w ws sq b fs j) (push : Option (Nat × Word32)) (hp : ∀ q, push = some q → q.1 < 8) :
    ∃ w', MidS s (t.pushOpt x.c x.g push) x w' ws (match push with | some q => pushQ b q.1 q.2 sq | none => sq) (pushed (t.core x.c).ms b push) fs j := by
  cases push with
  | none => exact ⟨w, h⟩
  | some q => exact h.pushPort (hp q rfl) q.2

/-- The end of every word that writes registers: from what `ctx?` found, after the issue, the taking of the sources, a push, the results and the flags,
the module is as `After` says. -/
theorem word_after (hw : s.wg? x.c = some x.wg) (hg : x.wg.group? x.g = some x.grp) (hfin : x.now ≤ x.fin) {srcs : List Src}
    (hnd : (srcs.filterMap srcPort).Nodup) {push : Option (Nat × Word32)} (hp : ∀ q, push = some q → q.1 < 8) {ps : List (Loc × Word32)}
    (hq : Quiet x ps) (hok : ∀ p ∈ ps, p.1.ok) (hsc : ∀ p ∈ ps, ∀ u r, p.1 = .sca u r → u = x.grp.uid) (lat : Nat) (var : Bool) (fl : Word32) :
    After s (((((s.advance x).consume x srcs).pushOpt x.c x.g push).commit x lat var ps).orFlags x fl) x ps fl srcs push := by
  obtain ⟨w1, h1⟩ := (MidS.start hw hg).advance
  obtain ⟨w2, b2, j2, h2, ht, hj⟩ := h1.consume hnd
  obtain ⟨w3, h3⟩ := h2.pushOpt push hp
  obtain ⟨w4, fs4, h4⟩ := h3.commit lat var (hq.at (Nat.le_add_right_of_le hfin)) hok hsc
  obtain ⟨w5, h5⟩ := h4.orFlags fl
  have hst : (advanced x x.grp).stage = x.grp.stage := by
    have := congrArg Group.stage (next_fields x.grp x.lit.isSome).1; exact this
  have hst2 : b2.stage = x.grp.stage := by
    have := congrArg Group.stage ht.rest; exact Eq.trans this hst
  refine ⟨h5.world, h5.cores, h5.core, fun e1 e2 => ?_, w5, h5.wg, h5.mid.rest, h5.mid.parked, ?_, h5.mid.threads, ?_, ?_, h5.mid.others, fun k => ?_⟩
  · exact h5.l1 (hj e1 e2)
  · simpa using h5.mid.vregs
  · simpa using h5.mid.preds
  · obtain ⟨v, e1, e2⟩ := h5.mid.group
    exact ⟨_, e1, groupAfter_of ht (by simpa using e2)⟩
  · rw [h5.mid.stageQ]
    cases push with
    | none => simp [takenQ, hst]
    | some q =>
      simp only [takenQ, pushQ, hst, hst2]
      split <;> simp

/-! ## Completion of the words of the vector row -/

theorem twice_nodup {ps : List Nat} (h : twice ps = false) : ps.Nodup := by
  induction ps with
  | nil => exact List.nodup_nil
  | cons p ps ih =>
    simp only [twice, Bool.or_eq_false_iff] at h
    exact List.nodup_cons.2 ⟨by simpa using h.1, ih h.2⟩

/-- R425: with no poison in a register file no register that a word reads is poisoned. -/
theorem badReg_sound {s : State} {x : Ctx} (h : s.regsSound = true) (l : Loc) : s.badReg x l = false := by
  have key : ∀ k n, 2 ^ 62 ≤ k → s.isPoisoned k n = false := by
    intro k n hk
    unfold State.isPoisoned
    rw [List.any_eq_false]
    intro u hu hh
    have := List.all_eq_true.1 h u hu
    simp only [Bool.and_eq_true, decide_eq_true_eq] at hh this
    omega
  cases l with
  | vec slot r => exact key _ _ (by unfold vregUnitKey; omega)
  | sca u r => simp only [State.badReg, key _ _ (show 2 ^ 62 ≤ sregUnitKey x.c x.g r by unfold sregUnitKey; omega), Bool.and_false]
  | pred slot p => rfl

/-- A word whose frame passes has the effect of its own. -/
theorem word_eff {s : State} {h : Head} {op : Nat} {lit : Lit} {x : Ctx} {illegal : Ctx → Bool} {reads writes : Ctx → List Loc} {eff : Ctx → State → Res}
    (hi : Issues s h op lit x) (hl : illegal x = false) (hc : Checked x (reads x ++ writes x)) :
    word s h op lit illegal reads writes eff = match eff x s with
      | .done s' => .next s'
      | .exc code aux => .next (s.raisePrecise x code (if aux = 0 then laneMask x.ex % 2 ^ 32 else aux))
      | .after s' code => .next (s'.raise x.c ⟨code, 0, x.g, laneMask x.ex % 2 ^ 32, x.pc⟩ (laneMask x.ex))
      | .wait w => .next (s.setWait x.c x.g (some w))
      | .hold s' w => .next (s'.setWait x.c x.g (some w))
      | .raised s' => .next s' := by
  obtain ⟨h1, h2, h3, h4⟩ := hi
  have c3 : (reads x).any (s.badReg x) = false := List.any_eq_false.2 fun l _ => by simp [badReg_sound h4 l]
  have hh : x.h = h := (ctx?_some h1).2.2.2.1
  have c1 : (x.h.ct != 0 && decide (31 ≤ x.grp.ct x.h.ct.toNat)) = false := by
    rw [hh]
    rcases h3 with h3 | h3
    · simp [h3]
    · have : ¬ 31 ≤ x.grp.ct h.ct.toNat := by omega
      simp [this]
  have c2 : (x.r.chk && !x.ex.isEmpty && ((reads x).any (x.wg.busyAt x.now) || (writes x).any (x.wg.busyAt x.now))) = false := by
    rcases hc with hc | hc | hc
    · simp [hc]
    · simp [hc]
    · rw [List.any_append] at hc; simp [hc]
  have c0 : x.grp.holdOp.isSome = false := by simp [h2]
  unfold word
  simp only [h1, c0, hl, c1, c2, c3, Bool.and_false, Bool.false_eq_true, ↓reduceIte] <;> rfl

theorem ctx?_free {s : State} {h : Head} {op : Nat} {lit : Lit} {x : Ctx} (hx : s.ctx? h op lit = some x) :
    s.wg? x.c = some x.wg ∧ x.wg.group? x.g = some x.grp ∧ x.now ≤ x.fin := ⟨(ctx?_some hx).1, (ctx?_some hx).2.1, (ctx?_some hx).2.2.1⟩

theorem splitWide_length (n : Nat) (v : Word64) : (splitWide n v).length ≤ 2 := by unfold splitWide; split <;> simp

theorem dstWrites_sca {x : Ctx} {n : Nat} {d : Dst} {f : Nat → Word64} : ∀ p ∈ dstWrites x n d f, ∀ u r, p.1 = .sca u r → u = x.grp.uid := by
  intro p hp u r he
  unfold dstWrites at hp
  split at hp
  · split at hp
    · simp at hp
    · obtain ⟨q, -, rfl⟩ := List.mem_map.1 hp
      cases he; rfl
  · obtain ⟨l, -, hl⟩ := List.mem_flatMap.1 hp
    obtain ⟨q, -, rfl⟩ := List.mem_map.1 hl
    cases he

theorem dstWrites_ok {x : Ctx} {n : Nat} {d : Dst} {f : Nat → Word64} (hn : n = 1 ∨ n = 2) (hd : dstOk x n d = true) :
    ∀ p ∈ dstWrites x n d f, p.1.ok := by
  intro p hp
  unfold dstWrites at hp
  split at hp
  · split at hp
    · simp at hp
    · obtain ⟨q, -, rfl⟩ := List.mem_map.1 hp
      trivial
  · next hs =>
    obtain ⟨l, -, hl⟩ := List.mem_flatMap.1 hp
    obtain ⟨q, hq, rfl⟩ := List.mem_map.1 hl
    have h1 := (List.of_mem_zip hq).1
    rw [List.mem_range] at h1
    simp only [dstOk, hs, Bool.false_eq_true, ↓reduceIte, vecOk, Bool.and_eq_true, beq_iff_eq] at hd
    have := d.f.isLt
    show d.f.toNat + q.1 < 256
    rcases hn with rfl | rfl <;> omega

theorem dstPort_lt {d : Dst} {p : Nat} (h : dstPort d = some p) : p < 8 := by
  unfold dstPort at h
  split at h
  · next hh =>
    cases h
    simp only [isPort, Bool.and_eq_true, decide_eq_true_eq] at hh
    simp only [portNo]; omega
  · cases h

theorem pushOf_lt {x : Ctx} {d : Dst} {v : Word64} : ∀ q, pushOf x d v = some q → q.1 < 8 := by
  intro q hq
  unfold pushOf at hq
  obtain ⟨p, h1, h2⟩ := Option.bind_eq_some_iff.1 hq
  split at h2
  · cases h2
  · cases h2; exact dstPort_lt h1

/-- The flags of a word of the vector row. -/
def aluFlags (s : State) (x : Ctx) (k : Alu) (d : Dst) (srcs : List Src) : Fl := Fl.all ((workSlots x d).map fun t => (aluVal s x k srcs t).2)

/-- The results of a word of the vector row. -/
def aluResults (s : State) (x : Ctx) (k : Alu) (d : Dst) (srcs : List Src) : List (Loc × Word32) :=
  results x k.n d fun t => (aluVal s x k srcs (if d.sca then (x.ex.map (·.2)).headD 0 else t)).1

theorem aluEff_after {s : State} {x : Ctx} {k : Alu} {d : Dst} {srcs : List Src}
    (hx : s.wg? x.c = some x.wg ∧ x.wg.group? x.g = some x.grp ∧ x.now ≤ x.fin) (hn : k.n = 1 ∨ k.n = 2) (hd : dstOk x k.n d = true)
    (htw : twice (portsOf (some d) srcs) = false) (hwait : operandWait x (some d) srcs = none)
    (hq : Quiet x (aluResults s x k d srcs)) (htrap : trapped (aluFlags s x k d srcs).word x.r.tmask = false) :
    ∃ t, aluEff k d srcs x s = .done t ∧
      After s t x (aluResults s x k d srcs) (aluFlags s x k d srcs).word srcs (pushOf x d (aluVal s x k srcs 0).1) := by
  have hnd : (srcs.filterMap srcPort).Nodup := by
    have := twice_nodup htw
    unfold portsOf at this
    exact (List.nodup_append.1 this).2.1
  have key := fun ps hq hok hsc => word_after hx.1 hx.2.1 hx.2.2 hnd (push := pushOf x d (aluVal s x k srcs 0).1) pushOf_lt (ps := ps) hq hok hsc k.lat
    (isVariable srcs) (aluFlags s x k d srcs).word
  have hok : ∀ p ∈ aluResults s x k d srcs, p.1.ok := by
    intro p hp; unfold aluResults results at hp; split at hp
    · simp at hp
    · exact dstWrites_ok hn hd p hp
  have hsc : ∀ p ∈ aluResults s x k d srcs, ∀ u r, p.1 = .sca u r → u = x.grp.uid := by
    intro p hp; unfold aluResults results at hp; split at hp
    · simp at hp
    · exact dstWrites_sca p hp
  have hfin := key _ hq hok hsc
  refine ⟨_, ?_, hfin⟩
  unfold aluEff
  simp only [hwait]
  cases hp : dstPort d with
  | none =>
    have e1 : pushOf x d (aluVal s x k srcs 0).1 = none := by simp [pushOf, hp]
    simp only [finish, e1, State.pushOpt]
    have e2 : (aluFlags s x k d srcs) = Fl.all ((workSlots x d).map fun t => (aluVal s x k srcs t).2) := rfl
    rw [← e2, htrap]
    simp [aluResults, results, hp]
  | some p =>
    have e2 : (aluFlags s x k d srcs) = Fl.all ((workSlots x d).map fun t => (aluVal s x k srcs t).2) := rfl
    simp only [finish, ← e2, htrap, Bool.false_eq_true, ↓reduceIte, Res.done.injEq]
    have e3 : aluResults s x k d srcs = [] := by simp [aluResults, results, hp]
    rw [e3]
    by_cases hx : x.ex.isEmpty
    · simp [pushOf, hp, hx, State.pushOpt]
    · simp [pushOf, hp, hx, State.pushOpt, lo32]

/-- A word of the vector row completes: its operands are legal, none of its sources or its destination queue holds it up, and no flag it raises traps. -/
theorem alu_completes {s : State} {h : Head} {op : Nat} {lit : Lit} {x : Ctx} {k : Alu} {d : Dst} {srcs : List Src} (hi : Issues s h op lit x)
    (hn : k.n = 1 ∨ k.n = 2) (hl : aluIllegal x k d srcs = false) (hc : Checked x (aluReads x k srcs ++ dstLocs x k.n d))
    (hwait : operandWait x (some d) srcs = none) (hq : Quiet x (aluResults s x k d srcs))
    (htrap : trapped (aluFlags s x k d srcs).word x.r.tmask = false) :
    ∃ t, alu s h op lit k d srcs = .next t ∧
      After s t x (aluResults s x k d srcs) (aluFlags s x k d srcs).word srcs (pushOf x d (aluVal s x k srcs 0).1) := by
  have hl' := hl
  simp only [aluIllegal, Bool.or_eq_false_iff, Bool.not_eq_false'] at hl'
  obtain ⟨t, h1, h2⟩ := aluEff_after (ctx?_free hi.1) hn hl'.1.1.1.1 hl'.2 hwait hq htrap
  refine ⟨t, ?_, h2⟩
  unfold alu
  rw [word_eff hi hl hc, h1]

/-- The same for a word whose result depends on the issue. -/
theorem aluGen_completes {s : State} {h : Head} {op : Nat} {lit : Lit} {x : Ctx} {k : Ctx → Alu} {illegal : Ctx → Bool} {more : Ctx → List Loc} {d : Dst}
    {srcs : List Src} (hi : Issues s h op lit x) (hn : (k x).n = 1 ∨ (k x).n = 2) (hl : illegal x = false) (hd : dstOk x (k x).n d = true)
    (htw : twice (portsOf (some d) srcs) = false) (hc : Checked x (aluReads x (k x) srcs ++ more x ++ dstLocs x (k x).n d))
    (hwait : operandWait x (some d) srcs = none) (hq : Quiet x (aluResults s x (k x) d srcs))
    (htrap : trapped (aluFlags s x (k x) d srcs).word x.r.tmask = false) :
    ∃ t, aluGen s h op lit k illegal more d srcs = .next t ∧
      After s t x (aluResults s x (k x) d srcs) (aluFlags s x (k x) d srcs).word srcs (pushOf x d (aluVal s x (k x) srcs 0).1) := by
  obtain ⟨t, h1, h2⟩ := aluEff_after (ctx?_free hi.1) hn hd htw hwait hq htrap
  refine ⟨t, ?_, h2⟩
  unfold aluGen
  rw [word_eff hi hl hc, h1]

/-- The results and flags of a word whose lanes each write. -/
def laneResults (s : State) (x : Ctx) (k : Lanes) : List (Loc × Word32) := (x.ex.map fun l => k.f s x l).flatMap (·.1)
def laneFlags (s : State) (x : Ctx) (k : Lanes) : Fl := Fl.all ((x.ex.map fun l => k.f s x l).map (·.2))

/-- A word whose executing lanes each write completes. -/
theorem laneWord_completes {s : State} {h : Head} {op : Nat} {lit : Lit} {x : Ctx} {k : Lanes} (hi : Issues s h op lit x)
    (hl : lanesIllegal x k = false) (hc : Checked x (lanesReads x k ++ k.writes x)) (hwait : operandWait x none (k.srcs.map (·.2)) = none)
    (hok : ∀ p ∈ laneResults s x k, p.1.ok) (hsc : ∀ p ∈ laneResults s x k, ∀ u r, p.1 = .sca u r → u = x.grp.uid)
    (hq : Quiet x (laneResults s x k)) (htrap : trapped (laneFlags s x k).word x.r.tmask = false) :
    ∃ t, laneWord s h op lit k = .next t ∧ After s t x (laneResults s x k) (laneFlags s x k).word (k.srcs.map (·.2)) none := by
  obtain ⟨hx1, hx2, hx3⟩ := ctx?_free hi.1
  have hl' := hl
  simp only [lanesIllegal, Bool.or_eq_false_iff] at hl'
  have hnd : ((k.srcs.map (·.2)).filterMap srcPort).Nodup := by simpa [portsOf] using twice_nodup hl'.2
  have hfin := word_after hx1 hx2 hx3 hnd (push := none) (fun _ e => by cases e) hq hok hsc k.lat (isVariable (k.srcs.map (·.2))) (laneFlags s x k).word
  refine ⟨_, ?_, hfin⟩
  unfold laneWord
  rw [word_eff hi hl hc]
  have e2 : laneFlags s x k = Fl.all ((x.ex.map fun l => k.f s x l).map (·.2)) := rfl
  simp only [lanesEff, hwait, finish, ← e2, htrap, Bool.false_eq_true, ↓reduceIte, State.pushOpt, laneResults]

end Sys2Proof
end

