-- ==== Sys2Proof/Machine/Events.lean ====
section
/-! DEFINITION. The events of a run (R262 to R264): what its words, its engine operations and its peers add to a program of the consistency model. Writes of the host to its own
memory, and the tokens of launches (R284, R285), are not collected (log entry 97). -/

namespace Sys2Proof.Machine

open Sys2Proof

/-! ## Agents and locations -/

/-- R264: a thread, by its launch, its generation and its number. -/
def Wg.threadKey (w : Wg) (th : Thread) : Nat := (w.launch * 2 ^ 32 + w.gen.toNat) * 2 ^ 32 + th.tid.toNat

/-- The threads of the lanes of a group that a mask names. -/
def Wg.threadsAt (w : Wg) (slots : List Nat) (mask : Nat) : List Nat :=
  ((List.range slots.length).zip slots).filterMap fun l => if mask / 2 ^ l.1 % 2 = 1 then (SMap.get? w.threads l.2).map w.threadKey else none

/-- R265: where a workgroup on a core stands. -/
def State.seatOf (s : State) (c : Nat) (w : Wg) : Seat := ⟨s.devNum.toNat, false, dieOf c, w.launch, w.gang, w.wgno⟩

/-- R263: the locations of bytes that lie one after another. -/
def State.sites (s : State) (asid : Nat) (w : Wg) (p : Space × Nat) (n : Nat) : List Site :=
  (List.range n).map fun i =>
    let a := p.2 + i
    match p.1 with
    | .priv slot => .priv w.launch (((SMap.get? w.threads slot).map w.threadKey).getD 0) a
    | .scratch r =>
      let v := ((s.rankNo w.launch w.gang r).bind (s.owner? w.launch)).getD w
      (match v.subs.find? fun q => decide (q.2.off ≤ a) && decide (a < q.2.off + q.2.len) with
      | some (k, u) => .replica w.launch v.wgno k (a - u.off)
      | none => .scratch w.launch v.wgno a)
    | _ => .global asid a

/-- An event of threads of a workgroup, with no access yet. -/
def State.eventOf (s : State) (c : Nat) (w : Wg) (ts : List Nat) (a : Act) : Event :=
  { act := a, seat := s.seatOf c w, threads := ts, eng := none, elem := 0, stamp := false, reads := [], writes := [], whole := true, scope := .none, acq := false,
    rel := false, chan := none, meet := none, peer := false }

/-! ## How a write comes by its bytes -/

/-- The bytes that an event writes: given ones; those that another event reads; what an access leaves of those that it reads itself (R230). -/
inductive How where
  | bytes (bs : List Byte) | copied (from_ : Nat) (sites : List Site) | access (aop : AOp) (bytes data cmp : Nat) (sites : List Site)
deriving DecidableEq, Repr

/-- The byte that an event leaves at its `i`th location, given what every event reads. -/
def How.byte (h : How) (out : Nat → Site → Byte) (n i : Nat) : Byte :=
  match h with
  | .bytes bs => bs.getD i 0
  | .copied r xs => match xs[i]? with | some x => out r x | none => 0
  | .access a b d c xs => BitVec.ofNat 8 ((homeValue a b (bytesToNat (xs.map (out n))) d c).1 / 2 ^ (8 * i))

/-- A run so far: the program of its events, how each writes, the operations of channels by their events, and the pending DRAINs with what they cover. -/
structure Trace where
  events : List Event
  hows : List How
  forks : List (Nat × Nat)
  joins : List (Nat × Nat)
  drains : List (List Nat × Nat)
  deps : List (Nat × Nat)
  replicas : List Mirror
  chans : List (Nat × Nat)
  covers : List (Nat × List Nat)
deriving Repr

def Trace.empty : Trace := ⟨[], [], [], [], [], [], [], [], []⟩

/-- The program of a run, with the values at launch start. -/
def Trace.program (r : Trace) (init : Site → Byte) : Program :=
  { events := r.events, forks := r.forks, joins := r.joins, drains := r.drains, tokens := [], starts := [], deps := r.deps, replicas := r.replicas, init := init
    result := fun out n x => match r.events[n]?, r.hows[n]? with
      | some e, some h => h.byte out n (e.writes.idxOf x)
      | _, _ => 0 }

/-- One event more. -/
def Trace.add (r : Trace) (e : Event) (h : How) : Trace :=
  { r with events := r.events ++ [e], hows := r.hows ++ [h], deps := r.deps ++ (match h with | .copied k _ => [(k, r.events.length)] | _ => []) }
def Trace.addAll (r : Trace) (es : List (Event × How)) : Trace := es.foldl (fun r e => r.add e.1 e.2) r

/-! ## Memory words (R262) -/

/-- R262: each executing lane of a memory word is one event, and a word that executes once for the group is one of all its threads. Constant-bank and LD.nc reads create no
ordering edge, and are none. -/
def State.laneEvent (s : State) (c : Nat) (w : Wg) (o : MemOp) (l : LaneAcc) : Option (Event × How) :=
  let slots := ((w.groupByUid o.uid).map fun g => g.2.slots).getD [l.slot]
  let ts := if o.sca && o.lanes.length = 1 then w.threadsAt slots o.mask else ((SMap.get? w.threads l.slot).map w.threadKey).toList
  let xs := s.sites (s.asidOf c) w (l.space, l.off) o.bytes
  let base : Event := { s.eventOf c w ts .read with whole := decide (o.bytes ≤ 8), scope := o.scope, acq := o.acq, rel := o.rel, peer := l.peer
                                                    chan := ((s.core c).chanOps.find? fun q => q.op == o.id && q.lane == l.lane && decide (q.kind ≤ 3)).map fun q => (q.chan, 4 * q.dev + q.die) }
  match o.aop with
  | .load => if o.lk == .nc || (match l.space with | .bank _ => true | _ => false) then none else some ({ base with reads := xs }, .bytes [])
  | .store => some ({ base with act := .write, writes := xs }, .bytes (natToBytes o.bytes l.data))
  | .wown => some ({ base with act := .ordering, scope := .gang, rel := true }, .bytes [])
  | .atom _ _ => some ({ base with act := .atom, reads := xs, writes := xs }, .access o.aop o.bytes l.data l.cmp xs)
  | .contrib ty _ => some ({ base with act := .red, reads := xs, writes := xs }, .access (.fadd ty) o.bytes l.data l.cmp xs)
  | a => some ({ base with act := .red, reads := xs, writes := xs }, .access a o.bytes l.data l.cmp xs)

/-- The accesses that a step has begun. -/
def Trace.accesses (r : Trace) (s t : State) : Trace :=
  t.cores.foldl (fun r p => match p.2.wg with
    | none => r
    | some w => (w.ops.filter fun o => decide (s.nextId ≤ o.id)).foldl (fun r o => o.lanes.foldl (fun (r : Trace) l =>
        match t.laneEvent p.1 w o l with
        | none => r
        | some e =>
          let ids := (p.2.chanOps.filter fun q => q.op == o.id && q.lane == l.lane && decide (q.kind ≤ 3)).map fun q => (q.id, r.events.length)
          { r.add e.1 e.2 with chans := r.chans ++ ids }) r) r) r

/-! ## Ordering words (R262, R268) -/

/-- R194, R196: what a barrier counts, for its phases. -/
def Wg.barPart (w : Wg) (b : Nat) : Nat := if b = 6 then 0 else if b = 5 then w.gang else w.wgno

/-- The barrier event of a group: its arrival, or its wait, in the phase of its arrival. -/
def State.barEvent (s : State) (x : Ctx) (b : Nat) (arrive : Bool) : Event :=
  let n := ((x.grp.slots.head?).bind (slotArr x.wg b)).getD (x.wg.phase b)
  { s.eventOf x.c x.wg (x.wg.threadsAt x.grp.slots (2 ^ 64 - 1)) .ordering with
    scope := if b = 5 then .gang else if b = 6 then .dev else .wg, rel := arrive, acq := !arrive, meet := some (.phase x.wg.launch (x.wg.barPart b) b n) }

/-- The events of a word that orders, once it has issued. -/
def State.wordEvents (s : State) (x : Ctx) (i : Instr) : List Event :=
  let ts := x.ex.filterMap fun l => (SMap.get? x.wg.threads l.2).map x.wg.threadKey
  let b := s.eventOf x.c x.wg ts .ordering
  let cb (rel put : Bool) (n count : Nat) : Event :=
    { b with scope := .wg, rel := rel, acq := !rel, meet := some (.count x.wg.launch x.wg.wgno n put count) }
  match i with
  | .fence _ sc o => [{ b with act := .fence, scope := sc, acq := isAcq o, rel := isRel o }]
  | .bar _ _ st => [s.barEvent x (barOf x st) true, s.barEvent x (barOf x st) false]
  | .barArv _ _ st => [s.barEvent x (barOf x st) true]
  | .barWait _ _ st => [s.barEvent x (barOf x st) false]
  | .barg _ _ l => [s.barEvent x (bargOf l) true, s.barEvent x (bargOf l) false]
  | .bargArv _ _ l => [s.barEvent x (bargOf l) true]
  | .bargWait _ _ l => [s.barEvent x (bargOf l) false]
  | .chain _ ka kb => [{ b with act := .chain ka.toNat kb.toNat }]
  | .chainAll _ ka => [{ b with act := .chainAll ka.toNat }]
  | .cbwaitP _ _ _ n _ => match SMap.get? x.wg.cbs n.toNat with | some u => [cb false false n.toNat u.getDone.toNat] | none => []
  | .cbwaitC _ _ _ n _ => match SMap.get? x.wg.cbs n.toNat with | some u => [cb false true n.toNat u.putDone.toNat] | none => []
  | .cbrelP _ cnt n _ => match cbOf s x cnt n.toNat with | some u => [cb true true n.toNat (u.1.putDone.toNat + u.2)] | none => []
  | .cbrelC _ cnt n _ => match cbOf s x cnt n.toNat with | some u => [cb true false n.toNat (u.1.getDone.toNat + u.2)] | none => []
  | .mwait _ _ m sc o => (match mwaitPlace s x 4 (memEa x .generic m 4 0) with
    | .ok p => [{ b with act := .read, reads := s.sites (s.asidOf x.c) x.wg p 4, scope := sc, acq := isAcq o }]
    | .error _ => [])
  | .mwaitB64 _ _ m sc o => (match mwaitPlace s x 8 (memEa x .generic m 8 0) with
    | .ok p => [{ b with act := .read, reads := s.sites (s.asidOf x.c) x.wg p 8, scope := sc, acq := isAcq o }]
    | .error _ => [])
  | _ => []

/-- The entries of q6 and q7 that a step has pushed or popped: the issuing group is those of `b`. An entry's number is its place among the pushes, or the pops, of its port. -/
def Trace.ports (r : Trace) (w v : Wg) (b : Event) : Trace :=
  (dedup (SMap.keys w.stageQ ++ SMap.keys v.stageQ)).foldl (fun (r : Trace) k =>
    let old := SMap.getD w.stageQ k []
    let new := SMap.getD v.stageQ k []
    let popped := if old.length ≤ new.length ∧ new.take old.length = old then 0 else 1
    let nth (push : Bool) : Nat := r.events.countP fun e => e.rel == push && match e.meet with | some (.entry l g q _) => l == w.launch && g == w.wgno && q == k | _ => false
    let entry (push : Bool) (n : Nat) : Event := { b with scope := .wg, rel := push, acq := !push, meet := some (.entry w.launch w.wgno k n) }
    let r := if popped = 1 then r.add (entry false (nth false)) (.bytes []) else r
    (List.range (new.length + popped - old.length)).foldl (fun r i => r.add (entry true (nth true + i)) (.bytes [])) r) r

/-! ## Engine operations (R262, R274 to R276) -/

/-- R262: the events of an engine operation, with the workgroup as it ends: the read and the write of each element, the stamp and the commit. The first of them stands at `n`. -/
def State.engEvents (s : State) (c n : Nat) (w : Wg) (e : EngOp) : List (Event × How) :=
  let asid := s.asidOfLaunch e.launch
  let b := { s.eventOf c w [] .read with eng := some e.id }
  let at_ (a : Word64) (k : Nat) : List Site := match s.engSpan e a k with | some p => s.sites asid w p k | none => []
  let did (i : Nat) : Bool := e.refused.isNone || e.done.contains i
  match e.kind with
  | .copy d t =>
    let to? (a : Word64) : Option (Nat × Nat) := d.chan.map fun k => (k, let p := s.chanDest c asid a.toNat; 4 * p.1 + p.2)
    let ps := d.elems t
    let xs := ((List.range ps.length).zip ps).filter fun p => d.chan.isSome || did p.1
    let elems := ((List.range xs.length).zip xs).flatMap fun q =>
      let (k, i, p) := q
      [({ b with elem := i, reads := at_ p.1 d.esz, whole := decide (d.esz ≤ 8) }, How.bytes []),
       ({ b with act := .write, elem := i, writes := at_ p.2 d.esz, whole := decide (d.esz ≤ 8), chan := to? p.2 }, How.copied (n + 2 * k) (at_ p.1 d.esz))]
    let stamp := if d.stamp == 0 || e.refused.isSome then [] else
      [({ b with act := .write, elem := ps.length, stamp := true, writes := at_ d.stamp 8, scope := d.scope, chan := to? d.stamp }, How.bytes (natToBytes 8 d.sval.toNat))]
    let commit := if !d.commits || e.refused.isSome then [] else
      [({ b with act := .commit, elem := ps.length + 1, scope := .wg, rel := true
                 meet := some (.count w.launch w.wgno d.buffer true (((SMap.get? w.cbs d.buffer).map fun (u : CBuf) => u.putDone.toNat).getD 0)) }, How.bytes [])]
    elems ++ stamp ++ commit
  | .gather d =>
    ((List.range d.count).filter did).map fun i =>
      ({ b with act := .write, elem := i, writes := s.sites asid w (.scratch e.rank, d.dst + d.esz * i) d.esz, whole := decide (d.esz ≤ 8) },
       How.bytes (((s.rankBytes e.launch e.gang e.rank (d.dst + d.esz * i) d.esz).toOption).getD []))
  | .mdrain d =>
    let k := fmtBytes d.fmt
    let es := d.elems.getD []
    (((List.range es.length).zip es).filter fun p => did p.1).map fun p =>
      let xs := at_ (d.base + BitVec.ofInt 64 (Int.ofNat p.2.1 * d.rs + Int.ofNat p.2.2.1 * d.cs)) k
      if d.add then
        let ty : FaddTy := if d.fmt = 1 then .f16 else if d.fmt = 2 then .bf16 else .f32
        ({ b with act := .red, elem := p.1, reads := xs, writes := xs }, How.access (.fadd ty) k p.2.2.2 0 xs)
      else ({ b with act := .write, elem := p.1, writes := xs }, How.bytes (natToBytes k p.2.2.2))
  | _ => []

/-- The engine operations that a step has begun or ended. A beginning is a mark in the program order of its group; at its end an operation has its events. -/
def Trace.engines (r : Trace) (s t : State) : Trace :=
  let all (s : State) : List (Nat × EngOp) := s.cores.flatMap fun p => p.2.eng.map fun e => (p.1, e)
  let r := ((all t).filter fun p => decide (s.nextId ≤ p.2.id)).foldl (fun (r : Trace) p =>
    match t.wg? p.1 with
    | none => r
    | some w =>
      let slots := ((w.groupByUid p.2.uid).map fun g => g.2.slots).getD []
      let covers := match p.2.kind with | .drainChan _ ids => [(p.2.id, ids)] | _ => []
      { r.add (t.eventOf p.1 w (w.threadsAt slots (2 ^ 64 - 1)) .mark) (.bytes []) with forks := r.forks ++ [(r.events.length, p.2.id)], covers := r.covers ++ covers }) r
  ((all s).filter fun p => (t.eng? p.2.id).isNone).foldl (fun (r : Trace) p =>
    match t.owner? p.2.launch p.2.wgno with
    | none => r
    | some w => r.addAll (t.engEvents p.1 r.events.length w p.2)) r

/-- The joins of a step (R275, R282): of the handles that were done, those that the issuing group has read and freed, and those that a test or a wait names; of a DRAIN, what it covers
becomes visible. -/
def Trace.joined (r : Trace) (s t : State) (c g : Nat) (i : Instr) (b : Event) : Trace :=
  match s.group? c g with
  | none => r
  | some x =>
    let named (n : Nat) : Bool := match i with
      | .htest _ _ hs => handleNo hs == n
      | .hwait _ _ _ _ _ => true
      | _ => (match t.group? c g with | some y => (SMap.get? y.handles n).isNone | none => false)
    (x.handles.filter fun h => h.2.done && named h.1).foldl (fun (r : Trace) h =>
      let q := r.events.length
      let r := { r.add { b with act := .mark } (.bytes []) with joins := r.joins ++ [(h.2.id, q)] }
      match r.covers.find? (·.1 == h.2.id) with
      | some v => if h.2.status = 0 then { r with drains := r.drains ++ [((r.chans.filter fun k => v.2.contains k.1).map (·.2), q)] } else r
      | none => r) r

/-! ## Threads, saves, replicas, peers -/

/-- R264: the threads that a RESAMPLE step has made, with the thread that each was cloned from: they have its events before the step. -/
def State.births (s t : State) : List (Nat × Nat) :=
  let alive (s : State) : List (Wg × Thread) := s.cores.flatMap fun p => match p.2.wg with | some w => w.threads.map fun q => (w, q.2) | none => []
  t.cores.flatMap fun p => match s.wg? p.1, p.2.wg with
    | some v, some w =>
      if v.launch = w.launch ∧ v.wgno = w.wgno ∧ v.gen ≠ w.gen then
        w.threads.filterMap fun q => ((alive s).find? fun a => a.1.launch == w.launch && a.2.tid == q.2.par).map fun a => (a.1.threadKey a.2, w.threadKey q.2)
      else []
    | _, _ => []

def Trace.inherit (r : Trace) (bs : List (Nat × Nat)) : Trace :=
  { r with events := r.events.map fun e => { e with threads := e.threads ++ (bs.filter fun b => e.threads.contains b.1).map (·.2) } }

/-- R267: the saves of a step. -/
def Trace.saves (r : Trace) (s t : State) : Trace :=
  s.cores.foldl (fun (r : Trace) p => match p.2.wg with
    | some w => if w.saving && (t.wg? p.1).isNone then r.add (s.eventOf p.1 w [] .save) (.bytes []) else r
    | none => r) r

/-- R286: the replicas that stand after a step. -/
def State.mirrors (s : State) : List Mirror :=
  s.cores.flatMap fun p => match p.2.wg with
    | none => []
    | some w => w.subs.map fun u => (List.range u.2.len).map fun i => (Site.replica w.launch w.wgno u.1 i, Site.global (s.asidOf p.1) (u.2.va + i))

/-- R262: an access of a peer device is an event of that device. -/
def State.peerEvents (s : State) (e : Env) : List (Event × How) :=
  let seat : Seat := ⟨s.devNum.toNat + 1, false, 0, 0, 0, 0⟩
  let b : Event := { act := .read, seat := seat, threads := [], eng := none, elem := 0, stamp := false, reads := [], writes := [], whole := true, scope := .none, acq := false,
                     rel := false, chan := none, meet := none, peer := false }
  let at_ (asid va n : Nat) : List Site := (List.range n).map fun i => .global asid (va + i)
  match e with
  | .peerStore asid va bs => [({ b with act := .write, writes := at_ asid va bs.length }, .bytes bs)]
  | .peerRmw asid va n aop data cmp => [({ b with act := .red, reads := at_ asid va n, writes := at_ asid va n }, .access aop n data cmp (at_ asid va n))]
  | .peerLoad asid va n => [({ b with reads := at_ asid va n }, .bytes [])]
  | _ => []

/-! ## A run -/

/-- The word of a turn and its fields, with the state at which it issues. -/
def State.wordOf (s : State) : Option (State × Head × Instr) :=
  match s.turns with
  | .issue c g :: ts =>
    (match ({ s with turns := ts } : State).turnOf c g with
    | .word s w next => (match decodeWord w next with | .ok i => some (s, headOf w, i) | .error _ => none)
    | .done _ => none)
  | _ => none

/-- The group has gone past the word. -/
def Ctx.issued (x : Ctx) (t : State) : Bool := match t.group? x.c x.g with | some g => g.uid != x.grp.uid || g.pc != x.pc | none => true

/-- What a step adds to a run. -/
def Trace.step (r : Trace) (s t : State) : Trace :=
  let r := match s.turns with | .env e :: _ => r.addAll (s.peerEvents e) | _ => r
  let r := match s.wordOf with
    | none => r
    | some (s', h, i) =>
      match s'.ctx? h 0 none with
      | none => r
      | some x =>
        if !x.issued t then r
        else
          let b := s'.eventOf x.c x.wg (x.wg.threadsAt x.grp.slots (2 ^ 64 - 1)) .ordering
          let r := (r.joined s' t x.c x.g i b).addAll ((s'.wordEvents x i).map fun e => (e, .bytes []))
          match t.wg? x.c with | some v => r.ports x.wg v b | none => r
  let r := (((r.accesses s t).engines s t).saves s t).inherit (s.births t)
  { r with replicas := (r.replicas ++ t.mirrors).eraseDups }

/-- The events of the first `n` steps from a state. -/
def Trace.run (r : Trace) (s : State) : Nat → Trace
  | 0 => r
  | n + 1 => match Machine.step s with
    | .next t => Trace.run (r.step s t) t n
    | _ => r

end Sys2Proof.Machine
end

