-- ==== Sys2Proof/Tests/Slice0.lean ====
section
/-! SUPPORT. The tests: what the well-formedness check refuses, the decoding of words that the spec writes out or whose fields it gives, one word of each
instruction; and for every obligation with hypotheses a concrete state and operands that meet all of them together. -/

namespace Sys2Proof.Tests
open Sys2Proof Sys2Proof.Machine Sys2Proof.Claims
set_option Elab.async false

/-! ## Instructions without an encoding -/

def plain : Head := ⟨0, 0, 7, false⟩
def ifP1 : Head := ⟨0, 1, 1, false⟩
def mv : MOpnd := ⟨false, 4, 0, 2, 0⟩

/-- R123: a literal that no source names; a source that names a literal the word lacks; 0x80 as a short literal. -/
theorem test_wf_literal :
    Instr.wf (.not plain ⟨false, 1⟩ (.vec 2) (some 7)) = false ∧ Instr.wf (.not plain ⟨false, 1⟩ .long none) = false ∧
      Instr.wf (.not plain ⟨false, 1⟩ (.short 0x80) none) = false := by decide
/-- R113: a collective word under a predicate, or negated. -/
theorem test_wf_collective :
    Instr.wf (.tail ifP1 false) = false ∧ Instr.wf (.tail ⟨0, 0, 7, true⟩ false) = false ∧ Instr.wf (.mchk ifP1) = false ∧ Instr.wf (.bar ifP1 false false) = false := by decide
/-- R148: a combining predicate without a combination. -/
theorem test_wf_combination : Instr.wf (.icmpEq plain .none 1 false ⟨false, 1⟩ (.vec 2) (.vec 3) none) = false := by decide
/-- R174, R175: a bitwise combination of floats; a SCAN of the first. -/
theorem test_wf_combining :
    Instr.wf (.redg plain .f32 .and ⟨true, 1⟩ (.vec 2) none) = false ∧ Instr.wf (.scanInc plain .s32 .first ⟨false, 1⟩ (.vec 2) none) = false := by decide
/-- R115: an order without a scope. -/
theorem test_wf_order : Instr.wf (.ld plain false mv .none .acq .b32) = false := by decide
/-- R222: a base of kind 2; a load with a release; a store with an acquire; a scope beyond the gang on the scratchpad. -/
theorem test_wf_memory :
    Instr.wf (.ld plain false ⟨false, 4, 2, 2, 0⟩ .none .rlx .b32) = false ∧ Instr.wf (.ld plain false mv .wg .rel .b32) = false ∧
      Instr.wf (.st plain mv none .wg .acq .b32) = false ∧ Instr.wf (.sts plain mv .die .rlx .b32) = false := by decide
/-- R223: a sign-extended load of a word. -/
theorem test_wf_sign : Instr.wf (.ld plain true mv .none .rlx .b32) = false := by decide
/-- R222: a channelled store with a scope; R230: an atomic of a byte; R233: a slot without a channel. -/
theorem test_wf_atomics :
    Instr.wf (.st plain mv (some 1) .wg .rlx .b32) = false ∧ Instr.wf (.atomAdd plain mv none .none .rlx .b8) = false ∧
      Instr.wf (.redFadd plain .f32 1 mv none .none .rlx) = false := by decide
/-- R234: a FENCE without a scope, or without an order; R238: a channel chained to itself; R235: an MWAIT into vector registers. -/
theorem test_wf_fence :
    Instr.wf (.fence plain .none .ar) = false ∧ Instr.wf (.fence plain .dev .rlx) = false ∧ Instr.wf (.chain plain 3 3) = false ∧
      Instr.wf (.mwait plain true mv .none .rlx) = false := by decide
/-- R222: a count in a vector register, a mask in one. -/
theorem test_wf_counts : Instr.wf (.cbrelP plain (.vec 1) 0 none) = false ∧ Instr.wf (.hwait plain false 0 (.vec 1) none) = false := by decide
/-- R321: a whole window at column 128; a half window at another column; a row range past the tile; R324, R320, R330: two side registers, blocks in pairs,
gang splits. -/
theorem test_wf_matrix :
    Instr.wf (.mma plain false 0 0 0 128 0) = false ∧ Instr.wf (.mma plain true 0 0 0 64 0) = false ∧ Instr.wf (.mma plain false 0 0 1 0 127) = false ∧
      Instr.wf (.msideQ plain 0 2) = false ∧ Instr.wf (.mcomp plain 0 0 0 0 0) = false ∧ Instr.wf (.mgang plain 3) = false := by decide
/-- R211: an ICINV without a scope; R133: an assigned opcode. -/
theorem test_wf_system : Instr.wf (.icinv plain .none (.sca 4) (.sca 6) none) = false ∧ Instr.wf (.unassignedOpcode 0x01 0) = false := by decide

/-! ## Words written out in the spec -/

theorem test_decode_iadd : (decodeWord 0x0141C060_07800000 (some 0x3E8)).toOption = some (.iadd ⟨4, 0, 7, false⟩ false false ⟨false, 3⟩ (.vec 1) .long (some 1000)) := by
  decide +kernel
theorem test_decode_iadd_registers : (decodeWord 0x0141C0A0_10010000 none).toOption = some (.iadd ⟨4, 0, 7, false⟩ false false ⟨false, 5⟩ (.vec 4) (.vec 1) none) := by
  decide +kernel
theorem test_decode_shl : (decodeWord 0x1401C0C0_17020000 none).toOption = some (.shl plain ⟨false, 6⟩ (.vec 5) (.short 2) none) := by decide +kernel
theorem test_decode_ffma :
    (decodeWord 0x2361C140_08030109 none).toOption = some (.ffma ⟨6, 0, 7, false⟩ true false .rz ⟨false, 10⟩ (.vec 2) (.vec 3) (.vec 4) none) := by decide +kernel
theorem test_decode_icmp :
    (decodeWord 0x4241C040_1F640001 none).toOption = some (.icmpLt ⟨4, 0, 7, false⟩ .none 0 true ⟨false, 2⟩ (.vec 7) (.short 100) none) := by decide +kernel
theorem test_decode_icmp_or :
    (decodeWord 0x4541C080_1404001C none).toOption = some (.icmpGe ⟨4, 0, 7, false⟩ .or 3 false ⟨false, 4⟩ (.vec 5) (.vec 4) none) := by decide +kernel
theorem test_decode_bra : (decodeWord 0x61304000_00006000 none).toOption = some (.bra ⟨3, 0, 1, false⟩ false 6) := by decide +kernel
theorem test_decode_brx : (decodeWord 0x6301C000_00000006 none).toOption = some (.brx plain false ⟨false, 6⟩) := by decide +kernel
theorem test_decode_meet : (decodeWord 0x7007C120_00008000 none).toOption = some (.meet ⟨0, 3, 7, false⟩ false 9 8) := by decide +kernel
theorem test_decode_fetch : (decodeWord 0x7905C060_00000001 none).toOption = some (.fetchV ⟨0, 2, 7, false⟩ false 3 1) := by decide +kernel
theorem test_decode_barg : (decodeWord 0x7501C000_00000001 none).toOption = some (.barg plain false true) := by decide +kernel
theorem test_decode_barg_arv : (decodeWord 0x7601C000_00000001 none).toOption = some (.bargArv plain false true) := by decide +kernel
theorem test_decode_ld : (decodeWord 0x8003C080_08000040 none).toOption = some (.ld ⟨0, 1, 7, false⟩ false ⟨false, 4, 0, 2, 0⟩ .none .rlx .b32) := by decide +kernel
theorem test_decode_ld_acq : (decodeWord 0x8005C080_08100D40 none).toOption = some (.ld ⟨0, 2, 7, false⟩ false ⟨false, 4, 0, 2, 4⟩ .die .acq .b32) := by decide +kernel
theorem test_decode_st : (decodeWord 0x9001C0C0_08000040 none).toOption = some (.st plain ⟨false, 6, 0, 2, 0⟩ none .none .rlx .b32) := by decide +kernel
theorem test_decode_st_channel : (decodeWord 0x9001C100_18022040 none).toOption = some (.st plain ⟨false, 8, 0, 6, 0⟩ (some 1) .none .rlx .b32) := by decide +kernel
theorem test_decode_chain : (decodeWord 0xA301C000_00024001 none).toOption = some (.chain plain 2 1) := by decide +kernel
theorem test_decode_drain : (decodeWord 0xA501C870_00024000 none).toOption = some (.drain plain 0x43 2) := by decide +kernel
theorem test_decode_cbwait : (decodeWord 0xB401C15C_08000000 none).toOption = some (.cbwaitP plain 10 (.short 2) 0 none) := by decide +kernel
theorem test_decode_mma : (decodeWord 0xC701C500_00FE0000 none).toOption = some (.mmaZ plain false 1 2 0 0 127) := by decide +kernel
theorem test_decode_mdrain : (decodeWord 0xD205CC00_80FE1085 none).toOption = some (.mdrain ⟨0, 2, 7, false⟩ true 3 0 128 127 8 0x42) := by decide +kernel
theorem test_decode_mzero : (decodeWord 0xC501C400_80FE0001 none).toOption = some (.mzero plain true true 0 128 127) := by decide +kernel
theorem test_decode_mmas : (decodeWord 0xC801C400_00FE0000 none).toOption = some (.mmas plain 1 0 0 127) := by decide +kernel
theorem test_decode_icinv : (decodeWord 0xE203C004_11060005 none).toOption = some (.icinv ⟨0, 1, 7, false⟩ .sys (.sca 4) (.sca 6) none) := by decide +kernel
/-- R132, R133: a word of zeros is none of the assigned words. -/
theorem test_decode_zeros : (decodeWord 0 none).toOption = some (.unassignedOpcode 0 0) := by decide +kernel
/-- R112: a reserved field that is not zero is no encoding. -/
theorem test_decode_reserved : (decodeWord 0x7A01C000_00000002 none).toOption = none := by decide +kernel
/-- R112 to R123: the words encode what they decode to. -/
theorem test_encode :
    encodeWords (.shl plain ⟨false, 6⟩ (.vec 5) (.short 2) none) = [0x1401C0C0_17020000] ∧
      encodeWords (.iadd ⟨4, 0, 7, false⟩ false false ⟨false, 3⟩ (.vec 1) .long (some 1000)) = [0x0141C060_07800000, 0x3E8] := by decide +kernel

/-! ## A word of every instruction

Each word is built field by field from the formats of R112 to R118 and the field tables of its chapter (R148, R176, R180, R206, R222, R320, R351). -/

/-- Words of this family, and what they stand for. -/
def wordsInteger1 : List (Nat × Instr) :=
  [(0x0100042046A50002, .iadd ⟨0, 0, 0, false⟩ true false ⟨false, 33⟩ (.vec 17) (.cst 2 37) none),
   (0x0133442046A50001, .iadd ⟨3, 1, 5, false⟩ false true ⟨false, 33⟩ (.vec 17) (.cst 2 37) none),
   (0x0264A44049060003, .iaddB64 ⟨6, 2, 2, true⟩ true true ⟨false, 34⟩ (.vec 18) (.sca 6) none),
   (0x0397E4601FFD002A, .iaddc ⟨9, 3, 7, true⟩ 5 2 ⟨false, 35⟩ (.vec 7) (.short 0xFD) none),
   (0x04C9042046A50003, .isub ⟨12, 4, 4, false⟩ true true ⟨false, 33⟩ (.vec 17) (.cst 2 37) none),
   (0x05FA444049060001, .isubB64 ⟨15, 5, 1, false⟩ false true ⟨false, 34⟩ (.vec 18) (.sca 6) none),
   (0x062DA12414040000, .imul ⟨2, 6, 6, true⟩ ⟨false, 9⟩ (.sca 5) (.vec 4) none),
   (0x075EE18008040000, .imulB64 ⟨5, 7, 3, true⟩ ⟨false, 12⟩ (.vec 2) (.vec 4) none)]
def wordsInteger2 : List (Nat × Instr) :=
  [(0x0880012DFCFF0001, .imulh ⟨8, 0, 0, false⟩ true ⟨false, 9⟩ (.short 0x7F) (.vec 255) none),
   (0x09B34120040200C0, .imad ⟨11, 1, 5, false⟩ ⟨false, 9⟩ (.vec 1) (.vec 2) (.vec 3) none),
   (0x0AE4A14004020181, .imadB64 ⟨14, 2, 2, true⟩ true ⟨false, 10⟩ (.vec 1) (.vec 2) (.vec 6) none),
   (0x0B17E12004020001, .imin ⟨1, 3, 7, true⟩ true ⟨false, 9⟩ (.vec 1) (.vec 2) none),
   (0x0C49012004020000, .imax ⟨4, 4, 4, false⟩ false ⟨false, 9⟩ (.vec 1) (.vec 2) none),
   (0x0D7A41218C000002, .iabs ⟨7, 5, 1, false⟩ true ⟨false, 9⟩ (.vec 99) none),
   (0x0EADA12BFC000002, .ineg ⟨10, 6, 6, true⟩ true ⟨false, 9⟩ (.cst 3 63) none),
   (0x0FDEE10018030035, .lea ⟨13, 7, 3, true⟩ true 21 ⟨false, 8⟩ (.vec 6) (.vec 3) none)]
def wordsInteger : List (Nat × Instr) := wordsInteger1 ++ wordsInteger2
theorem test_words_integer : wordsInteger.all (fun p => (decodeWord p.1 none).toOption == some p.2 && encodeWords p.2 == [p.1]) = true := by decide +kernel
/-- Words of this family, and what they stand for. -/
def wordsLogic1 : List (Nat × Instr) :=
  [(0x10000E8041240000, .and ⟨0, 0, 0, false⟩ ⟨false, 116⟩ (.vec 16) (.sca 36) none),
   (0x11334EA045250000, .or ⟨3, 1, 5, false⟩ ⟨false, 117⟩ (.vec 17) (.sca 37) none),
   (0x1264AEC049260000, .xor ⟨6, 2, 2, true⟩ ⟨false, 118⟩ (.vec 18) (.sca 38) none),
   (0x1497EF0051280000, .shl ⟨9, 3, 7, true⟩ ⟨false, 120⟩ (.vec 20) (.sca 40) none),
   (0x15C90F2055290000, .shr ⟨12, 4, 4, false⟩ ⟨false, 121⟩ (.vec 21) (.sca 41) none),
   (0x16FA4F40592A0000, .sar ⟨15, 5, 1, false⟩ ⟨false, 122⟩ (.vec 22) (.sca 42) none),
   (0x172DAF605D2B0000, .rol ⟨2, 6, 6, true⟩ ⟨false, 123⟩ (.vec 23) (.sca 43) none),
   (0x105EE5340E420000, .and ⟨5, 7, 3, true⟩ ⟨true, 41⟩ (.sca 3) (.cst 1 2) none)]
def wordsLogic2 : List (Nat × Instr) :=
  [(0x138009A51C000000, .not ⟨8, 0, 0, false⟩ ⟨false, 77⟩ (.sca 71) none),
   (0x18B3412007080001, .bfx ⟨11, 1, 5, false⟩ true ⟨false, 9⟩ (.vec 1) (.short 0x8) none),
   (0x19E4A120040240C0, .bfi ⟨14, 2, 2, true⟩ ⟨false, 9⟩ (.vec 1) (.vec 2) (.sca 3) none),
   (0x1A17E12004000000, .popc ⟨1, 3, 7, true⟩ ⟨false, 9⟩ (.vec 1) none),
   (0x1B49012544000000, .clz ⟨4, 4, 4, false⟩ ⟨false, 9⟩ (.sca 81) none),
   (0x1C7A412E04000000, .brev ⟨7, 5, 1, false⟩ ⟨false, 9⟩ (.short 0x81) none),
   (0x1DADA18059310000, .shlB64 ⟨10, 6, 6, true⟩ ⟨false, 12⟩ (.vec 22) (.sca 49) none),
   (0x1EDEE18059320000, .shrB64 ⟨13, 7, 3, true⟩ ⟨false, 12⟩ (.vec 22) (.sca 50) none)]
def wordsLogic3 : List (Nat × Instr) :=
  [(0x1F00018059330000, .sarB64 ⟨0, 0, 0, false⟩ ⟨false, 12⟩ (.vec 22) (.sca 51) none)]
def wordsLogic : List (Nat × Instr) := wordsLogic1 ++ wordsLogic2 ++ wordsLogic3
theorem test_words_logic : wordsLogic.all (fun p => (decodeWord p.1 none).toOption == some p.2 && encodeWords p.2 == [p.1]) = true := by decide +kernel
/-- Words of this family, and what they stand for. -/
def wordsFloat1 : List (Nat × Instr) :=
  [(0x2033412004020007, .fadd ⟨3, 1, 5, false⟩ true .ru ⟨false, 9⟩ (.vec 1) (.vec 2) none),
   (0x2164A12004020002, .fsub ⟨6, 2, 2, true⟩ false .rd ⟨false, 9⟩ (.vec 1) (.vec 2) none),
   (0x2297E12004020005, .fmul ⟨9, 3, 7, true⟩ true .rz ⟨false, 9⟩ (.vec 1) (.vec 2) none),
   (0x23C90120040200CA, .ffma ⟨12, 4, 4, false⟩ true false .rd ⟨false, 9⟩ (.vec 1) (.vec 2) (.vec 3) none),
   (0x24FA412004020004, .fmin ⟨15, 5, 1, false⟩ true ⟨false, 9⟩ (.vec 1) (.vec 2) none),
   (0x252DA12004020000, .fmax ⟨2, 6, 6, true⟩ false ⟨false, 9⟩ (.vec 1) (.vec 2) none),
   (0x265EE12004000005, .frnd ⟨5, 7, 3, true⟩ true .rz ⟨false, 9⟩ (.vec 1) none),
   (0x278004E0A0000004, .frcp ⟨8, 0, 0, false⟩ true ⟨false, 39⟩ (.vec 40) none)]
def wordsFloat2 : List (Nat × Instr) :=
  [(0x28B34500A4000000, .frsq ⟨11, 1, 5, false⟩ false ⟨false, 40⟩ (.vec 41) none),
   (0x29E4A520A8000004, .fsqrt ⟨14, 2, 2, true⟩ true ⟨false, 41⟩ (.vec 42) none),
   (0x2A17E540AC000000, .fexp2 ⟨1, 3, 7, true⟩ false ⟨false, 42⟩ (.vec 43) none),
   (0x2B490560B0000004, .flog2 ⟨4, 4, 4, false⟩ true ⟨false, 43⟩ (.vec 44) none),
   (0x2C7A4580B4000000, .fsin ⟨7, 5, 1, false⟩ false ⟨false, 44⟩ (.vec 45) none),
   (0x2DADA5A0B8000004, .fcos ⟨10, 6, 6, true⟩ true ⟨false, 45⟩ (.vec 46) none)]
def wordsFloat : List (Nat × Instr) := wordsFloat1 ++ wordsFloat2
theorem test_words_float : wordsFloat.all (fun p => (decodeWord p.1 none).toOption == some p.2 && encodeWords p.2 == [p.1]) = true := by decide +kernel
/-- Words of this family, and what they stand for. -/
def wordsPacked1 : List (Nat × Instr) :=
  [(0x30DEE12004020007, .hadd2 ⟨13, 7, 3, true⟩ true .ru ⟨false, 9⟩ (.vec 1) (.vec 2) none),
   (0x3100012004020001, .hmul2 ⟨0, 0, 0, false⟩ false .rz ⟨false, 9⟩ (.vec 1) (.vec 2) none),
   (0x32334120040200C2, .hfma2 ⟨3, 1, 5, false⟩ .rd ⟨false, 9⟩ (.vec 1) (.vec 2) (.vec 3) none),
   (0x3364A12004028143, .bfma2 ⟨6, 2, 2, true⟩ .ru ⟨false, 9⟩ (.vec 1) (.vec 2) (.cst 0 5) none),
   (0x3497E12004020004, .hmin2 ⟨9, 3, 7, true⟩ true ⟨false, 9⟩ (.vec 1) (.vec 2) none),
   (0x35C9012004020000, .hmax2 ⟨12, 4, 4, false⟩ false ⟨false, 9⟩ (.vec 1) (.vec 2) none),
   (0x36FA412004000026, .cvtFF ⟨15, 5, 1, false⟩ .bf16 .f16 .rd ⟨false, 9⟩ (.vec 1) none),
   (0x372DA1400400001D, .cvtIF ⟨2, 6, 6, true⟩ .f16 .b64 .rz ⟨false, 10⟩ (.vec 1) none)]
def wordsPacked2 : List (Nat × Instr) :=
  [(0x385EE1200800002B, .cvtFI ⟨5, 7, 3, true⟩ .bf16 .s64 .ru ⟨false, 9⟩ (.vec 2) none),
   (0x39800120040200F3, .cvtn ⟨8, 0, 0, false⟩ 6 3 ⟨false, 9⟩ (.vec 1) (.vec 2) (.vec 3) none),
   (0x3AB341200400000F, .cvtw ⟨11, 1, 5, false⟩ 1 7 ⟨false, 9⟩ (.vec 1) none)]
def wordsPacked : List (Nat × Instr) := wordsPacked1 ++ wordsPacked2
theorem test_words_packed : wordsPacked.all (fun p => (decodeWord p.1 none).toOption == some p.2 && encodeWords p.2 == [p.1]) = true := by decide +kernel
/-- Words of this family, and what they stand for. -/
def wordsCompare1 : List (Nat × Instr) :=
  [(0x40E4A02003050000, .icmpEq ⟨14, 2, 2, true⟩ .none 0 false ⟨false, 1⟩ (.vec 0) (.short 0x5) none),
   (0x4117E04007060012, .icmpNe ⟨1, 3, 7, true⟩ .and 2 false ⟨false, 2⟩ (.vec 1) (.short 0x6) none),
   (0x424900600B07001D, .icmpLt ⟨4, 4, 4, false⟩ .or 3 true ⟨false, 3⟩ (.vec 2) (.short 0x7) none),
   (0x437A40800F080027, .icmpLe ⟨7, 5, 1, false⟩ .xor 4 true ⟨false, 4⟩ (.vec 3) (.short 0x8) none),
   (0x44ADA0A013090000, .icmpGt ⟨10, 6, 6, true⟩ .none 0 false ⟨false, 5⟩ (.vec 4) (.short 0x9) none),
   (0x45DEE0C0170A0032, .icmpGe ⟨13, 7, 3, true⟩ .and 6 false ⟨false, 6⟩ (.vec 5) (.short 0xA) none),
   (0x460000000209003A, .fcmpEq ⟨0, 0, 0, false⟩ .and 7 ⟨false, 0⟩ (.vec 0) (.cst 0 9) none),
   (0x47334020064A0034, .fcmpNe ⟨3, 1, 5, false⟩ .or 6 ⟨false, 1⟩ (.vec 1) (.cst 1 10) none)]
def wordsCompare2 : List (Nat × Instr) :=
  [(0x4864A0400A8B002E, .fcmpLt ⟨6, 2, 2, true⟩ .xor 5 ⟨false, 2⟩ (.vec 2) (.cst 2 11) none),
   (0x4997E0600ECC0000, .fcmpLe ⟨9, 3, 7, true⟩ .none 0 ⟨false, 3⟩ (.vec 3) (.cst 3 12) none),
   (0x4AC90080120D001A, .fcmpGt ⟨12, 4, 4, false⟩ .and 3 ⟨false, 4⟩ (.vec 4) (.cst 0 13) none),
   (0x4BFA40A0164E0014, .fcmpGe ⟨15, 5, 1, false⟩ .or 2 ⟨false, 5⟩ (.vec 5) (.cst 1 14) none),
   (0x4C2DA0C01A8F000E, .fcmpUn ⟨2, 6, 6, true⟩ .xor 1 ⟨false, 6⟩ (.vec 6) (.cst 2 15) none),
   (0x4D5EE1200402000D, .sel ⟨5, 7, 3, true⟩ true 5 ⟨false, 9⟩ (.vec 1) (.vec 2) none),
   (0x4E8000C004000000, .pset ⟨8, 0, 0, false⟩ ⟨false, 6⟩ (.vec 1) none),
   (0x4FB3412000000000, .pmovGet ⟨11, 1, 5, false⟩ ⟨false, 9⟩)]
def wordsCompare3 : List (Nat × Instr) :=
  [(0x4FE4A000237F0001, .pmovPut ⟨14, 2, 2, true⟩ false (.vec 8) (.short 0x7F) none)]
def wordsCompare : List (Nat × Instr) := wordsCompare1 ++ wordsCompare2 ++ wordsCompare3
theorem test_words_compare : wordsCompare.all (fun p => (decodeWord p.1 none).toOption == some p.2 && encodeWords p.2 == [p.1]) = true := by decide +kernel
/-- Words of this family, and what they stand for. -/
def wordsMoves1 : List (Nat × Instr) :=
  [(0x5017EA1424000000, .mov ⟨1, 3, 7, true⟩ ⟨true, 80⟩ (.sca 9) none),
   (0x50491FE55C000000, .mov ⟨4, 4, 4, false⟩ ⟨false, 255⟩ (.sca 87) none),
   (0x517A444920000000, .movB64 ⟨7, 5, 1, false⟩ ⟨false, 34⟩ (.cst 1 8) none),
   (0x52ADA12008000003, .movc ⟨10, 6, 6, true⟩ 3 ⟨false, 9⟩ (.vec 2) none),
   (0x53DEE12005020000, .shflIdx ⟨13, 7, 3, true⟩ ⟨false, 9⟩ (.vec 1) (.sca 2) none),
   (0x5400014009030000, .shflUp ⟨0, 0, 0, false⟩ ⟨false, 10⟩ (.vec 2) (.sca 3) none),
   (0x553341600D040000, .shflDown ⟨3, 1, 5, false⟩ ⟨false, 11⟩ (.vec 3) (.sca 4) none),
   (0x5664A18011050000, .shflXor ⟨6, 2, 2, true⟩ ⟨false, 12⟩ (.vec 4) (.sca 5) none)]
def wordsMoves2 : List (Nat × Instr) :=
  [(0x5797E0800000000A, .voteAny ⟨9, 3, 7, true⟩ true 2 ⟨false, 4⟩),
   (0x58C900A000000006, .voteAll ⟨12, 4, 4, false⟩ false 6 ⟨false, 5⟩),
   (0x59FA47D000000008, .voteBallot ⟨15, 5, 1, false⟩ true 0 ⟨true, 62⟩),
   (0x5A2DA1200400000D, .redg ⟨2, 6, 6, true⟩ .b32 .xor ⟨false, 9⟩ (.vec 1) none),
   (0x5A5EE13004000016, .redg ⟨5, 7, 3, true⟩ .f32 .first ⟨true, 9⟩ (.vec 1) none),
   (0x5B80012004000012, .scanInc ⟨8, 0, 0, false⟩ .f32 .max ⟨false, 9⟩ (.vec 1) none),
   (0x5CB3412004000003, .scanExc ⟨11, 1, 5, false⟩ .s32 .and ⟨false, 9⟩ (.vec 1) none),
   (0x5FADA12004000001, .rand ⟨10, 6, 6, true⟩ true ⟨false, 9⟩ (.vec 1) none)]
def wordsMoves : List (Nat × Instr) := wordsMoves1 ++ wordsMoves2
theorem test_words_moves : wordsMoves.all (fun p => (decodeWord p.1 none).toOption == some p.2 && encodeWords p.2 == [p.1]) = true := by decide +kernel
/-- Words of this family, and what they stand for. -/
def wordsSpecial1 : List (Nat × Instr) :=
  [(0x5DE4A12000000000, .sread ⟨14, 2, 2, true⟩ .tid ⟨false, 9⟩),
   (0x5D17E14000000001, .sread ⟨1, 3, 7, true⟩ .lane ⟨false, 10⟩),
   (0x5D49016000000002, .sread ⟨4, 4, 4, false⟩ .gid ⟨false, 11⟩),
   (0x5D7A418000000003, .sread ⟨7, 5, 1, false⟩ .gw ⟨false, 12⟩),
   (0x5DADA1A000000004, .sread ⟨10, 6, 6, true⟩ .wgx ⟨false, 13⟩),
   (0x5DDEE1C000000005, .sread ⟨13, 7, 3, true⟩ .wgy ⟨false, 14⟩),
   (0x5D0001E000000006, .sread ⟨0, 0, 0, false⟩ .wgz ⟨false, 15⟩),
   (0x5D33420000000007, .sread ⟨3, 1, 5, false⟩ .stage ⟨false, 16⟩)]
def wordsSpecial2 : List (Nat × Instr) :=
  [(0x5D64A22000000008, .sread ⟨6, 2, 2, true⟩ .gang ⟨false, 17⟩),
   (0x5D97E24000000009, .sread ⟨9, 3, 7, true⟩ .grank ⟨false, 18⟩),
   (0x5DC902600000000A, .sread ⟨12, 4, 4, false⟩ .core ⟨false, 19⟩),
   (0x5DFA42800000000B, .sread ⟨15, 5, 1, false⟩ .die ⟨false, 20⟩),
   (0x5D2DA2A00000000C, .sread ⟨2, 6, 6, true⟩ .dev ⟨false, 21⟩),
   (0x5D5EE2C00000000D, .sread ⟨5, 7, 3, true⟩ .gen ⟨false, 22⟩),
   (0x5D8002E00000000E, .sread ⟨8, 0, 0, false⟩ .par ⟨false, 23⟩),
   (0x5DB343000000000F, .sread ⟨11, 1, 5, false⟩ .root ⟨false, 24⟩)]
def wordsSpecial3 : List (Nat × Instr) :=
  [(0x5DE4A32000000010, .sread ⟨14, 2, 2, true⟩ .copy ⟨false, 25⟩),
   (0x5D17E34000000011, .sread ⟨1, 3, 7, true⟩ .phase ⟨false, 26⟩),
   (0x5D49036000000012, .sread ⟨4, 4, 4, false⟩ .ms ⟨false, 27⟩),
   (0x5D7A488000000013, .sread ⟨7, 5, 1, false⟩ .cyc ⟨false, 68⟩),
   (0x5EFA400410000013, .swrite ⟨15, 5, 1, false⟩ .cyc ⟨false, 0⟩ (.sca 4) none)]
def wordsSpecial : List (Nat × Instr) := wordsSpecial1 ++ wordsSpecial2 ++ wordsSpecial3
theorem test_words_special : wordsSpecial.all (fun p => (decodeWord p.1 none).toOption == some p.2 && encodeWords p.2 == [p.1]) = true := by decide +kernel
/-- Words of this family, and what they stand for. -/
def wordsControl1 : List (Nat × Instr) :=
  [(0x60DEE00000000000, .nop ⟨13, 7, 3, true⟩ false),
   (0x6100000FFFFFE000, .bra ⟨0, 0, 0, false⟩ false 0xFFFFFE),
   (0x62334007FFFFF000, .braU ⟨3, 1, 5, false⟩ false 0x7FFFFF),
   (0x6364A0000000013F, .brx ⟨6, 2, 2, true⟩ false ⟨true, 63⟩),
   (0x6497F90800000000, .call ⟨9, 3, 7, true⟩ false 200 0x800000),
   (0x65C900E000000081, .callx ⟨12, 4, 4, false⟩ false 7 ⟨false, 129⟩),
   (0x66FA4000000000FF, .ret ⟨15, 5, 1, false⟩ false ⟨false, 255⟩),
   (0x702DC16000005000, .meet ⟨2, 6, 7, false⟩ false 11 5)]
def wordsControl2 : List (Nat × Instr) :=
  [(0x715EE00000000109, .mrset ⟨5, 7, 3, true⟩ false ⟨true, 9⟩),
   (0x7281C00000000000, .bar ⟨8, 0, 7, false⟩ false false),
   (0x73B3C00000000001, .barArv ⟨11, 1, 7, false⟩ false true),
   (0x74E5C00000000000, .barWait ⟨14, 2, 7, false⟩ false false),
   (0x7517C00000000001, .barg ⟨1, 3, 7, false⟩ false true),
   (0x7649C00000000000, .bargArv ⟨4, 4, 7, false⟩ false false),
   (0x777BC00000000001, .bargWait ⟨7, 5, 7, false⟩ false true),
   (0x78ADA43000000006, .fetch ⟨10, 6, 6, true⟩ true 33 6)]
def wordsControl3 : List (Nat × Instr) :=
  [(0x79DEFD2000000007, .fetchV ⟨13, 7, 3, true⟩ false 233 7),
   (0x7A00000000000000, .exit ⟨0, 0, 0, false⟩ false),
   (0x7B33C00000000000, .tail ⟨3, 1, 7, false⟩ false),
   (0x7C64A00000000000, .yield ⟨6, 2, 2, true⟩ false),
   (0x7D01C00019020005, .resampleL 5 (.vec 6) (.sca 2) none),
   (0x7E01C0001B100007, .resampleG 7 (.vec 6) (.short 0x10) none)]
def wordsControl : List (Nat × Instr) := wordsControl1 ++ wordsControl2 ++ wordsControl3
theorem test_words_control : wordsControl.all (fun p => (decodeWord p.1 none).toOption == some p.2 && encodeWords p.2 == [p.1]) = true := by decide +kernel
/-- Words of this family, and what they stand for. -/
def wordsAccess1 : List (Nat × Instr) :=
  [(0x80FA412432000D21, .ld ⟨15, 5, 1, false⟩ true ⟨false, 9, 1, 12, 0x80⟩ .die .acq .b16),
   (0x812DA29089FC1580, .ldNc ⟨2, 6, 6, true⟩ false ⟨true, 20, 0, 34, 0x7F⟩ .sys .acq .b128),
   (0x825EE120200C0001, .ldStr ⟨5, 7, 3, true⟩ true ⟨false, 9, 0, 8, 0x3⟩ .none .rlx .b8),
   (0x838001041FFC0960, .lds ⟨8, 0, 0, false⟩ false ⟨false, 8, 1, 7, 0xFF⟩ .gang .acq .b64),
   (0x84B341001C14045F, .ldp ⟨11, 1, 5, false⟩ 31 ⟨false, 8, 0, 7, 0x5⟩ .wg .rlx .b32),
   (0x90E4A1203007E040, .st ⟨14, 2, 2, true⟩ ⟨false, 9, 0, 12, 0x1⟩ (some 15) .none .rlx .b32),
   (0x9017E12030041240, .st ⟨1, 3, 7, true⟩ ⟨false, 9, 0, 12, 0x1⟩ none .dev .rel .b32),
   (0x9149013033F00A00, .sts ⟨4, 4, 4, false⟩ ⟨true, 9, 0, 12, 0xFC⟩ .gang .rel .b8)]
def wordsAccess2 : List (Nat × Instr) :=
  [(0x927A412430080631, .stp ⟨7, 5, 1, false⟩ 17 ⟨false, 9, 1, 12, 0x2⟩ .wg .rel .b16),
   (0x93ADA14030041760, .atomAdd ⟨10, 6, 6, true⟩ ⟨false, 10, 0, 12, 0x1⟩ none .sys .ar .b64),
   (0x94DEE14030066041, .atomMin ⟨13, 7, 3, true⟩ true ⟨false, 10, 0, 12, 0x1⟩ (some 3) .none .rlx .b32),
   (0x9500014030040540, .atomMax ⟨0, 0, 0, false⟩ false ⟨false, 10, 0, 12, 0x1⟩ none .wg .acq .b32),
   (0x9633414030000540, .atomAnd ⟨3, 1, 5, false⟩ ⟨false, 10, 0, 12, 0x0⟩ none .wg .acq .b32),
   (0x9764A14030040A40, .atomOr ⟨6, 2, 2, true⟩ ⟨false, 10, 0, 12, 0x1⟩ none .gang .rel .b32),
   (0x9897E14030080F40, .atomXor ⟨9, 3, 7, true⟩ ⟨false, 10, 0, 12, 0x2⟩ none .die .ar .b32),
   (0x99C90140300C1040, .atomExch ⟨12, 4, 4, false⟩ ⟨false, 10, 0, 12, 0x3⟩ none .dev .rlx .b32)]
def wordsAccess3 : List (Nat × Instr) :=
  [(0x9AFA414030070060, .atomCas ⟨15, 5, 1, false⟩ ⟨false, 10, 0, 12, 0x1⟩ (some 8) .none .rlx .b64),
   (0x9B2DA16030040B40, .atomFadd ⟨2, 6, 6, true⟩ ⟨false, 11, 0, 12, 0x1⟩ none .gang .ar),
   (0x9C5EE14030040A60, .redAdd ⟨5, 7, 3, true⟩ ⟨false, 10, 0, 12, 0x1⟩ none .gang .rel .b64),
   (0x9D80014030068041, .redMin ⟨8, 0, 0, false⟩ true ⟨false, 10, 0, 12, 0x1⟩ (some 4) .none .rlx .b32),
   (0x9EB3414030040661, .redMax ⟨11, 1, 5, false⟩ true ⟨false, 10, 0, 12, 0x1⟩ none .wg .rel .b64),
   (0x9FE4A14030040640, .redFadd ⟨14, 2, 2, true⟩ .f32 0 ⟨false, 10, 0, 12, 0x1⟩ none .wg .rel),
   (0x9F17E1403006C036, .redFadd ⟨1, 3, 7, true⟩ .bf16 6 ⟨false, 10, 0, 12, 0x1⟩ (some 6) .none .rlx)]
def wordsAccess : List (Nat × Instr) := wordsAccess1 ++ wordsAccess2 ++ wordsAccess3
theorem test_words_access : wordsAccess.all (fun p => (decodeWord p.1 none).toOption == some p.2 && encodeWords p.2 == [p.1]) = true := by decide +kernel
/-- Words of this family, and what they stand for. -/
def wordsSync1 : List (Nat × Instr) :=
  [(0xA049000000001300, .fence ⟨4, 4, 4, false⟩ .dev .ar),
   (0xA17A413433F40D41, .mwait ⟨7, 5, 1, false⟩ true ⟨true, 9, 1, 12, 0xFD⟩ .die .acq),
   (0xA2ADA154300C0060, .mwaitB64 ⟨10, 6, 6, true⟩ false ⟨true, 10, 1, 12, 0x3⟩ .none .rlx),
   (0xA3DEE0000003200E, .chain ⟨13, 7, 3, true⟩ 9 14),
   (0xA400000000032000, .chainAll ⟨0, 0, 0, false⟩ 9),
   (0xA53349F00002C000, .drain ⟨3, 1, 5, false⟩ 0x4F 6),
   (0xA664A7B00002C003, .chstat ⟨6, 2, 2, true⟩ 61 6 3),
   (0xA797E0000003E000, .chreset ⟨9, 3, 7, true⟩ 15)]
def wordsSync2 : List (Nat × Instr) :=
  [(0xA8C908945000000B, .subscribe ⟨12, 4, 4, false⟩ 0x44 20 11),
   (0xA9FA40000000000D, .unsub ⟨15, 5, 1, false⟩ 13),
   (0xAA2DA12033E4001E, .wown ⟨2, 6, 6, true⟩ 30 ⟨false, 9, 0, 12, 0xF9⟩)]
def wordsSync : List (Nat × Instr) := wordsSync1 ++ wordsSync2
theorem test_words_sync : wordsSync.all (fun p => (decodeWord p.1 none).toOption == some p.2 && encodeWords p.2 == [p.1]) = true := by decide +kernel
/-- Words of this family, and what they stand for. -/
def wordsEngine1 : List (Nat × Instr) :=
  [(0xB05EE83484038000, .copy ⟨5, 7, 3, true⟩ 0x41 33 (some 12) .none),
   (0xB080083484001400, .copy ⟨8, 0, 0, false⟩ 0x41 33 none .sys),
   (0xB1B3483484000880, .copyT ⟨11, 1, 5, false⟩ 0x41 33 none .gang .b128),
   (0xB2E4A91408000020, .hgather ⟨14, 2, 2, true⟩ 0x48 2 .b16),
   (0xB317E00460000005, .cbset ⟨1, 3, 7, true⟩ 24 5),
   (0xB449011418000007, .cbwaitP ⟨4, 4, 4, false⟩ 8 (.sca 6) 7 none),
   (0xB57A411DFC000003, .cbwaitC ⟨7, 5, 1, false⟩ 8 (.short 0x7F) 3 none),
   (0xB6ADA00C08000002, .cbrelP ⟨10, 6, 6, true⟩ (.short 0x02) 2 none)]
def wordsEngine2 : List (Nat × Instr) :=
  [(0xB7DEE004F0000001, .cbrelC ⟨13, 7, 3, true⟩ (.sca 60) 1 none),
   (0xB80000C528000000, .htest ⟨0, 0, 0, false⟩ 6 0x4A),
   (0xB93340FA24000001, .hwait ⟨3, 1, 5, false⟩ true 7 (.cst 2 9) none),
   (0xBA64A0052C000000, .hcancel ⟨6, 2, 2, true⟩ 0x4B),
   (0xBB97E81530000013, .hmov ⟨9, 3, 7, true⟩ 0x40 0x4C 19)]
def wordsEngine : List (Nat × Instr) := wordsEngine1 ++ wordsEngine2
theorem test_words_engine : wordsEngine.all (fun p => (decodeWord p.1 none).toOption == some p.2 && encodeWords p.2 == [p.1]) = true := by decide +kernel
/-- Words of this family, and what they stand for. -/
def wordsMatrix1 : List (Nat × Instr) :=
  [(0xC0C9C280803E1201, .mldb ⟨12, 4, 7, false⟩ true 5 128 31 9),
   (0xC1FBC180000E127C, .mldbPe ⟨15, 5, 7, false⟩ false 3 0 7 9 62),
   (0xC22DD8643F361200, .mlda ⟨2, 6, 7, false⟩ 6 100 27 63 9),
   (0xC35FC47F280001F4, .mldaV ⟨5, 7, 7, false⟩ 1 127 40 250),
   (0xC481C80103040800, .mldaG ⟨8, 0, 7, false⟩ 2 1 2 3 4),
   (0xC5B3C00300080000, .mzero ⟨11, 1, 7, false⟩ false false 3 0 4),
   (0xC5E5C40380080001, .mzero ⟨14, 2, 7, false⟩ true true 3 128 4),
   (0xC617D9B280280001, .mma ⟨1, 3, 7, false⟩ true 6 3 50 128 20)]
def wordsMatrix2 : List (Nat × Instr) :=
  [(0xC749C53200280000, .mmaZ ⟨4, 4, 7, false⟩ false 1 2 50 0 20),
   (0xC87BDC0280FA0000, .mmas ⟨7, 5, 7, false⟩ 7 2 128 125),
   (0xC9ADC002000A4201, .mscale ⟨10, 6, 7, false⟩ true 2 0 5 33),
   (0xC9DFC402000A0000, .mscaleL ⟨13, 7, 7, false⟩ false 2 0 5),
   (0xCA01C00700101200, .mside ⟨0, 0, 7, false⟩ 7 8 9),
   (0xCA33C00700020001, .msideQ ⟨3, 1, 7, false⟩ 7 1),
   (0xCB65C0098000009B, .mrdV ⟨6, 2, 7, false⟩ true 9 128 77),
   (0xCC97D00900067E00, .mrdSp ⟨9, 3, 7, false⟩ false 4 9 0 3 63)]
def wordsMatrix3 : List (Nat × Instr) :=
  [(0xCDC9C0090000009A, .mwrV ⟨12, 4, 7, false⟩ false 9 0 77),
   (0xCEFBD00980067E01, .mwrSp ⟨15, 5, 7, false⟩ true 4 9 128 3 63),
   (0xCF2DC180FF7E1014, .mcomp ⟨2, 6, 7, false⟩ 3 255 63 8 10),
   (0xD05FD9B200281801, .mspma ⟨5, 7, 7, false⟩ true 6 3 50 0 20 12),
   (0xD181D9B200281800, .mspmaZ ⟨8, 0, 7, false⟩ false 6 3 50 0 20 12),
   (0xD2B3CC0080FE1085, .mdrain ⟨11, 1, 7, false⟩ true 3 0 128 127 8 0x42),
   (0xD3E5CC0100C8109E, .mdrainAdd ⟨14, 2, 7, false⟩ false 3 1 0 100 8 0x4F),
   (0xD417C00002000000, .mgang ⟨1, 3, 7, false⟩ 2)]
def wordsMatrix4 : List (Nat × Instr) :=
  [(0xD549C00000000000, .mchk ⟨4, 4, 7, false⟩),
   (0xD67BC00700101200, .msideW ⟨7, 5, 7, false⟩ 7 8 9)]
def wordsMatrix : List (Nat × Instr) := wordsMatrix1 ++ wordsMatrix2 ++ wordsMatrix3 ++ wordsMatrix4
theorem test_words_matrix : wordsMatrix.all (fun p => (decodeWord p.1 none).toOption == some p.2 && encodeWords p.2 == [p.1]) = true := by decide +kernel
/-- Words of this family, and what they stand for. -/
def wordsSystem1 : List (Nat × Instr) :=
  [(0xE0ADA00C44000000, .trap ⟨10, 6, 6, true⟩ (.short 0x11) none),
   (0xE1DEE00000000000, .brk ⟨13, 7, 3, true⟩),
   (0xE200000911090002, .icinv ⟨0, 0, 0, false⟩ .gang (.cst 1 4) (.sca 9) none),
   (0xE333400411060000, .dcflush ⟨3, 1, 5, false⟩ (.sca 4) (.sca 6) none),
   (0xE464A00484000000, .trec ⟨6, 2, 2, true⟩ (.sca 33) none),
   (0xE597E00086010000, .trecV ⟨9, 3, 7, true⟩ (.vec 33) (.cst 0 1) none),
   (0xE6C909D000000000, .snap ⟨12, 4, 4, false⟩ ⟨true, 78⟩)]
def wordsSystem : List (Nat × Instr) := wordsSystem1
theorem test_words_system : wordsSystem.all (fun p => (decodeWord p.1 none).toOption == some p.2 && encodeWords p.2 == [p.1]) = true := by decide +kernel

/-! ## A small machine: one launch with a group of eight threads on core 0, and tenant 0 -/

def lanes (n : Nat) (b : Nat → BitVec 7) (m : SMap Thread) : SMap Thread := m.map fun p => (p.1, if p.1 < n then { p.2 with preds := b p.1 } else p.2)

/-- Predicate 1 holds in threads 0 to 2, predicate 2 in threads 0 to 4, predicate 3 in none, predicate 4 in thread 0. -/
def preds (k : Nat) : BitVec 7 := (if k < 3 then 2 else 0) ||| (if k < 5 then 4 else 0) ||| if k < 1 then 16 else 0

/-- A tenant with address space 0. -/
def tenant0 : Tenant := { Tenant.none with live := true, cfg := ⟨false, 0, 9, 0x8000, 4, 0, 0, 0, 0x100000, 16, 0x200000, 0⟩ }

/-- Region 0 is at die 0, in the second tier: the L2 holds its first line, and the hub's TLB maps the page at 0 to the frame at 0x10000 and the page at 0x10000 to
the frame at 0x20000. -/
def die0 : Die := { Die.reset with l2 := [(0, [⟨0, 0, memKey 1 0x10000, true, true, false⟩])] }
def hubTlb0 : List TlbEntry := [⟨0, 0, 65536, memKey 1 0x10000, true, true, true⟩, ⟨0, 65536, 65536, memKey 1 0x20000, true, true, true⟩]

def lab : State :=
  let s := State.reset.placeWords [0, 0, 0, 0]
  { (s.modWg 0 fun w => { w with threads := lanes 8 preds w.threads }) with
    tenants := [(0, tenant0)], dies := [(0, die0)], hubTlb := hubTlb0, homeMap := [(0, 0x88000000)] }

/-- The lab with its group, or its workgroup, changed. -/
def labG (f : Group → Group) : State := lab.modGroup 0 0 f
def labW (f : Wg → Wg) : State := lab.modWg 0 f

def wg0 : Wg := placedWg (placedLaunch 0) 1 0 [0, 0, 0, 0]
def noCtx : Ctx :=
  { c := 0, g := 0, grp := startGroup placedRec 0 0 0, wg := wg0, cr := Core.reset, l := placedLaunch 0, h := plain, op := 0, lit := none, pc := 0, now := 0
    fin := 0, lanes := [], ex := [], ctr := 0 }
/-- The issue of the group that `cur` names. -/
def at_ (s : State) (h : Head) (op : Nat) (lit : Lit := none) : Ctx := (s.ctx? h op lit).getD noCtx
/-- The workgroup and the launch of core 0. -/
def wgOf (s : State) (c : Nat := 0) : Wg := (s.wg? c).getD wg0
def launchAt (s : State) (c : Nat := 0) : Launch := (s.launchOf c).getD (placedLaunch 0)

def canIssue (s : State) (h : Head) (op : Nat) (lit : Lit) : Bool :=
  match s.ctx? h op lit with
  | some x => x.grp.holdOp.isNone && (h.ct == 0 || decide (x.grp.ct h.ct.toNat < 31)) && s.regsSound && !x.r.chk
  | none => false

theorem ctx_of {s : State} {h : Head} {op : Nat} {lit : Lit} (p : (s.ctx? h op lit).isSome = true) : s.ctx? h op lit = some (at_ s h op lit) := by
  cases hx : s.ctx? h op lit with
  | none => simp [hx] at p
  | some x => simp [at_, hx]

theorem issues_of {s : State} {h : Head} {op : Nat} {lit : Lit} (p : canIssue s h op lit = true) : Issues s h op lit (at_ s h op lit) := by
  unfold canIssue at p
  cases hx : s.ctx? h op lit with
  | none => simp [hx] at p
  | some x => simp_all [at_, Issues]

theorem checked_of {s : State} {h : Head} {op : Nat} {lit : Lit} {ps : List Loc} (p : canIssue s h op lit = true) : Checked (at_ s h op lit) ps := by
  unfold canIssue at p
  cases hx : s.ctx? h op lit with
  | none => simp [hx] at p
  | some x => simp_all [at_, Checked]

theorem comes_of {s : State} {h : Head} {op : Nat} {ps : List Loc} (p : canIssue s h op none = true) : Comes s h op (at_ s h op) ps :=
  ⟨issues_of p, checked_of p⟩

/-- What holds of the numbers from `a` to `b` holds one by one. -/
theorem between {P : Nat → Prop} (a b : Nat) (h : ∀ i, i < b + 1 - a → P (a + i)) (i : Nat) (h1 : a ≤ i) (h2 : i ≤ b) : P i := by
  have e : a + (i - a) = i := by omega
  exact e ▸ h (i - a) (by omega)

/-- What holds of every entry holds of what a key names. -/
theorem entries {α : Type} {P : Nat → α → Prop} : ∀ {m : SMap α}, (∀ p ∈ m, P p.1 p.2) → ∀ k v, SMap.get? m k = some v → P k v
  | [], _, k, v, e => by simp [SMap.get?] at e
  | (j, a) :: m, h, k, v, e => by
    unfold SMap.get? at e
    split at e
    · rename_i hk
      subst hk
      simp at e
      exact e ▸ h (j, a) (by simp)
    · exact entries (fun p hp => h p (by simp [hp])) k v e

/-- What a test holds of, where there is something, holds of it. -/
theorem someOf {α : Type} {o : Option α} {P : α → Prop} [DecidablePred P] (h : o.any (fun a => decide (P a)) = true) : ∃ a, o = some a ∧ P a := by
  cases o with
  | none => simp at h
  | some a => exact ⟨a, rfl, by simpa using h⟩

/-! ## Words of the vector row -/

theorem witness_IntegerWordsComplete : ∃ r, intRow (.iadd plain false false ⟨false, 255⟩ (.vec 0) .long (some 0xFFFFFFFF)) = some r ∧
    Issues lab r.h r.op r.lit (at_ lab r.h r.op r.lit) ∧ r.Legal (at_ lab r.h r.op r.lit) ∧ Checked (at_ lab r.h r.op r.lit) (r.places (at_ lab r.h r.op r.lit)) ∧
    operandWait (at_ lab r.h r.op r.lit) (some r.d) r.srcs = none ∧ Quiet (at_ lab r.h r.op r.lit) (r.results lab (at_ lab r.h r.op r.lit)) ∧
    trapped (r.flags lab (at_ lab r.h r.op r.lit)) (at_ lab r.h r.op r.lit).r.tmask = false :=
  ⟨_, rfl, issues_of (by decide +kernel), by unfold Row.Legal; decide +kernel, checked_of (by decide +kernel), by decide +kernel,
    by unfold Quiet; decide +kernel, by decide +kernel⟩

theorem witness_FloatWordsComplete : ∃ r, fpRow (.ffma plain true false .rz ⟨false, 0⟩ (.vec 2) (.vec 3) (.vec 255) none) = some r ∧
    Issues lab r.h r.op r.lit (at_ lab r.h r.op r.lit) ∧ r.Legal (at_ lab r.h r.op r.lit) ∧ Checked (at_ lab r.h r.op r.lit) (r.places (at_ lab r.h r.op r.lit)) ∧
    operandWait (at_ lab r.h r.op r.lit) (some r.d) r.srcs = none ∧ Quiet (at_ lab r.h r.op r.lit) (r.results lab (at_ lab r.h r.op r.lit)) ∧
    trapped (r.flags lab (at_ lab r.h r.op r.lit)) (at_ lab r.h r.op r.lit).r.tmask = false :=
  ⟨_, rfl, issues_of (by decide +kernel), by unfold Row.Legal; decide +kernel, checked_of (by decide +kernel), by decide +kernel,
    by unfold Quiet; decide +kernel, by decide +kernel⟩

/-- The group awaits a reply; its counter 1 is at 31; the launch checks for stalls, and a write to v0 of thread slot 0 is to come. -/
def labHold : State := labG fun g => { g with holdOp := some 99 }
def lab31 : State := labG fun g => { g with cts := [(1, 31)] }
def labBusy : State := (labW fun w => { w with pend := [(20, .vec 0 0)] }).modLaunch 0 fun l => { l with rcd := { l.rcd with ctl := 0x80 } }
/-- Words of rows: one that reads an empty queue and names counter 1, one whose destination is illegal, one that reads v0. -/
def OrderedWitness (f : Instr → Option Row) (i j k : Instr) : Prop := ∃ r r2 r3, f i = some r ∧ f j = some r2 ∧ f k = some r3 ∧
  (labHold.ctx? r.h r.op r.lit = some (at_ labHold r.h r.op r.lit) ∧ (at_ labHold r.h r.op r.lit).grp.holdOp ≠ none) ∧
  (lab.ctx? r2.h r2.op r2.lit = some (at_ lab r2.h r2.op r2.lit) ∧ (at_ lab r2.h r2.op r2.lit).grp.holdOp = none ∧ ¬ r2.Legal (at_ lab r2.h r2.op r2.lit)) ∧
  (lab31.ctx? r.h r.op r.lit = some (at_ lab31 r.h r.op r.lit) ∧ (at_ lab31 r.h r.op r.lit).grp.holdOp = none ∧ r.Legal (at_ lab31 r.h r.op r.lit) ∧ r.h.ct ≠ 0 ∧
    31 ≤ (at_ lab31 r.h r.op r.lit).grp.ct r.h.ct.toNat) ∧
  (lab.ctx? r.h r.op r.lit = some (at_ lab r.h r.op r.lit) ∧ (at_ lab r.h r.op r.lit).grp.holdOp = none ∧ r.Legal (at_ lab r.h r.op r.lit) ∧
    (at_ lab r.h r.op r.lit).grp.ct r.h.ct.toNat < 31 ∧ operandWait (at_ lab r.h r.op r.lit) (some r.d) r.srcs = some (.portEmpty 1)) ∧
  (labBusy.ctx? r3.h r3.op r3.lit = some (at_ labBusy r3.h r3.op r3.lit) ∧ (at_ labBusy r3.h r3.op r3.lit).grp.holdOp = none ∧ r3.Legal (at_ labBusy r3.h r3.op r3.lit) ∧
    r3.h.ct = 0 ∧ operandWait (at_ labBusy r3.h r3.op r3.lit) (some r3.d) r3.srcs = none ∧ ¬ Checked (at_ labBusy r3.h r3.op r3.lit) (r3.places (at_ labBusy r3.h r3.op r3.lit)))
theorem witness_IntegerWordsComplete_ordered : OrderedWitness intRow (.iadd ⟨4, 1, 7, false⟩ false false ⟨false, 255⟩ (.vec 0) (.sca 0x51) none)
    (.iadd plain false false ⟨true, 0x60⟩ (.short 0) (.short 1) none) (.iadd plain false false ⟨false, 255⟩ (.vec 0) (.short 1) none) :=
  ⟨_, _, _, rfl, rfl, rfl, ⟨ctx_of (by decide +kernel), by decide +kernel⟩, ⟨ctx_of (by decide +kernel), by decide +kernel, by unfold Row.Legal; decide +kernel⟩,
    ⟨ctx_of (by decide +kernel), by decide +kernel, by unfold Row.Legal; decide +kernel, by decide, by decide +kernel⟩,
    ⟨ctx_of (by decide +kernel), by decide +kernel, by unfold Row.Legal; decide +kernel, by decide +kernel, by decide +kernel⟩,
    ⟨ctx_of (by decide +kernel), by decide +kernel, by unfold Row.Legal; decide +kernel, rfl, by decide +kernel, by unfold Checked; decide +kernel⟩⟩
theorem witness_FloatWordsComplete_ordered : OrderedWitness fpRow (.ffma ⟨4, 1, 7, false⟩ true false .rz ⟨false, 0⟩ (.vec 2) (.vec 3) (.sca 0x51) none)
    (.ffma plain true false .rz ⟨true, 0x60⟩ (.short 2) (.short 3) (.short 4) none) (.ffma plain true false .rz ⟨false, 0⟩ (.vec 2) (.vec 3) (.vec 255) none) :=
  ⟨_, _, _, rfl, rfl, rfl, ⟨ctx_of (by decide +kernel), by decide +kernel⟩, ⟨ctx_of (by decide +kernel), by decide +kernel, by unfold Row.Legal; decide +kernel⟩,
    ⟨ctx_of (by decide +kernel), by decide +kernel, by unfold Row.Legal; decide +kernel, by decide, by decide +kernel⟩,
    ⟨ctx_of (by decide +kernel), by decide +kernel, by unfold Row.Legal; decide +kernel, by decide +kernel, by decide +kernel⟩,
    ⟨ctx_of (by decide +kernel), by decide +kernel, by unfold Row.Legal; decide +kernel, rfl, by decide +kernel, by unfold Checked; decide +kernel⟩⟩
/-- Every flag traps, and a product is infinity by zero. -/
def labFp : State := (labW fun w => { w with vregs := [(vregKey 0 3, 0x7F800000)] }).modLaunch 0 fun l => { l with rcd := { l.rcd with tmask := 0x1F } }
theorem witness_FloatWordsComplete_traps : ∃ r, fpRow (.ffma plain true false .rz ⟨false, 0⟩ (.vec 2) (.vec 3) (.vec 255) none) = some r ∧
    Issues labFp r.h r.op r.lit (at_ labFp r.h r.op r.lit) ∧ r.Legal (at_ labFp r.h r.op r.lit) ∧ Checked (at_ labFp r.h r.op r.lit) (r.places (at_ labFp r.h r.op r.lit)) ∧
    operandWait (at_ labFp r.h r.op r.lit) (some r.d) r.srcs = none ∧ Quiet (at_ labFp r.h r.op r.lit) (r.results labFp (at_ labFp r.h r.op r.lit)) ∧
    trapped (r.flags labFp (at_ labFp r.h r.op r.lit)) (at_ labFp r.h r.op r.lit).r.tmask = true :=
  ⟨_, rfl, issues_of (by decide +kernel), by unfold Row.Legal; decide +kernel, checked_of (by decide +kernel), by decide +kernel,
    by unfold Quiet; decide +kernel, by decide +kernel⟩

/-- A reduction of vector values into a scalar register. -/
theorem witness_IssueWordsComplete : ∃ r ok more, issueRow lab (at_ lab plain 0x5A) (.redg plain .s32 .add ⟨true, 63⟩ (.vec 2) none) = some (r, ok, more) ∧
    Issues lab r.h r.op r.lit (at_ lab plain 0x5A) ∧ r.Legal (at_ lab plain 0x5A) ∧ ok ∧ Checked (at_ lab plain 0x5A) (r.places (at_ lab plain 0x5A) ++ more) ∧
    operandWait (at_ lab plain 0x5A) (some r.d) r.srcs = none ∧ Quiet (at_ lab plain 0x5A) (r.results lab (at_ lab plain 0x5A)) ∧
    trapped (r.flags lab (at_ lab plain 0x5A)) (at_ lab plain 0x5A).r.tmask = false :=
  ⟨_, _, _, rfl, issues_of (by decide +kernel), by unfold Row.Legal; decide +kernel, trivial, checked_of (by decide +kernel), by decide +kernel,
    by unfold Quiet; decide +kernel, by decide +kernel⟩

/-- A comparison into the last predicate, combined with the first. -/
theorem witness_LaneWordsComplete : ∃ r, laneRow lab (at_ lab plain 0x42) (.icmpLt plain .and 0 true ⟨false, 6⟩ (.vec 7) (.short 100) none) = some r ∧
    Issues lab r.h r.op r.lit (at_ lab plain 0x42) ∧ r.Legal (at_ lab plain 0x42) ∧ Checked (at_ lab plain 0x42) (r.places (at_ lab plain 0x42)) ∧
    operandWait (at_ lab plain 0x42) none (r.srcs.map (·.2)) = none ∧ Quiet (at_ lab plain 0x42) (r.results (at_ lab plain 0x42)) ∧
    trapped (r.flags (at_ lab plain 0x42)) (at_ lab plain 0x42).r.tmask = false :=
  ⟨_, rfl, issues_of (by decide +kernel), by unfold LaneRow.Legal; exact ⟨⟨rfl, by decide⟩, by decide +kernel, by decide +kernel⟩,
    checked_of (by decide +kernel), by decide +kernel, by unfold Quiet; decide +kernel, by decide +kernel⟩

theorem witness_CycleCountWritten : Issues lab plain 0x5E none (at_ lab plain 0x5E) ∧ srcIsVec (.sca 62) = false ∧ srcOk (at_ lab plain 0x5E) .i64 (.sca 62) = true ∧
    Checked (at_ lab plain 0x5E) (headLocs (at_ lab plain 0x5E) ++ srcLocs (at_ lab plain 0x5E) .i64 (.sca 62)) ∧ (at_ lab plain 0x5E).ex ≠ [] :=
  ⟨issues_of (by decide +kernel), by decide, by decide +kernel, checked_of (by decide +kernel), by decide +kernel⟩

theorem witness_UnassignedOpcodeRaises : 2 ^ 64 - 1 < 2 ^ 64 ∧ UnassignedCode ((2 ^ 64 - 1) / 2 ^ 56) ∧ UnassignedCode 0 ∧ UnassignedCode 0x3B ∧
    lab.ctx? (headOf ((0xFF : BitVec 8).toNat * 2 ^ 56 + (0 : BitVec 56).toNat)) (0xFF : BitVec 8).toNat none =
      some (at_ lab (headOf ((0xFF : BitVec 8).toNat * 2 ^ 56 + (0 : BitVec 56).toNat)) (0xFF : BitVec 8).toNat) :=
  ⟨by decide, by unfold UnassignedCode; decide, by unfold UnassignedCode; decide, by unfold UnassignedCode; decide, ctx_of (by decide +kernel)⟩

/-! ## Control words -/

/-- Every executing set of a branch: none of the threads, the smaller side, the larger side, all of them. -/
theorem witness_BranchesComplete_direct : Comes lab ⟨0, 0, 3, false⟩ 0x61 (at_ lab ⟨0, 0, 3, false⟩ 0x61) [] ∧ exSlots (at_ lab ⟨0, 0, 3, false⟩ 0x61) = [] ∧
    Comes lab ⟨0, 0, 1, false⟩ 0x61 (at_ lab ⟨0, 0, 1, false⟩ 0x61) [] ∧ (exSlots (at_ lab ⟨0, 0, 1, false⟩ 0x61)).length = 3 ∧
    Comes lab ⟨0, 0, 2, false⟩ 0x61 (at_ lab ⟨0, 0, 2, false⟩ 0x61) [] ∧ (exSlots (at_ lab ⟨0, 0, 2, false⟩ 0x61)).length = 5 ∧
    Comes lab plain 0x61 (at_ lab plain 0x61) [] ∧ idleSlots (at_ lab plain 0x61) = [] :=
  ⟨comes_of (by decide +kernel), by decide +kernel, comes_of (by decide +kernel), by decide +kernel, comes_of (by decide +kernel), by decide +kernel,
    comes_of (by decide +kernel), by decide +kernel⟩
theorem witness_BranchesComplete_call : Comes lab ⟨0, 7, 1, false⟩ 0x64 (at_ lab ⟨0, 7, 1, false⟩ 0x64) ((exSlots (at_ lab ⟨0, 7, 1, false⟩ 0x64)).map fun k => .vec k 255) ∧
    (255 : BitVec 8).toNat < (at_ lab ⟨0, 7, 1, false⟩ 0x64).r.v ∧ returnOffset (at_ lab ⟨0, 7, 1, false⟩ 0x64) = some 40 ∧
    Quiet (at_ lab ⟨0, 7, 1, false⟩ 0x64) (links (at_ lab ⟨0, 7, 1, false⟩ 0x64) 255 40) :=
  ⟨comes_of (by decide +kernel), by decide +kernel, by decide +kernel, by unfold Quiet; decide +kernel⟩
/-- Indirect targets: half of the threads at one, half at another. -/
def labX : State :=
  let bs := natToBytes 8 0xE1800000C1000000
  { (labW fun w => { w with vregs := [(vregKey 0 6, 0x100), (vregKey 1 6, 0x180)] }) with
    mem := Mem.writeBytes (Mem.writeBytes (Mem.writeBytes [] (memKey 1 0x10000) bs) (memKey 1 0x10100) bs) (memKey 1 0x10180) bs }
theorem witness_BranchesComplete_indirect :
    (Comes labX plain 0x63 (at_ labX plain 0x63) (xregLocs (at_ labX plain 0x63) ⟨false, 6⟩) ∧ xregOk (at_ labX plain 0x63) ⟨false, 6⟩ = true ∧
      (at_ labX plain 0x63).grp.slots ≠ [] ∧ badThreads labX (at_ labX plain 0x63) true ⟨false, 6⟩ = []) ∧
    (Comes labX ⟨0, 0, 1, false⟩ 0x65 (at_ labX ⟨0, 0, 1, false⟩ 0x65)
        (xregLocs (at_ labX ⟨0, 0, 1, false⟩ 0x65) ⟨false, 6⟩ ++ (exSlots (at_ labX ⟨0, 0, 1, false⟩ 0x65)).map fun k => .vec k 9) ∧
      xregOk (at_ labX ⟨0, 0, 1, false⟩ 0x65) ⟨false, 6⟩ = true ∧ (9 : BitVec 8).toNat < (at_ labX ⟨0, 0, 1, false⟩ 0x65).r.v ∧
      (at_ labX ⟨0, 0, 1, false⟩ 0x65).grp.slots ≠ [] ∧ badThreads labX (at_ labX ⟨0, 0, 1, false⟩ 0x65) true ⟨false, 6⟩ = [] ∧
      returnOffset (at_ labX ⟨0, 0, 1, false⟩ 0x65) = some 40 ∧ Quiet (at_ labX ⟨0, 0, 1, false⟩ 0x65) (links (at_ labX ⟨0, 0, 1, false⟩ 0x65) 9 40)) ∧
    (Comes labX plain 0x66 (at_ labX plain 0x66) (xregLocs (at_ labX plain 0x66) ⟨false, 6⟩) ∧ xregOk (at_ labX plain 0x66) ⟨false, 6⟩ = true ∧
      (at_ labX plain 0x66).grp.slots ≠ [] ∧ badThreads labX (at_ labX plain 0x66) false ⟨false, 6⟩ = []) :=
  ⟨⟨comes_of (by decide +kernel), by decide +kernel⟩,
    ⟨comes_of (by decide +kernel), by decide +kernel, by decide, by decide +kernel, by decide +kernel, by decide +kernel, by unfold Quiet; decide +kernel⟩,
    ⟨comes_of (by decide +kernel), by decide +kernel⟩⟩

/-- A target that is no multiple of 8, at one thread of many; a program that lies above the group. -/
def labXb : State := { labX with cores := (labX.modWg 0 fun w => { w with vregs := [(vregKey 0 6, 0x104), (vregKey 1 6, 0x180)] }).cores }
def labFar : State := labX.modLaunch 0 fun l => { l with rcd := { l.rcd with entry := 0x1000 } }
theorem witness_BranchesComplete_bad :
    (Comes labXb plain 0x63 (at_ labXb plain 0x63) (xregLocs (at_ labXb plain 0x63) ⟨false, 6⟩) ∧ xregOk (at_ labXb plain 0x63) ⟨false, 6⟩ = true ∧
      badThreads labXb (at_ labXb plain 0x63) true ⟨false, 6⟩ = [0]) ∧
    (Comes labXb ⟨0, 7, 1, false⟩ 0x65 (at_ labXb ⟨0, 7, 1, false⟩ 0x65)
        (xregLocs (at_ labXb ⟨0, 7, 1, false⟩ 0x65) ⟨false, 6⟩ ++ (exSlots (at_ labXb ⟨0, 7, 1, false⟩ 0x65)).map fun k => .vec k 9) ∧
      xregOk (at_ labXb ⟨0, 7, 1, false⟩ 0x65) ⟨false, 6⟩ = true ∧ (9 : BitVec 8).toNat < (at_ labXb ⟨0, 7, 1, false⟩ 0x65).r.v ∧
      badThreads labXb (at_ labXb ⟨0, 7, 1, false⟩ 0x65) true ⟨false, 6⟩ ≠ [] ∧ returnOffset (at_ labXb ⟨0, 7, 1, false⟩ 0x65) = some 40 ∧
      Quiet (at_ labXb ⟨0, 7, 1, false⟩ 0x65) (links (at_ labXb ⟨0, 7, 1, false⟩ 0x65) 9 40)) ∧
    (Comes labXb plain 0x66 (at_ labXb plain 0x66) (xregLocs (at_ labXb plain 0x66) ⟨false, 6⟩) ∧ xregOk (at_ labXb plain 0x66) ⟨false, 6⟩ = true ∧
      badThreads labXb (at_ labXb plain 0x66) false ⟨false, 6⟩ ≠ []) :=
  ⟨⟨comes_of (by decide +kernel), by decide +kernel⟩,
    ⟨comes_of (by decide +kernel), by decide +kernel, by decide, by decide +kernel, by decide +kernel, by unfold Quiet; decide +kernel⟩,
    ⟨comes_of (by decide +kernel), by decide +kernel⟩⟩
theorem witness_BranchesComplete_far :
    (Comes labFar plain 0x64 (at_ labFar plain 0x64) ((exSlots (at_ labFar plain 0x64)).map fun k => .vec k 255) ∧ (255 : BitVec 8).toNat < (at_ labFar plain 0x64).r.v ∧
      exSlots (at_ labFar plain 0x64) ≠ [] ∧ returnOffset (at_ labFar plain 0x64) = none) ∧
    (Comes labFar plain 0x65 (at_ labFar plain 0x65) (xregLocs (at_ labFar plain 0x65) ⟨false, 6⟩ ++ (exSlots (at_ labFar plain 0x65)).map fun k => .vec k 9) ∧
      xregOk (at_ labFar plain 0x65) ⟨false, 6⟩ = true ∧ (9 : BitVec 8).toNat < (at_ labFar plain 0x65).r.v ∧ exSlots (at_ labFar plain 0x65) ≠ [] ∧
      returnOffset (at_ labFar plain 0x65) = none) :=
  ⟨⟨comes_of (by decide +kernel), by decide +kernel⟩, comes_of (by decide +kernel), by decide +kernel⟩

theorem witness_UniformBranch : Comes lab plain 0x62 (at_ lab plain 0x62) [] ∧ idleSlots (at_ lab plain 0x62) = [] ∧
    Comes lab ⟨0, 0, 3, false⟩ 0x62 (at_ lab ⟨0, 0, 3, false⟩ 0x62) [] ∧ exSlots (at_ lab ⟨0, 0, 3, false⟩ 0x62) = [] ∧
    Comes lab ifP1 0x62 (at_ lab ifP1 0x62) [] ∧ exSlots (at_ lab ifP1 0x62) ≠ [] ∧ idleSlots (at_ lab ifP1 0x62) ≠ [] :=
  ⟨comes_of (by decide +kernel), by decide +kernel, comes_of (by decide +kernel), by decide +kernel, comes_of (by decide +kernel), by decide +kernel,
    by decide +kernel⟩

/-- All records but the last in use; a MRSET to it afterwards. -/
def labM : State := labW fun w => { w with meet := (List.range 31).map fun n => (n, ⟨0, 1, 0, 0⟩) }
theorem witness_MeetingWordsComplete :
    (Comes labM plain 0x70 (at_ labM plain 0x70) ((at_ labM plain 0x70).grp.slots.map fun k => .vec k 0) ∧ (0 : BitVec 8).toNat < (at_ labM plain 0x70).r.v ∧
      (at_ labM plain 0x70).grp.slots ≠ [] ∧ sharedMr (at_ labM plain 0x70) 0 ∧ SMap.lowestFree (at_ labM plain 0x70).wg.meet 32 = some 31 ∧
      Quiet (at_ labM plain 0x70) ((at_ labM plain 0x70).grp.slots.map fun k => (.vec k 0, 0))) ∧
    (Comes labM plain 0x71 (at_ labM plain 0x71) (xregLocs (at_ labM plain 0x71) ⟨false, 6⟩) ∧ xregOk (at_ labM plain 0x71) ⟨false, 6⟩ = true ∧
      (∀ k ∈ exSlots (at_ labM plain 0x71), (xregVal (at_ labM plain 0x71) ⟨false, 6⟩ k).toNat < 64) ∧
      ∀ k ∈ exSlots (at_ labM plain 0x71), ∀ n, mrRec (xregVal (at_ labM plain 0x71) ⟨false, 6⟩ k) = some n → (SMap.get? (at_ labM plain 0x71).wg.meet n).isSome) :=
  ⟨⟨comes_of (by decide +kernel), by decide, by decide +kernel, by unfold sharedMr; decide +kernel, by decide +kernel, by unfold Quiet; decide +kernel⟩,
    comes_of (by decide +kernel), by decide +kernel, by decide +kernel, by
      intro k hk n hn
      have : ∀ k ∈ exSlots (at_ labM plain 0x71), mrRec (xregVal (at_ labM plain 0x71) ⟨false, 6⟩ k) = none := by decide +kernel
      rw [this k hk] at hn
      cases hn⟩

/-- A dispenser with coordinates left, and a request at its head for two lanes. -/
def labD : State :=
  lab.modLaunch 0 fun l => { l with disp := { l.disp with extent := 8, reqs := [⟨0, 7, true, 3, 1, 0, [0, 1], false, 9⟩] }, rcd := { l.rcd with x := 8, y := 1, z := 1 } }
theorem witness_CoordinatesFetched_request :
    (Comes labD plain 0x78 (at_ labD plain 0x78) (if (at_ labD plain 0x78).ex.isEmpty then [] else fetched (at_ labD plain 0x78) false 63 7) ∧ (63 : BitVec 8).toNat < 64 ∧
      (at_ labD plain 0x78).ex ≠ [] ∧ TakesRequest (at_ labD plain 0x78) 1) ∧
    (Comes labD ifP1 0x79 (at_ labD ifP1 0x79) (fetched (at_ labD ifP1 0x79) true 255 0) ∧ (255 : BitVec 8).toNat < (at_ labD ifP1 0x79).r.v ∧
      (at_ labD ifP1 0x79).ex ≠ [] ∧ TakesRequest (at_ labD ifP1 0x79) (exSlots (at_ labD ifP1 0x79)).length) ∧
    (at_ labD ⟨0, 0, 3, false⟩ 0x78).ex = [] ∧ (at_ labD ⟨0, 0, 3, false⟩ 0x79).ex = [] :=
  ⟨⟨comes_of (by decide +kernel), by decide, by decide +kernel, by unfold TakesRequest; decide +kernel⟩,
    ⟨comes_of (by decide +kernel), by decide +kernel, by decide +kernel, by unfold TakesRequest; decide +kernel⟩, by decide +kernel, by decide +kernel⟩
theorem witness_CoordinatesFetched_delivery : ∃ l, labD.launch? 0 = some l ∧ ∃ q qs, l.disp.reqs = q :: qs ∧ q.blocked = false ∧ q.lanes.Nodup ∧ q.dst < 256 ∧
    labD.wg? q.core = some (wgOf labD) ∧ l.disp.mustWait l.rcd (if q.vec then q.lanes.length else 1) = false ∧
    (∀ p, Lands labD q.core (wgOf labD) p) ∧
    ∃ vs p, ({ l.disp with reqs := qs } : Dispenser).takeN l.rcd (if q.vec then q.lanes.length else 1) = (vs, p) :=
  ⟨_, rfl, _, _, rfl, by decide, by decide, by decide, by decide +kernel, by decide +kernel,
    (fun p f hf => by rw [(by decide +kernel : (wgOf labD).flights = [])] at hf; cases hf), _, _, rfl⟩

/-- Another thread, in no group. -/
def labT (st : TStat) : State := labW fun w => { w with threads := w.threads ++ [(8, ⟨8, 8, 8, 0, 0, 0, 0, st, [], none, none, 0⟩)] }
theorem witness_ThreadsEnd_exit :
    (Comes lab ⟨0, 0, 3, false⟩ 0x7A (at_ lab ⟨0, 0, 3, false⟩ 0x7A) [] ∧ (at_ lab ⟨0, 0, 3, false⟩ 0x7A).ex = []) ∧
    (Comes lab ifP1 0x7A (at_ lab ifP1 0x7A) [] ∧ (at_ lab ifP1 0x7A).ex ≠ [] ∧ idleSlots (at_ lab ifP1 0x7A) ≠ [] ∧
      ∀ k ∈ idleSlots (at_ lab ifP1 0x7A), ∃ th, SMap.get? (at_ lab ifP1 0x7A).wg.threads k = some th ∧ th.stat ≠ .atTail) ∧
    (Comes (labT .atTail) plain 0x7A (at_ (labT .atTail) plain 0x7A) [] ∧ (at_ (labT .atTail) plain 0x7A).ex ≠ [] ∧ (at_ (labT .atTail) plain 0x7A).wg.retired = false ∧
      ((labT .atTail).openChannels (at_ (labT .atTail) plain 0x7A).wg).length ≤ 14 ∧
      ∀ p ∈ (at_ (labT .atTail) plain 0x7A).wg.threads, p.1 ∈ exSlots (at_ (labT .atTail) plain 0x7A) ∨
        (p.2.stat = .atTail ∧ SMap.get? (at_ (labT .atTail) plain 0x7A).wg.spawn p.1 = none)) := by
  refine ⟨⟨comes_of (by decide +kernel), by decide +kernel⟩, ⟨comes_of (by decide +kernel), by decide +kernel, by decide +kernel, ?_⟩,
    comes_of (by decide +kernel), by decide +kernel⟩
  have : ∀ k ∈ idleSlots (at_ lab ifP1 0x7A), (SMap.get? (at_ lab ifP1 0x7A).wg.threads k).any (fun th => decide (th.stat ≠ .atTail)) = true := by decide +kernel
  exact fun k hk => someOf (this k hk)
theorem witness_ThreadsEnd_tail :
    (Comes (labT .ready) plain 0x7B (at_ (labT .ready) plain 0x7B) [] ∧
      (∀ k ∈ (at_ (labT .ready) plain 0x7B).grp.slots, mrRec (slotMr (at_ (labT .ready) plain 0x7B) k) = none ∧ SMap.get? (at_ (labT .ready) plain 0x7B).wg.spawn k = none) ∧
      (∃ k ∈ (at_ (labT .ready) plain 0x7B).grp.slots, ∃ th, SMap.get? (at_ (labT .ready) plain 0x7B).wg.threads k = some th ∧ th.stat ≠ .atTail) ∧
      ∃ j th, SMap.get? (at_ (labT .ready) plain 0x7B).wg.threads j = some th ∧ j ∉ (at_ (labT .ready) plain 0x7B).grp.slots ∧ th.stat ≠ .atTail) ∧
    (at_ (labT .atTail) plain 0x7B).wg.retired = false ∧ ((labT .atTail).openChannels (at_ (labT .atTail) plain 0x7B).wg).length ≤ 14 ∧ Rising (at_ (labT .atTail) plain 0x7B).wg.threads ∧
      ∀ p ∈ (at_ (labT .atTail) plain 0x7B).wg.threads, p.1 ∈ (at_ (labT .atTail) plain 0x7B).grp.slots ∨
        (p.2.stat = .atTail ∧ SMap.get? (at_ (labT .atTail) plain 0x7B).wg.spawn p.1 = none) :=
  ⟨⟨comes_of (by decide +kernel), by decide +kernel, ⟨0, by decide +kernel, _, rfl, by decide +kernel⟩, 8, _, rfl, by decide +kernel, by decide⟩,
    by decide +kernel, by decide +kernel, by unfold Rising; decide +kernel, by decide +kernel⟩

/-! ## Barriers -/

theorem noneOf {α : Type} {o : Option α} {P : α → Prop} (h : o = none) (a : α) (e : o = some a) : P a := by
  rw [h] at e
  cases e

theorem mayArrive_of {x : Ctx} {b : Nat} (h1 : x.grp.arrived = []) (h2 : x.grp.slots ≠ []) (h3 : ∀ k ∈ x.grp.slots, arrivedIn x.wg b k = none) : MayArrive x b :=
  ⟨h1, h2, fun k hk p hp => noneOf (P := fun p => p < x.wg.phase b) (h3 k hk) p hp⟩

theorem mayPass_of {x : Ctx} {b : Nat} (h : ∀ k ∈ x.grp.slots, (arrivedIn x.wg b k).any (fun p => decide (p < x.wg.phase b)) = true) : MayPass x b :=
  fun k hk => someOf (h k hk)

/-- The group of the lab has arrived at a barrier whose phase has completed. -/
def labB (b : Nat) : State :=
  (labW fun w => { w with threads := w.threads.map fun p => (p.1, { p.2 with arr := [(b, 0)] }), phases := SMap.set w.phases b 1 }).modGroup 0 0 fun g =>
    { g with arrived := g.slots }

theorem witness_WorkgroupBarriersComplete_arrive (sf : Bool) : Comes lab plain 0x72 (at_ lab plain 0x72) [] ∧ MayArrive (at_ lab plain 0x72) (barrier (at_ lab plain 0x72) sf) ∧
    Released (at_ lab plain 0x72) ∧ Rising (at_ lab plain 0x72).wg.threads ∧
    (∀ p ∈ (at_ lab plain 0x72).wg.threads, p.2.stat ≠ .atTail → (sf = true → p.2.stage = (at_ lab plain 0x72).grp.stage) →
      p.1 ∈ (at_ lab plain 0x72).grp.slots ∨
        SMap.get? p.2.arr (barrier (at_ lab plain 0x72) sf) = some ((at_ lab plain 0x72).wg.phase (barrier (at_ lab plain 0x72) sf))) ∧
    (∃ p ∈ (at_ lab plain 0x72).wg.threads, p.2.stat ≠ .atTail ∧ (sf = true → p.2.stage = (at_ lab plain 0x72).grp.stage)) ∧ (at_ lab plain 0x72).grp.stage < 4 := by
  cases sf <;>
  exact ⟨comes_of (by decide +kernel), mayArrive_of (by decide +kernel) (by decide +kernel) (by decide +kernel), by unfold Released; decide +kernel,
    by unfold Rising; decide +kernel, by decide +kernel⟩
/-- Another thread has not arrived. -/
theorem witness_WorkgroupBarriersComplete_counted (sf : Bool) : let s := labT .ready
    Comes s plain 0x72 (at_ s plain 0x72) [] ∧ MayArrive (at_ s plain 0x72) (barrier (at_ s plain 0x72) sf) ∧ Released (at_ s plain 0x72) ∧
    (∀ k ∈ (at_ s plain 0x72).grp.slots, (SMap.get? (at_ s plain 0x72).wg.threads k).isSome) ∧
    (∃ p ∈ (at_ s plain 0x72).wg.threads, p.1 ∉ (at_ s plain 0x72).grp.slots ∧ p.2.stat ≠ .atTail ∧ (sf = true → p.2.stage = (at_ s plain 0x72).grp.stage) ∧
      SMap.get? p.2.arr (barrier (at_ s plain 0x72) sf) ≠ some ((at_ s plain 0x72).wg.phase (barrier (at_ s plain 0x72) sf))) ∧ (at_ s plain 0x72).grp.stage < 4 := by
  cases sf <;>
  exact ⟨comes_of (by decide +kernel), mayArrive_of (by decide +kernel) (by decide +kernel) (by decide +kernel), by unfold Released; decide +kernel, by decide +kernel⟩
theorem witness_WorkgroupBarriersComplete_pass :
    Comes (labB 0) plain 0x72 (at_ (labB 0) plain 0x72) [] ∧ MayPass (at_ (labB 0) plain 0x72) (barrier (at_ (labB 0) plain 0x72) false) ∧
    (∀ k ∈ (at_ (labB 0) plain 0x72).grp.slots, k ∈ (at_ (labB 0) plain 0x72).grp.arrived) ∧
    (at_ (labB 0) plain 0x72).grp.slots.length ≤ (at_ (labB 0) plain 0x72).grp.arrived.length ∧
    Comes (labB 1) plain 0x74 (at_ (labB 1) plain 0x74) [] ∧ MayPass (at_ (labB 1) plain 0x74) (barrier (at_ (labB 1) plain 0x74) true) :=
  ⟨comes_of (by decide +kernel), mayPass_of (by decide +kernel), by decide +kernel, by decide +kernel, comes_of (by decide +kernel), mayPass_of (by decide +kernel)⟩
theorem witness_WorkgroupBarriersComplete_arv : Comes lab plain 0x73 (at_ lab plain 0x73) [] ∧ MayArrive (at_ lab plain 0x73) (barrier (at_ lab plain 0x73) true) ∧
    Released (at_ lab plain 0x73) :=
  ⟨comes_of (by decide +kernel), mayArrive_of (by decide +kernel) (by decide +kernel) (by decide +kernel), by unfold Released; decide +kernel⟩

theorem witness_PlazaBarriersComplete_words :
    (Comes (labB 5) plain 0x75 (at_ (labB 5) plain 0x75) [] ∧ MayPass (at_ (labB 5) plain 0x75) (plaza false) ∧
      (∀ k ∈ (at_ (labB 5) plain 0x75).grp.slots, k ∈ (at_ (labB 5) plain 0x75).grp.arrived) ∧
      (at_ (labB 5) plain 0x75).grp.slots.length ≤ (at_ (labB 5) plain 0x75).grp.arrived.length) ∧
    (Comes lab plain 0x76 (at_ lab plain 0x76) [] ∧ MayArrive (at_ lab plain 0x76) (plaza true) ∧ Released (at_ lab plain 0x76) ∧
      lab.gangPhaseOn (at_ lab plain 0x76).wg.launch = false ∧ lab.launchPhaseOn (at_ lab plain 0x76).wg.launch = false) ∧
    (Comes (labB 6) plain 0x77 (at_ (labB 6) plain 0x77) [] ∧ MayPass (at_ (labB 6) plain 0x77) (plaza true)) :=
  ⟨⟨comes_of (by decide +kernel), mayPass_of (by decide +kernel), by decide +kernel, by decide +kernel⟩,
    ⟨comes_of (by decide +kernel), mayArrive_of (by decide +kernel) (by decide +kernel) (by decide +kernel), by unfold Released; decide +kernel,
      by decide +kernel, by decide +kernel⟩,
    comes_of (by decide +kernel), mayPass_of (by decide +kernel)⟩
theorem witness_PlazaBarriersComplete_counted (lx : Bool) : Comes lab plain 0x75 (at_ lab plain 0x75) [] ∧ MayArrive (at_ lab plain 0x75) (plaza lx) ∧
    Released (at_ lab plain 0x75) ∧ (∀ k ∈ (at_ lab plain 0x75).grp.slots, (SMap.get? (at_ lab plain 0x75).wg.threads k).isSome) ∧
    (if lx then lab.gangPhaseOn (at_ lab plain 0x75).wg.launch = false else lab.launchPhaseOn (at_ lab plain 0x75).wg.launch = false) := by
  cases lx <;>
  exact ⟨comes_of (by decide +kernel), mayArrive_of (by decide +kernel) (by decide +kernel) (by decide +kernel), by unfold Released; decide +kernel, by decide +kernel⟩
/-- The Plaza's phases; a workgroup of one thread at TAIL and another held. -/
def labH : State :=
  labW fun w => { w with threads := [(0, ⟨0, 0, 0, 0, 32, 0, 0, .held, [], none, none, 0⟩), (1, ⟨1, 1, 1, 0, 0, 0, 0, .atTail, [], none, none, 0⟩)], groups := [] }
theorem witness_PlazaBarriersComplete_core : lab.wg? 0 = some (wgOf lab) ∧ lab.launchOf 0 = some (launchAt lab) ∧
    labH.wg? 0 = some (wgOf labH) ∧ (wgOf labH).halt = none ∧ (wgOf labH).retired = false ∧ (∀ p ∈ (wgOf labH).threads, p.2.stat = .atTail ∨ p.2.stat = .held) ∧
    (∃ p ∈ (wgOf labH).threads, p.2.stat = .held) ∧ ∃ p ∈ (wgOf labH).threads, p.2.stat = .atTail :=
  by decide +kernel

/-! ## Memory words -/

theorem mem_comes {s : State} {h : Head} {op : Nat} {ps : List Loc} (p : canIssue s h op none = true) (q : (at_ s h op).wg.log.length < 64) :
    MemComes s h op (at_ s h op) ps := ⟨comes_of p, q⟩

/-- The places of the lanes of a row. -/
def placesOf (r : MemRow) (s : State) (x : Ctx) : List (Space × Nat) :=
  (memLanes x r.m).filterMap fun l => (memPlace s x r.form r.m r.bytes (!r.load) r.aop.isRmw l.2).toOption

theorem places_of {r : MemRow} {s : State} {x : Ctx}
    (h : ((memLanes x r.m).all fun l => (memPlace s x r.form r.m r.bytes (!r.load) r.aop.isRmw l.2).toOption.isSome) = true) : r.Places s x (placesOf r s x) := by
  unfold MemRow.Places placesOf
  generalize memLanes x r.m = ls at h
  induction ls with
  | nil => rfl
  | cons l ls ih =>
    simp only [List.all_cons, Bool.and_eq_true] at h
    simp only [List.map_cons, List.filterMap_cons, ih h.2]
    generalize memPlace s x r.form r.m r.bytes (!r.load) r.aop.isRmw l.2 = e at h
    cases e with
    | error c => simp [Except.toOption] at h
    | ok p => simp [Except.toOption]

/-- A load of the last word of the space below the windows in eight lanes; a store of 16 bytes at the end of the scratchpad; an atomic with a release. -/
def labA : State := labW fun w => { w with vregs := (List.range 8).map fun k => (vregKey k 2, 0xFFFC) }
theorem witness_AccessesIssue_load : ∃ r, memRow (.ld plain false ⟨false, 4, 0, 2, 0⟩ .die .acq .b32) = some r ∧ r.chan = none ∧
    MemComes labA r.h r.op (at_ labA r.h r.op) (r.places (at_ labA r.h r.op)) ∧ r.Legal (at_ labA r.h r.op) ∧
    r.Places labA (at_ labA r.h r.op) (placesOf r labA (at_ labA r.h r.op)) ∧ ¬ (r.order = .rel ∨ r.order = .ar) ∧ memLanes (at_ labA r.h r.op) r.m ≠ [] :=
  ⟨_, rfl, rfl, mem_comes (by decide +kernel) (by decide +kernel), by unfold MemRow.Legal; decide +kernel, places_of (by decide +kernel), by decide, by decide +kernel⟩
def labS : State := labW fun w => { w with vregs := (List.range 8).map fun k => (vregKey k 2, 0xFFFF0) }
theorem witness_AccessesIssue_store : ∃ r, memRow (.sts ifP1 ⟨false, 252, 0, 2, 0⟩ .none .rlx .b128) = some r ∧ r.chan = none ∧
    MemComes labS r.h r.op (at_ labS r.h r.op) (r.places (at_ labS r.h r.op)) ∧ r.Legal (at_ labS r.h r.op) ∧
    r.Places labS (at_ labS r.h r.op) (placesOf r labS (at_ labS r.h r.op)) ∧ memLanes (at_ labS r.h r.op) r.m ≠ [] :=
  ⟨_, rfl, rfl, mem_comes (by decide +kernel) (by decide +kernel), by unfold MemRow.Legal; decide +kernel, places_of (by decide +kernel), by decide +kernel⟩
theorem witness_AccessesIssue_atomic : ∃ r, memRow (.atomCas plain ⟨false, 4, 0, 2, 0⟩ none .dev .ar .b32) = some r ∧ r.chan = none ∧
    MemComes labA r.h r.op (at_ labA r.h r.op) (r.places (at_ labA r.h r.op)) ∧ r.Legal (at_ labA r.h r.op) ∧
    r.Places labA (at_ labA r.h r.op) (placesOf r labA (at_ labA r.h r.op)) ∧ Released (at_ labA r.h r.op) ∧ memLanes (at_ labA r.h r.op) r.m ≠ [] :=
  ⟨_, rfl, rfl, mem_comes (by decide +kernel) (by decide +kernel), by unfold MemRow.Legal; decide +kernel, places_of (by decide +kernel),
    by unfold Released; decide +kernel, by decide +kernel⟩
theorem witness_AccessesIssue_nothing : ∃ r, memRow (.ld ⟨0, 0, 3, false⟩ false ⟨false, 4, 0, 2, 0⟩ .none .rlx .b32) = some r ∧ r.chan = none ∧
    MemComes lab r.h r.op (at_ lab r.h r.op) (r.places (at_ lab r.h r.op)) ∧ r.Legal (at_ lab r.h r.op) ∧ r.Places lab (at_ lab r.h r.op) (placesOf r lab (at_ lab r.h r.op)) ∧
    memLanes (at_ lab r.h r.op) r.m = [] :=
  ⟨_, rfl, rfl, mem_comes (by decide +kernel) (by decide +kernel), by unfold MemRow.Legal; decide +kernel, places_of (by decide +kernel), by decide +kernel⟩

theorem witness_ChannelledAccessesJoin : ∃ r ps, memRow (.st ⟨0, 0, 4, false⟩ ⟨false, 8, 0, 2, 0⟩ (some 15) .none .rlx .b32) = some r ∧ r.chan = some 15 ∧
    MemComes labA r.h r.op (at_ labA r.h r.op) (r.places (at_ labA r.h r.op)) ∧ r.Legal (at_ labA r.h r.op) ∧ r.Places labA (at_ labA r.h r.op) ps ∧
    r.Carried labA (at_ labA r.h r.op) 15 ps ∧ (at_ labA r.h r.op).grp.part = none ∧ (at_ labA r.h r.op).wg.op? labA.nextId = none ∧
    memLanes (at_ labA r.h r.op) r.m ≠ [] ∧ labA.overLimit (at_ labA r.h r.op).c (memLanes (at_ labA r.h r.op) r.m).length = false ∧
    ((r.channelled labA (at_ labA r.h r.op) 15 ps).1.joinAll (at_ labA r.h r.op).c (r.channelled labA (at_ labA r.h r.op) 15 ps).2).2 =
      (memLanes (at_ labA r.h r.op) r.m).length ∧ trapped 0x1F (at_ labA r.h r.op).r.tmask = false :=
  ⟨_, placesOf (storeRow ⟨0, 0, 4, false⟩ 0x90 .generic ⟨false, 8, 0, 2, 0⟩ (some 15) .none .rlx .b32) labA (at_ labA ⟨0, 0, 4, false⟩ 0x90), rfl, rfl,
    mem_comes (by decide +kernel) (by decide +kernel), by unfold MemRow.Legal; decide +kernel, places_of (by decide +kernel),
    by unfold MemRow.Carried; decide +kernel, by decide +kernel⟩

theorem witness_SynchronisationWordsComplete_wown :
    MemComes lab plain 0xAA (at_ lab plain 0xAA) (baseLocs (at_ lab plain 0xAA) (.peer 0) mv ++ dataLocs (at_ lab plain 0xAA) mv 1) ∧ baseOk (at_ lab plain 0xAA) (.peer 0) mv = true ∧
    dataOk (at_ lab plain 0xAA) mv 1 = true ∧ (memLanes (at_ lab plain 0xAA) mv).map (fun l => (wownPlace lab (at_ lab plain 0xAA) mv (memRank (at_ lab plain 0xAA) (.peer 0)) l.2).toOption) =
      (List.replicate 8 (.scratch 0, 0)).map some ∧ Released (at_ lab plain 0xAA) :=
  ⟨mem_comes (by decide +kernel) (by decide +kernel), by decide +kernel, by decide +kernel, by decide +kernel, by unfold Released; decide +kernel⟩
theorem witness_SynchronisationWordsComplete_fence :
    MemComes lab plain 0xA0 (at_ lab plain 0xA0) [] ∧ Released (at_ lab plain 0xA0) ∧ readsOpen (at_ lab plain 0xA0) = false ∧ (at_ lab plain 0xA0).ex ≠ [] :=
  ⟨mem_comes (by decide +kernel) (by decide +kernel), by unfold Released; decide +kernel, by decide +kernel, by decide +kernel⟩

/-- A monitored word of the scratchpad holds 0: a wait for it to be equal to 0 ends at once, a wait for it to differ places the monitor. -/
def mw : MOpnd := ⟨true, 4, 1, 2, 0⟩
def labV : State := labG fun g => { g with sregs := [(3, 0x01FF1000)] }
theorem witness_SynchronisationWordsComplete_mwait :
    MemComes labV plain 0xA1 (at_ labV plain 0xA1) (baseLocs (at_ labV plain 0xA1) .generic mw ++ dataLocs (at_ labV plain 0xA1) mw 1) ∧
    baseOk (at_ labV plain 0xA1) .generic mw = true ∧ mw.dk = true ∧ mw.bk = 1 ∧ scaOk mw.data 1 = true ∧ (at_ labV plain 0xA1).ex ≠ [] ∧
    (at_ labV plain 0xA1).grp.monitor = none ∧ mwaitPlace labV (at_ labV plain 0xA1) 4 (memEa (at_ labV plain 0xA1) .generic mw 4 0) = .ok (.scratch 0, 0) ∧
    labV.monitorVals (at_ labV plain 0xA1).c (.scratch 0, 0) 4 none = (labV, .vals [0] 0) ∧
    ScalarsQuiet (at_ labV plain 0xA1) mw.data.toNat 1 ∧ mwaitBehind (at_ labV plain 0xA1) (.scratch 0, 0) 4 = false ∧
    [0].find? (fun v => (v == memData (at_ labV plain 0xA1) mw 0 1 0) == true) = some 0 ∧
    [0].find? (fun v => (v == memData (at_ labV plain 0xA1) mw 0 1 0) == false) = none :=
  ⟨mem_comes (by decide +kernel) (by decide +kernel), by decide +kernel, rfl, rfl, by decide, by decide +kernel, by decide +kernel, rfl, rfl,
    by unfold ScalarsQuiet Quiet; decide +kernel, by decide +kernel, by decide +kernel, by decide +kernel⟩
/-- A group that waits at its monitor. -/
def labQ : State := labG fun g => { g with monitor := some ⟨0x01FF100000000000, 4, true, 0, 0, 4, none, false⟩, wait := some .mwait }
theorem witness_SynchronisationWordsComplete_retest : ∃ y m, labQ.wg? 0 = some (wgOf labQ) ∧ (wgOf labQ).group? 0 = some y ∧ y.monitor = some m ∧
    labQ.launchOf 0 = some (launchAt labQ) ∧ m.fault = false ∧ (wgOf labQ).saving = false ∧ (wgOf labQ).halt = none ∧ (wgOf labQ).mustReplay = false ∧
    (∀ i, i < m.bytes / 4 → Lands labQ 0 (wgOf labQ) (.sca y.uid (m.dst + i))) ∧ mwaitPlace labQ (at_ labQ plain 0xA1) m.bytes m.addr = .ok (.scratch 0, 0) ∧
    labQ.monitorVals 0 (.scratch 0, 0) m.bytes (some m.seen) = (labQ, .vals [0] 0) ∧ [0].find? (fun v => (v == m.cmp.toNat) == m.eq) = some 0 :=
  ⟨_, _, by decide +kernel, rfl, rfl, by decide +kernel, rfl, by decide +kernel, by decide +kernel, by decide +kernel,
    (fun _ _ f hf => by rw [(by decide +kernel : (wgOf labQ).flights = [])] at hf; cases hf), rfl, rfl, by decide +kernel⟩

/-! ## Channels, handles, copies, buffers -/

theorem witness_ChannelAndHandleWordsComplete_chain : MemComes lab plain 0xA3 (at_ lab plain 0xA3) [] ∧ MemComes lab plain 0xA4 (at_ lab plain 0xA4) [] ∧
    (at_ lab plain 0xA3).ex ≠ [] ∧ (at_ lab ⟨0, 0, 3, false⟩ 0xA3).ex = [] :=
  ⟨mem_comes (by decide +kernel) (by decide +kernel), mem_comes (by decide +kernel) (by decide +kernel), by decide +kernel, by decide +kernel⟩

/-- An operation of channel 2 that is not acknowledged. -/
def chanOp0 : ChanOp :=
  { id := 50, launch := 0, wgno := 0, asid := 0, chan := 2, sess := some 30, stream := 5, die := 0, dev := 0, op := 60, lane := 0, kind := 0, va := 64, bytes := 4, data := 7
    cmp := 0, aop := .store, gen := 0, scale := 0, marks := 0, seq := none, after := [], soft := [], fault := false, dead := false }
def labC : State := lab.modCore 0 fun k => { k with chanOps := [chanOp0] }
theorem witness_ChannelAndHandleWordsComplete_drain : MemComes labC plain 0xA5 (at_ labC plain 0xA5) [] ∧ handleFree (at_ labC plain 0xA5) 0x4F = true ∧
    (at_ labC plain 0xA5).ex ≠ [] ∧ labC.chanLive (at_ labC plain 0xA5).wg [2] ≠ [] ∧ labC.chanLive (at_ labC plain 0xA5).wg [3] = [] ∧
    (at_ labC ⟨0, 0, 3, false⟩ 0xA5).ex = [] :=
  ⟨mem_comes (by decide +kernel) (by decide +kernel), by decide +kernel⟩
theorem witness_ChannelAndHandleWordsComplete_chstat :
    MemComes lab plain 0xA6 (at_ lab plain 0xA6) (if (at_ lab plain 0xA6).ex.isEmpty then [] else [.sca (at_ lab plain 0xA6).grp.uid 63]) ∧ scaOk 63 1 = true ∧
    ScalarsQuiet (at_ lab plain 0xA6) 63 1 ∧ (at_ lab plain 0xA6).ex ≠ [] ∧ MemComes lab plain 0xA7 (at_ lab plain 0xA7) [] :=
  ⟨mem_comes (by decide +kernel) (by decide +kernel), by decide, by unfold ScalarsQuiet Quiet; decide +kernel, by decide +kernel,
    mem_comes (by decide +kernel) (by decide +kernel)⟩

/-- Handle 0 is done with status 0x71, handle 1 pending with a copy in the engine. -/
def eng1 : EngOp :=
  { id := 40, launch := 0, wgno := 0, uid := 1, handle := some 1, kind := .gather ⟨0x100, 0, 4, 0x40, true, 4⟩, gen := 0, gang := 0, rank := 0, cancelled := false
    fault := none, refused := none, freed := false, killed := false, before := [], joined := 0 }
def labE : State := (labG fun g => { g with handles := [(0, ⟨.copy, 39, true, 0x71⟩), (1, ⟨.hgather, 40, false, 0⟩)] }).modCore 0 fun k => { k with eng := [eng1] }
theorem witness_ChannelAndHandleWordsComplete_htest : ∃ y,
    MemComes labE plain 0xB8 (at_ labE plain 0xB8) ((at_ labE plain 0xB8).ex.map fun l => .pred l.2 6) ∧ (6 : BitVec 8).toNat < 8 ∧ isHandle 0x40 = true ∧
    SMap.get? (at_ labE plain 0xB8).grp.handles (handleNo 0x40) = some y ∧ y.done = true ∧
    Quiet (at_ labE plain 0xB8) ((at_ labE plain 0xB8).ex.map fun l => (.pred l.2 6, 0)) :=
  ⟨_, mem_comes (by decide +kernel) (by decide +kernel), by decide, by decide, rfl, rfl, by unfold Quiet; decide +kernel⟩
theorem witness_ChannelAndHandleWordsComplete_hwait : Issues labE plain 0xB9 none (at_ labE plain 0xB9) ∧ (at_ labE plain 0xB9).wg.log.length < 64 ∧ scaOk 5 1 = true ∧
    plainSrcOk (at_ labE plain 0xB9) (.short 3) = true ∧ ScalarsQuiet (at_ labE plain 0xB9) 5 1 ∧ (at_ labE plain 0xB9).ex ≠ [] ∧
    hwaitMask (at_ labE plain 0xB9).grp ((srcVal labE (at_ labE plain 0xB9) .i32 0 (.short 3)).toNat % 2 ^ 16) ≠ [] ∧
    maskOf (hwaitMask (at_ labE plain 0xB9).grp 1) = 1 ∧
    Checked (at_ labE plain 0xB9) (headLocs (at_ labE plain 0xB9) ++ srcLocs (at_ labE plain 0xB9) .i32 (.short 3) ++
      if (at_ labE plain 0xB9).ex.isEmpty then [] else [.sca (at_ labE plain 0xB9).grp.uid 5]) :=
  ⟨issues_of (by decide +kernel), by decide +kernel, by decide, by decide +kernel, by unfold ScalarsQuiet Quiet; decide +kernel, by decide +kernel, by decide +kernel,
    by decide +kernel, checked_of (by decide +kernel)⟩
theorem witness_ChannelAndHandleWordsComplete_hcancel : ∃ y, MemComes labE plain 0xBA (at_ labE plain 0xBA) [] ∧ Rising labE.cores ∧ isHandle 0x41 = true ∧
    SMap.get? (at_ labE plain 0xBA).grp.handles (handleNo 0x41) = some y ∧ (at_ labE plain 0xBA).ex ≠ [] ∧ pendingOp labE (at_ labE plain 0xBA) 0x41 = some (0, eng1) :=
  ⟨_, mem_comes (by decide +kernel) (by decide +kernel), by unfold Rising; decide +kernel, by decide, rfl, by decide +kernel, by decide +kernel⟩
/-- A handle moves within its group, and to another. -/
def labE2 : State := (labE.modWg 0 fun w => { w with groups := w.groups ++ [(1, { startGroup placedRec 9 1 0 with slots := [] })] }).modGroup 0 0 fun g => { g with sregs := [(5, 1)] }
theorem witness_ChannelAndHandleWordsComplete_hmov : ∃ y v,
    MemComes labE2 plain 0xBB (at_ labE2 plain 0xBB) (if (at_ labE2 plain 0xBB).ex.isEmpty then [] else [.sca (at_ labE2 plain 0xBB).grp.uid 5]) ∧ isHandle 0x4F = true ∧
    isHandle 0x40 = true ∧ SMap.get? (at_ labE2 plain 0xBB).grp.handles (handleNo 0x40) = some y ∧ (at_ labE2 plain 0xBB).ex ≠ [] ∧
    (at_ labE2 plain 0xBB).wg.group? ((at_ labE2 plain 0xBB).read (.sca (at_ labE2 plain 0xBB).grp.uid 5)).toNat = some v ∧
    ((at_ labE2 plain 0xBB).read (.sca (at_ labE2 plain 0xBB).grp.uid 5)).toNat ≠ (at_ labE2 plain 0xBB).g ∧ SMap.get? v.handles (handleNo 0x4F) = none :=
  ⟨_, _, mem_comes (by decide +kernel) (by decide +kernel), by decide, by decide, rfl, by decide +kernel, rfl, by decide +kernel, by decide +kernel⟩

/-- The descriptors of the lab stand at 0: all zeros, a copy of no element. -/
theorem witness_CopyWordsStart_copy :
    MemComes lab plain 0xB0 (at_ lab plain 0xB0) (if (at_ lab plain 0xB0).ex.isEmpty then [] else [.sca (at_ lab plain 0xB0).grp.uid 7]) ∧
    handleFree (at_ lab plain 0xB0) 0x40 = true ∧ scaOk 7 1 = true ∧ (at_ lab plain 0xB0).ex ≠ [] ∧ (at_ lab plain 0xB0).grp.part = none ∧
    quad (at_ lab plain 0xB0) 7 0 % 32 = 0 ∧ quad (at_ lab plain 0xB0) 7 0 + 96 ≤ (at_ lab plain 0xB0).r.scratch ∧
    (at_ lab plain 0xB0).wg.writesOpen (at_ lab plain 0xB0).grp.slots (quad (at_ lab plain 0xB0) 7 0) 96 = false :=
  ⟨mem_comes (by decide +kernel) (by decide +kernel), by decide +kernel, by decide, by decide +kernel⟩
/-- The same of a channelled copy at the end of the scratchpad, all of whose operations join. -/
def labK : State := labG fun g => { g with sregs := [(7, 0xFFFA0)] }
theorem witness_CopyWordsStart_channelled : ∃ e,
    MemComes labK plain 0xB0 (at_ labK plain 0xB0) (if (at_ labK plain 0xB0).ex.isEmpty then [] else [.sca (at_ labK plain 0xB0).grp.uid 7]) ∧
    handleFree (at_ labK plain 0xB0) 0x40 = true ∧ scaOk 7 1 = true ∧ (at_ labK plain 0xB0).ex ≠ [] ∧ (at_ labK plain 0xB0).grp.part = none ∧
    quad (at_ labK plain 0xB0) 7 0 % 32 = 0 ∧ quad (at_ labK plain 0xB0) 7 0 + 96 ≤ (at_ labK plain 0xB0).r.scratch ∧
    (at_ labK plain 0xB0).wg.writesOpen (at_ labK plain 0xB0).grp.slots (quad (at_ labK plain 0xB0) 7 0) 96 = false ∧
    (let c := labK.copyKind (at_ labK plain 0xB0).c (at_ labK plain 0xB0).wg (quad (at_ labK plain 0xB0) 7 0) 1 false (some 3) .none
     newEng labK (at_ labK plain 0xB0) (some (handleNo 0x40)) c.1 c.2 = e) ∧ labK.copyFits (at_ labK plain 0xB0).c e = true ∧ ((labK.draw.addEng (at_ labK plain 0xB0).c e).joinCopy (at_ labK plain 0xB0).c e).2 = true :=
  ⟨_, mem_comes (by decide +kernel) (by decide +kernel), by decide +kernel, by decide, by decide +kernel, by decide +kernel, by decide +kernel, by decide +kernel,
    by decide +kernel, rfl, by decide +kernel, by decide +kernel⟩
theorem witness_CopyWordsStart_gather :
    MemComes lab plain 0xB2 (at_ lab plain 0xB2) (if (at_ lab plain 0xB2).ex.isEmpty then [] else [.sca (at_ lab plain 0xB2).grp.uid 7]) ∧
    handleFree (at_ lab plain 0xB2) 0x40 = true ∧ scaOk 7 1 = true ∧ (at_ lab plain 0xB2).ex ≠ [] ∧ quad (at_ lab plain 0xB2) 7 0 % 32 = 0 ∧
    quad (at_ lab plain 0xB2) 7 0 + 32 ≤ (at_ lab plain 0xB2).r.scratch ∧
    (at_ lab plain 0xB2).wg.writesOpen (at_ lab plain 0xB2).grp.slots (quad (at_ lab plain 0xB2) 7 0) 32 = false ∧
    lab.isPoisoned (scratchKey (at_ lab plain 0xB2).c (quad (at_ lab plain 0xB2) 7 0)) 32 = false ∧
    (gatherDescOf (lab.scratchBytes (at_ lab plain 0xB2).c (quad (at_ lab plain 0xB2) 7 0) 32) 16).ok = true :=
  ⟨mem_comes (by decide +kernel) (by decide +kernel), by decide +kernel, by decide, by decide +kernel⟩
/-- A replica of the last lines of a region, at the end of the scratchpad; then its end. -/
def labU : State := labG fun g => { g with sregs := [(4, 0x1F0000), (6, 0xF0000), (7, 0x10000)] }
theorem witness_CopyWordsStart_subscribe :
    MemComes labU plain 0xA8 (at_ labU plain 0xA8) (quadLocs (at_ labU plain 0xA8) 4) ∧ handleFree (at_ labU plain 0xA8) 0x4F = true ∧ scaOk 4 4 = true ∧
    (at_ labU plain 0xA8).ex ≠ [] ∧ subscribeOk (at_ labU plain 0xA8) 15
      (BitVec.ofNat 64 (quad (at_ labU plain 0xA8) 4 0 + 2 ^ 32 * quad (at_ labU plain 0xA8) 4 1)) (quad (at_ labU plain 0xA8) 4 2) (quad (at_ labU plain 0xA8) 4 3) = true :=
  ⟨mem_comes (by decide +kernel) (by decide +kernel), by decide +kernel, by decide, by decide +kernel, by decide +kernel⟩
def labN : State := labW fun w => { w with subs := [(15, ⟨0x1F0000, 0xF0000, 0x10000, true, false, 0, 0, 0, false⟩)] }
theorem witness_CopyWordsStart_unsub : ∃ u, MemComes labN plain 0xA9 (at_ labN plain 0xA9) [] ∧ (at_ labN plain 0xA9).ex ≠ [] ∧
    SMap.get? (at_ labN plain 0xA9).wg.subs 15 = some u ∧ u.ending = false :=
  ⟨_, mem_comes (by decide +kernel) (by decide +kernel), by decide +kernel, rfl, rfl⟩

/-- A buffer of the largest count of the smallest entries. -/
def labO : State := labG fun g => { g with sregs := [(4, 0x10), (5, 16), (6, 4096)] }
theorem witness_BufferWordsComplete_cbset :
    let x := at_ labO plain 0xB3
    MemComes labO plain 0xB3 x (quadLocs x 4) ∧ scaOk 4 4 = true ∧ x.ex ≠ [] ∧ quad x 4 0 % 16 = 0 ∧ quad x 4 1 % 16 = 0 ∧ 16 ≤ quad x 4 1 ∧ quad x 4 1 ≤ 65536 ∧
    1 ≤ quad x 4 2 ∧ quad x 4 2 ≤ 4096 ∧ quad x 4 3 = 0 ∧ quad x 4 0 + quad x 4 1 * quad x 4 2 ≤ x.r.scratch ∧ x.wg.subs = [] ∧ x.wg.cbs = [] ∧
    labO.commitPending x.wg 7 = false :=
  ⟨mem_comes (by decide +kernel) (by decide +kernel), by decide, by decide +kernel⟩
/-- A buffer of four entries, of which two are reserved to put, of them one put, and one reserved to get: its producers have room for two more. -/
def labF : State := labW fun w => { w with cbs := [(7, ⟨0, 16, 4, 3, 2, 1, 0, 3, 2, 1, 0, []⟩)] }
theorem witness_BufferWordsComplete_wait (put : Bool) : ∃ b,
    let x := at_ labF plain (if put then 0xB4 else 0xB5)
    Issues labF plain (if put then 0xB4 else 0xB5) none x ∧ x.wg.log.length < 64 ∧ scaOk 10 1 = true ∧ plainSrcOk x (.short 1) = true ∧
    Checked x (headLocs x ++ srcLocs x .i32 (.short 1) ++ if x.ex.isEmpty then [] else [.sca x.grp.uid 10]) ∧ ScalarsQuiet x 10 1 ∧ x.ex ≠ [] ∧
    SMap.get? x.wg.cbs 7 = some b ∧ (srcVal labF x .i32 0 (.short 1)).toNat % 2 ^ 32 = 1 ∧ b.waiters = [] ∧
    (if put then (b.putRes - b.getDone).toNat + 1 ≤ b.count else 1 ≤ (b.putDone - b.getRes).toNat) := by
  cases put <;> exact ⟨_, issues_of (by decide +kernel), by decide +kernel, by decide, by decide +kernel, checked_of (by decide +kernel),
    by unfold ScalarsQuiet Quiet; decide +kernel, by decide +kernel, rfl, by decide +kernel, rfl, by decide +kernel⟩
/-- Two entries are one too many; another group of the side waits for one. -/
def labFw (put : Bool) : State := labW fun w => { w with cbs := [(7, ⟨0, 16, 4, 3, 2, 1, 0, 3, 2, 1, 0, [(9, put)]⟩)] }
theorem witness_BufferWordsComplete_waits (put : Bool) (s : State) (n : BitVec 8) (h : s = labF ∧ n = 2 ∨ s = labFw put ∧ n = 1) : ∃ b,
    let x := at_ s plain (if put then 0xB4 else 0xB5)
    Issues s plain (if put then 0xB4 else 0xB5) none x ∧ x.wg.log.length < 64 ∧ scaOk 10 1 = true ∧ plainSrcOk x (.short n) = true ∧
    Checked x (headLocs x ++ srcLocs x .i32 (.short n) ++ if x.ex.isEmpty then [] else [.sca x.grp.uid 10]) ∧ x.ex ≠ [] ∧
    SMap.get? x.wg.cbs 7 = some b ∧ (srcVal s x .i32 0 (.short n)).toNat % 2 ^ 32 = n.toNat ∧ 1 ≤ n.toNat ∧ n.toNat ≤ b.count ∧ (∀ p ∈ b.waiters, p.1 ≠ x.grp.uid) ∧
    ((∃ p ∈ b.waiters, p.2 = put) ∨ (if put then b.count < (b.putRes - b.getDone).toNat + n.toNat else (b.putDone - b.getRes).toNat < n.toNat)) := by
  rcases h with ⟨rfl, rfl⟩ | ⟨rfl, rfl⟩ <;> cases put <;>
    exact ⟨_, issues_of (by decide +kernel), by decide +kernel, by decide, by decide +kernel, checked_of (by decide +kernel), by decide +kernel, rfl, by decide +kernel,
      by decide, by decide, by decide +kernel, by decide +kernel⟩
theorem witness_BufferWordsComplete_release (put : Bool) : ∃ b,
    let x := at_ labF plain (if put then 0xB6 else 0xB7)
    Issues labF plain (if put then 0xB6 else 0xB7) none x ∧ x.wg.log.length < 64 ∧ plainSrcOk x (.short 1) = true ∧ Checked x (headLocs x ++ srcLocs x .i32 (.short 1)) ∧
    x.ex ≠ [] ∧ SMap.get? x.wg.cbs 7 = some b ∧ (srcVal labF x .i32 0 (.short 1)).toNat % 2 ^ 32 = 1 ∧ 1 ≤ b.count ∧
    (if put then 1 ≤ (b.putRes - b.putDone).toNat else 1 ≤ (b.getRes - b.getDone).toNat) ∧ Released x := by
  cases put <;> exact ⟨_, issues_of (by decide +kernel), by decide +kernel, by decide +kernel, checked_of (by decide +kernel), by decide +kernel, rfl, by decide +kernel,
    by decide, by decide +kernel, by unfold Released; decide +kernel⟩

/-! ## Matrix words -/

/-- Format slot 1 is a block format of eight bits a side; the first half of B and row 0 of A are loaded with it. -/
def labX1 : State :=
  (labW fun w => { w with mtx := { w.mtx with recs := { MRecs.none with b0 := some ⟨1, 1⟩, b1 := some ⟨1, 1⟩, rows := [(0, ⟨1, 8, 1⟩)] } } }).modLaunch 0 fun l =>
    { l with rcd := { l.rcd with fs := [0, 0x87700000, 0, 0, 0, 0, 0, 0] } }

theorem mat_comes {s : State} {h : Head} {op : Nat} {ps : List Loc} (p : canIssue s h op none = true)
    (q : (let x := at_ s h op; decide (x.r.w ≤ x.lanes.length) && (x.grp.port 0).isEmpty && !x.wg.mtx.dead && decide (x.wg.mtx.queue.length < 16)) = true) :
    MatComes s h op (at_ s h op) ps := by
  simp only [Bool.and_eq_true, decide_eq_true_eq, Bool.not_eq_true', List.isEmpty_iff] at q
  exact ⟨issues_of p, checked_of p, q.1.1.1, q.1.1.2, q.1.2, q.2⟩

/-- A pass over one row with a whole window; a load of the last bytes of the scratchpad. -/
theorem witness_MatrixWordsJoin_row : ∃ r,
    matRow labX1 (at_ labX1 plain 0xC6) ((at_ labX1 plain 0xC6).wg.mtx.issueRecs (at_ labX1 plain 0xC6).r) (.mma plain false 1 1 0 0 0) = some r ∧
    MatComes labX1 r.h r.op (at_ labX1 plain 0xC6) (r.reads ++ r.writes) ∧ r.legal ∧ r.passes :=
  ⟨_, rfl, mat_comes (by decide +kernel) (by decide +kernel), trivial, by decide +kernel⟩
def labX2 : State := labX1.modGroup 0 0 fun g => { g with sregs := [(63, 0xFFF78)] }
theorem witness_MatrixWordsJoin_load : ∃ r,
    matRow labX2 (at_ labX2 plain 0xC2) ((at_ labX2 plain 0xC2).wg.mtx.issueRecs (at_ labX2 plain 0xC2).r) (.mlda plain 1 127 0 0 63) = some r ∧
    MatComes labX2 r.h r.op (at_ labX2 plain 0xC2) (r.reads ++ r.writes) ∧ r.legal ∧ r.passes :=
  ⟨_, rfl, mat_comes (by decide +kernel) (by decide +kernel), by unfold offRow; decide, by unfold offRow blockSlot aFits spans; decide +kernel⟩
theorem witness_MatrixWordsJoin_sparse (z : Bool) :
    let x := at_ labX1 plain (if z then 0xD1 else 0xD0)
    MatComes labX1 plain (if z then 0xD1 else 0xD0) x [.sca x.grp.uid 5] ∧ x.grp.mspmaId = none ∧ (5 : BitVec 8).toNat < 64 ∧
    passOk x.r (x.wg.mtx.issueRecs x.r) false 1 1 0 1 0 = true ∧
    scaVal x 5 + winLogical false (slotMb (x.r.slot 1)) * (4 * (x.wg.mtx.issueRecs x.r).kbB false 0) ≤ x.r.scratch := by
  cases z <;> exact ⟨mat_comes (by decide +kernel) (by decide +kernel), by decide +kernel, by decide, by decide +kernel, by decide +kernel⟩
/-- A sparse pass at the head of the queue, over a half of one row; every nibble of its metadata names two elements. -/
def spWord : MWord :=
  { id := 30, instr := .mspma plain true 1 1 0 0 0 5, uid := 1, gslot := 0, hdr := 0, wix := 1, pc := 8, ct := 0, sx := 0, sy := 0, drain := none, slots := [], vals := []
    fromQ0 := false, bad := false, reads := some (0, 0, 8), before := [], nibbles := none }
def labX3 : State :=
  labX1.modWg 0 fun w => { w with mtx := { w.mtx with queue := [spWord] }, scratch := (List.range 8).map fun i => (i, 0x44)
                                  groups := w.groups.map fun p => (p.1, { p.2 with mspmaId := some 30, wait := some .validate }) }
theorem witness_MatrixWordsJoin_judged : ∃ y,
    labX3.wg? 0 = some (wgOf labX3) ∧ (wgOf labX3).mtx.queue = [spWord] ∧ (wgOf labX3).mtx.running = none ∧ (wgOf labX3).mtx.dead = false ∧ labX3.coreOn 0 = true ∧
    labX3.alive (wgOf labX3).launch (wgOf labX3).wgno spWord.before = false ∧ spWord.reads = some ((wgOf labX3).rank, 0, 8) ∧
    labX3.isPoisoned (scratchKey 0 0) 8 = false ∧ (wgOf labX3).group? 0 = some y ∧ y.uid = spWord.uid ∧
    (List.range (2 * 8)).all (fun g => nibbleOk (nibbleAt (spWord.taken (labX3.scratchBytes 0 0 8)) 0 g)) = true :=
  ⟨_, by decide +kernel, by decide +kernel, by decide +kernel, by decide +kernel, by decide +kernel, by decide +kernel, by decide +kernel, by decide +kernel, rfl, by decide +kernel,
    by decide +kernel⟩
theorem witness_MatrixWordsJoin_drain (add : Bool) : ∃ d,
    let x := at_ labX1 plain (if add then 0xD3 else 0xD2)
    MatComes labX1 plain (if add then 0xD3 else 0xD2) x [.sca x.grp.uid 5] ∧ (5 : BitVec 8).toNat < 64 ∧ handleFree x 0x42 = true ∧
    (if add then slotFmt (x.r.slot 0) ≤ 2 else slotFmt (x.r.slot 0) ≤ 4) ∧ spans x (scaVal x 5) 64 32 ∧ x.wg.writesOpen x.grp.slots (scaVal x 5) 64 = false ∧
    labX1.isPoisoned (scratchKey x.c (scaVal x 5)) 64 = false ∧ drainDescOf (labX1.scratchBytes x.c (scaVal x 5) 64) add (slotFmt (x.r.slot 0)) = d ∧ d.resv = true ∧
    d.rs % Int.ofNat (fmtBytes (slotFmt (x.r.slot 0))) = 0 ∧ d.cs % Int.ofNat (fmtBytes (slotFmt (x.r.slot 0))) = 0 := by
  cases add <;> exact ⟨_, mat_comes (by decide +kernel) (by decide +kernel), by decide, by decide +kernel, by decide +kernel, by unfold spans; decide +kernel,
    by decide +kernel, by decide +kernel, rfl, by decide +kernel⟩

/-! ## System words -/

theorem sys_comes {s : State} {h : Head} {op : Nat} {lit : Lit} {srcs : List (OTy × Src)} (p : canIssue s h op lit = true)
    (q : (let x := at_ s h op lit; !twice (portsOf none (srcs.map (·.2))) && (operandWait x none (srcs.map (·.2))).isNone) = true) :
    SysComes s h op lit (at_ s h op lit) srcs := by
  simp only [Bool.and_eq_true, Bool.not_eq_true', Option.isNone_iff_eq_none] at q
  exact ⟨issues_of p, checked_of p, q.1, q.2⟩

/-- A slot of tenant 0 with every right. -/
def slot0 : CapSlot := ⟨0, 0, true, true, true, 7, none, 0, 0, 0, 0, 0, 0, 0⟩
/-- A launch with a debug capability. -/
def labCap : State :=
  { (lab.modLaunch 0 fun l => { l with rcd := { l.rcd with dbg := 0x0100000000000007 } }) with caps := [slot0] }
theorem witness_TrapsTaken : SysComes lab plain 0xE0 none (at_ lab plain 0xE0) [(.i32, .short 9)] ∧ sysSrcOk (at_ lab plain 0xE0) (.short 9) = true ∧
    (at_ lab plain 0xE0).ex ≠ [] ∧ (at_ lab ⟨0, 0, 3, false⟩ 0xE0).ex = [] ∧ Comes lab plain 0xE1 (at_ lab plain 0xE1) [] ∧
    lab.dbgOk (at_ lab plain 0xE1).l = false ∧ (at_ lab plain 0xE1).ex ≠ [] ∧ Comes labCap plain 0xE1 (at_ labCap plain 0xE1) [] ∧
    labCap.dbgOk (at_ labCap plain 0xE1).l = true ∧ (at_ labCap plain 0xE1).ex ≠ [] :=
  ⟨sys_comes (by decide +kernel) (by decide +kernel), by decide +kernel, by decide +kernel, by decide +kernel, comes_of (by decide +kernel), by decide +kernel,
    by decide +kernel, comes_of (by decide +kernel), by decide +kernel, by decide +kernel⟩

theorem witness_CacheTraceAndSnapWords_lines (flush : Bool) :
    SysComes lab plain (if flush then 0xE3 else 0xE2) none (at_ lab plain (if flush then 0xE3 else 0xE2)) [(.i64, .sca 4), (.i32, .sca 6)] ∧
    sysPairOk (at_ lab plain (if flush then 0xE3 else 0xE2)) (.sca 4) = true ∧ sysSrcOk (at_ lab plain (if flush then 0xE3 else 0xE2)) (.sca 6) = true ∧
    (at_ lab plain (if flush then 0xE3 else 0xE2)).ex ≠ [] := by
  cases flush <;> exact ⟨sys_comes (by decide +kernel) (by decide +kernel), by decide +kernel⟩
theorem witness_CacheTraceAndSnapWords_trace : SysComes lab plain 0xE4 none (at_ lab plain 0xE4) [(.i32, .short 5)] ∧ sysSrcOk (at_ lab plain 0xE4) (.short 5) = true ∧
    (at_ lab plain 0xE4).ex ≠ [] ∧ SysComes lab plain 0xE5 none (at_ lab plain 0xE5) [(.i32, .vec 255), (.i32, .sca 6)] ∧ srcIsVec (.vec 255) = true ∧
    srcOk (at_ lab plain 0xE5) .i32 (.vec 255) = true ∧ sysSrcOk (at_ lab plain 0xE5) (.sca 6) = true ∧ (at_ lab plain 0xE5).ex ≠ [] :=
  ⟨sys_comes (by decide +kernel) (by decide +kernel), by decide +kernel, by decide +kernel, sys_comes (by decide +kernel) (by decide +kernel), by decide,
    by decide +kernel⟩
/-- With the live generation and two frozen ones another may be made, with three frozen ones none. -/
def frozen0 : Frozen := { gen := 0, copies := [], drained := [], done := false, pages := [], base := none }
def labG4 (n : Nat) : State := { lab with tenants := [(0, { tenant0 with frozen := List.replicate n frozen0 })] }
theorem witness_CacheTraceAndSnapWords_snap : Comes (labG4 2) plain 0xE6 (at_ (labG4 2) plain 0xE6) [] ∧ handleFree (at_ (labG4 2) plain 0xE6) 0x40 = true ∧
    (at_ (labG4 2) plain 0xE6).ex ≠ [] ∧ ((labG4 2).tenant ((labG4 2).tenantOf (at_ (labG4 2) plain 0xE6).c)).generations < 4 ∧
    Comes (labG4 3) plain 0xE6 (at_ (labG4 3) plain 0xE6) [] ∧ handleFree (at_ (labG4 3) plain 0xE6) 0x40 = true ∧ (at_ (labG4 3) plain 0xE6).ex ≠ [] ∧
    ((labG4 3).tenant ((labG4 3).tenantOf (at_ (labG4 3) plain 0xE6).c)).generations = 4 :=
  ⟨comes_of (by decide +kernel), by decide +kernel, by decide +kernel, by decide +kernel, comes_of (by decide +kernel), by decide +kernel⟩

/-! ## Weighted populations -/

theorem witness_ResampleWordsArrive (gf : Bool) :
    let x := at_ lab plain (if gf then 0x7E else 0x7D)
    Issues lab ⟨0, 0, 7, false⟩ (if gf then 0x7E else 0x7D) none x ∧ Checked x (srcLocs x .i32 (.vec 255) ++ srcLocs x .i32 (.short 8)) ∧
    weightSrcOk x (.vec 255) = true ∧ plainSrcOk x (.short 8) = true ∧ x.grp.resN = none ∧ (∀ k ∈ x.grp.slots, mrRec (slotMr x k) = none) ∧
    lab.gangArrived x.wg.launch x.wg.gang (!gf) = false ∧ lo32 (srcVal lab x .i32 0 (.short 8)) ≠ 0 ∧ x.l.stepping (!gf) = false ∧ Released x := by
  cases gf <;> exact ⟨issues_of (by decide +kernel), checked_of (by decide +kernel), by decide +kernel, by decide +kernel, by decide +kernel, by decide +kernel,
    by decide +kernel, by decide +kernel, by decide +kernel, by unfold Released; decide +kernel⟩

theorem witness_OffspringByPositions : 2 ^ 32 - 1 < 2 ^ 32 ∧ 0 < 1 ∧ 0 < ([0, 1] : List Nat).sum := by decide

/-- A group of two threads has arrived at a step for three new threads; the first has weight 0. -/
def labR : State :=
  labW fun w => { w with threads := [(0, { startThread placedRec 0 0 with weight := some 0 }), (1, { startThread placedRec 0 1 with weight := some 5 })]
                         groups := w.groups.map fun p => (p.1, { p.2 with slots := [0, 1], resN := some ⟨false, 3, 2, 0x48, 2, false⟩, wait := some .resample }) }
theorem witness_ResampleStepsBeginAndEnd_begin : ∃ l, labR.launch? 0 = some l ∧ labR.population 0 false 0 ≠ [] ∧ labR.popResident 0 false 0 = true ∧
    (∀ m ∈ labR.population 0 false 0, m.th.weight.isSome = true ∧ ∃ a, m.arr = some a ∧ a.gangForm = false ∧ a.n.toNat = 3 ∧ a.refused = false) ∧
    (∀ p ∈ l.step, p.gangForm = false → false = true ∧ p.gang ≠ 0) ∧
    3 ≤ (((dedup ((labR.population 0 false 0).map fun (m : Member) => m.core)).filterMap labR.wg?).map fun w => (availableSlots l.rcd w).length).sum := by
  refine ⟨_, rfl, by decide +kernel, by decide +kernel, fun m hm => ⟨?_, someOf ?_⟩, by decide +kernel, by decide +kernel⟩
  · exact (by decide +kernel : ∀ m ∈ labR.population 0 false 0, m.th.weight.isSome = true) m hm
  · exact (by decide +kernel : ∀ m ∈ labR.population 0 false 0, m.arr.any (fun a => decide (a.gangForm = false ∧ a.n.toNat = 3 ∧ a.refused = false)) = true) m hm
def labZ : State := labR.modLaunch 0 fun l => { l with step := [⟨false, 0, 5, 1, false, 0, [(0, 0, 0), (0, 1, 3)]⟩] }
theorem witness_ResampleStepsBeginAndEnd_end : ∃ l st, labZ.launch? 0 = some l ∧ l.step.find? (fun p => p.gangForm == false && (!false || p.gang == 0)) = some st ∧
    labZ.popBusy st.counts = false ∧ labZ.badImage l.rcd st.counts = none ∧ (st.counts.map fun p => (p.1, p.2.1)).Nodup ∧
    ∀ p ∈ st.counts, ∃ w th a, labZ.wg? p.1 = some w ∧ w.launch = 0 ∧ SMap.get? w.threads p.2.1 = some th ∧ w.arrivalOf p.2.1 = some a := by
  refine ⟨_, _, rfl, rfl, by decide +kernel, by decide +kernel, by decide +kernel, ?_⟩
  intro p hp
  simp only [List.mem_cons, List.not_mem_nil, or_false] at hp
  rcases hp with rfl | rfl <;> exact ⟨_, _, _, rfl, rfl, rfl, rfl⟩
def labY : State :=
  labW fun w => { w with threads := [(0, { startThread placedRec 0 0 with stat := .held, mr := 32 }), (1, { startThread placedRec 0 1 with weight := some 5 })]
                         groups := w.groups.map fun p => (p.1, { p.2 with slots := [1], resN := some ⟨false, 3, 2, 0x48, 2, false⟩, wait := some .resample }) }
theorem witness_ResampleStepsBeginAndEnd_stall : ∃ w, labY.wg? 0 = some w ∧ w.halt = none ∧ w.saving = false ∧ w.retired = false ∧ (∃ p ∈ w.threads, p.2.stat = .held) ∧
    (∀ p ∈ w.threads, p.2.stat = .atTail ∨ p.2.stat = .held ∨ p.2.weight ≠ none) ∧ (∃ g a, g ∈ w.groups.map (·.2) ∧ g.resN = some a) ∧ 0 ∈ labY.coresOf w.launch :=
  ⟨_, rfl, rfl, rfl, rfl, by decide +kernel, by decide +kernel, ⟨_, _, List.mem_singleton.2 rfl, rfl⟩, by decide +kernel⟩

/-! ## Clauses and the Roundabout -/

/-- A group at the header at 0, whose clause the loop buffer holds, or nothing does. -/
def noClause (g : Group) : Group := { g with fetched := false, wix := 0, tested := false }
def labL : State := (labG noClause).modCore 0 fun k => { k with loop := [⟨0, 0, [0xE1000000C1000000, 0x6001C00000000000, 0x6001C00000000000]⟩] }
theorem witness_ClausesFetched_found : ∃ x, labL.wg? 0 = some (wgOf labL) ∧ (wgOf labL).group? 0 = some x ∧ (wgOf labL).halt = none ∧ (wgOf labL).saving = false ∧
    x.fetched = false ∧ x.wait = none ∧ (wgOf labL).meetHeld x = [] ∧ vaOk x.hdr = true ∧ isWindow x.hdr.toNat = false ∧ x.hdr.toNat % 8 = 0 ∧
    labL.loopClause 0 (labL.asidOf 0) x.hdr = some (0xE1000000C1000000, [0x6001C00000000000, 0x6001C00000000000]) ∧
    clauseOk 0xE1000000C1000000 [0x6001C00000000000, 0x6001C00000000000] = true ∧ x.wix ≤ 2 :=
  ⟨_, by decide +kernel, rfl, by decide +kernel, by decide +kernel, rfl, rfl, by decide +kernel, by decide +kernel, by decide +kernel, by decide +kernel, rfl,
    by decide +kernel, by decide⟩
theorem witness_ClausesFetched_missing : ∃ x, (labG noClause).wg? 0 = some (wgOf (labG noClause)) ∧ (wgOf (labG noClause)).group? 0 = some x ∧
    (wgOf (labG noClause)).halt = none ∧ (wgOf (labG noClause)).saving = false ∧ x.fetched = false ∧ x.wait = none ∧ (wgOf (labG noClause)).meetHeld x = [] ∧
    vaOk x.hdr = true ∧ isWindow x.hdr.toNat = false ∧ x.hdr.toNat % 8 = 0 ∧ (labG noClause).loopClause 0 ((labG noClause).asidOf 0) x.hdr = none ∧
    (labG noClause).icClause 0 ((labG noClause).asidOf 0) x.hdr = none :=
  ⟨_, by decide +kernel, rfl, by decide +kernel, by decide +kernel, rfl, rfl, by decide +kernel, by decide +kernel, by decide +kernel, by decide +kernel, rfl, rfl⟩
/-- The clause of two words at 0, in memory. -/
def labI : State :=
  { (labG fun g => { noClause g with wait := some .clauseMiss }) with
    mem := Mem.writeBytes [] (memKey 1 0x10000) (natToBytes 8 0xE1000000C1000000 ++ natToBytes 8 0x6001C00000000000 ++ natToBytes 8 0x6001C00000000000) }
theorem witness_ClausesFetched_fill : ∃ x u, labI.wg? 0 = some (wgOf labI) ∧ (wgOf labI).group? 0 = some x ∧ x.wait = some .clauseMiss ∧ (wgOf labI).saving = false ∧
    headerOk 0xE1000000C1000000 = true ∧
    labI.fillLines 0 (labI.asidOf 0) (lineOf x.hdr.toNat) (lineOf (x.hdr.toNat + 8 * headerWords 0xE1000000C1000000) + 1 - lineOf x.hdr.toNat) = (u, none) ∧
    u.icWord 0 (labI.asidOf 0) x.hdr.toNat = some 0xE1000000C1000000 :=
  ⟨_, _, by decide +kernel, rfl, rfl, by decide +kernel, by decide +kernel, rfl, by decide +kernel⟩

/-- Eight threads wait in spawn memory for a place, and all group slots are free, or all are taken by groups that wait at a barrier. -/
def spawn0 (n : Nat) : SMap Spawn := (List.range n).map fun k => (8 + k, ⟨0x40, 0, 0, 0, false, 0, 0, 0, none, []⟩)
def thread0 (n : Nat) : SMap Thread := (List.range n).map fun k => (8 + k, { startThread placedRec 0 (8 + k) with stat := .ready })
def waiting (k : Nat) : Group := { startGroup placedRec (100 + k) 0 0 with slots := [], wait := some .barrier, since := k }
def labS1 : State := (labW fun w => { w with spawn := spawn0 8, threads := w.threads ++ thread0 8 }).modCore 0 fun k => { k with ck := 100 }
def labS2 : State := labS1.modWg 0 fun w => { w with groups := (List.range 64).map fun k => (k, waiting k) }
theorem witness_RoundaboutTurns_form : ∃ k, labS1.wg? 0 = some (wgOf labS1) ∧ labS1.launchOf 0 = some (launchAt labS1) ∧
    SMap.lowestFree (wgOf labS1).groups 64 = some 1 ∧ (wgOf labS1).nextCand (launchAt labS1).rcd (labS1.core 0).ck = some k ∧
    (wgOf labS1).roundaboutOn (labS1.core 0).ck = true ∧ (wgOf labS1).returning = [] :=
  ⟨_, by decide +kernel, by decide +kernel, by decide +kernel, rfl, by decide +kernel, by decide +kernel⟩
theorem witness_RoundaboutTurns_park : ∃ k, labS2.wg? 0 = some (wgOf labS2) ∧ labS2.launchOf 0 = some (launchAt labS2) ∧
    SMap.lowestFree (wgOf labS2).groups 64 = none ∧ (wgOf labS2).roundaboutOn (labS2.core 0).ck = true ∧
    (wgOf labS2).starved (launchAt labS2).rcd (labS2.core 0).ck = some (.inl k) ∧
    (wgOf labS2).toPark = some (0, waiting 0) ∧
    (wgOf labS2).group? 0 = some (waiting 0) :=
  ⟨_, by decide +kernel, by decide +kernel, by decide +kernel, by decide +kernel, rfl, by decide +kernel, by decide +kernel⟩
def labS3 : State := labW fun w => { w with parked := [⟨waiting 5, 0, 3⟩] }
theorem witness_RoundaboutTurns_return : labS3.wg? 0 = some (wgOf labS3) ∧ SMap.lowestFree (wgOf labS3).groups 64 = some 1 ∧
    (wgOf labS3).returning = [⟨waiting 5, 0, 3⟩] ∧ (wgOf labS3).roundaboutOn (labS3.core 0).ck = true ∧
    ((wgOf labS3).cands (labS3.core 0).ck).any (fun k => k.first.isSome) = false :=
  by decide +kernel

/-! ## Accesses in flight -/

def lane0 : LaneAcc := { lane := 0, slot := 0, ea := 0, space := .scratch 0, off := 0, data := 0xFF, cmp := 0, stat := .waiting, old := 0, flags := 0 }
def op0 : MemOp :=
  { id := 20, uid := 1, gslot := 0, pc := 8, word := 0, aop := .load, lk := .plain, bytes := 4, sx := false, mask := 1, lanes := [lane0], data := 4, sca := false, ct := 1, scope := .none
    acq := false, chan := none, gen := 0, acked := false, replied := false }
/-- The lab with an access in flight. -/
def labOp (o : MemOp) : State := labW fun w => { w with ops := [o], pend := [(20, .vec 0 4)] }

theorem witness_AccessesReply_load : ∃ u ls p, (labOp op0).wg? 0 = some (wgOf (labOp op0)) ∧ (wgOf (labOp op0)).op? 20 = some op0 ∧ op0.logged = false ∧
    op0.bytes ∈ [1, 2, 4, 8, 16] ∧ (labOp op0).readOpen 0 op0 op0.lanes = (u, some ls, p) :=
  ⟨_, _, _, by decide +kernel, by decide +kernel, by decide, by decide, rfl⟩
def atom0 : MemOp := { op0 with aop := .atom 3 false, lanes := [{ lane0 with stat := .performed, old := 9 }] }
theorem witness_AccessesReply_atomic : (labOp atom0).wg? 0 = some (wgOf (labOp atom0)) ∧ (wgOf (labOp atom0)).op? 20 = some atom0 ∧
    (∀ l ∈ atom0.lanes, l.isOpen = false) ∧ (atom0.lanes.filter fun l => l.stat == .performed) ≠ [] ∧
    trapped ((atom0.lanes.filter fun l => l.stat == .performed).foldl (fun f l => f ||| l.flags) 0) ((labOp atom0).recOf 0).tmask = false :=
  ⟨by decide +kernel, by decide +kernel, by decide, by decide, by decide +kernel⟩
def store0 : MemOp := { op0 with aop := .store, lanes := [{ lane0 with stat := .performed }], replied := true }
theorem witness_AccessesReply_store : (labOp store0).wg? 0 = some (wgOf (labOp store0)) ∧ (wgOf (labOp store0)).op? 20 = some store0 ∧
    (∀ q ∈ (wgOf (labOp store0)).ops, q.id = 20 → q = store0) ∧ store0.aop ≠ .load ∧ store0.acked = false ∧ store0.chan = none ∧ ∀ l ∈ store0.lanes, l.isOpen = false :=
  ⟨by decide +kernel, by decide +kernel, by decide +kernel, by decide, by decide, by decide, by decide⟩

/-- An acquire load, and an atomic whose sum traps, of a group that waits for the reply. -/
def opAcq : MemOp := { op0 with acq := true, scope := .die }
def labAcq (o : MemOp) : State := (labOp o).modGroup 0 0 fun g => { g with holdOp := some 20 }
theorem witness_AccessesReply_acquire : ∃ u ls p y, (labAcq opAcq).wg? 0 = some (wgOf (labAcq opAcq)) ∧ (wgOf (labAcq opAcq)).op? 20 = some opAcq ∧
    opAcq.logged = false ∧ (labAcq opAcq).readOpen 0 opAcq opAcq.lanes = (u, some ls, p) ∧ (wgOf (labAcq opAcq)).group? 0 = some y ∧ y.uid = opAcq.uid ∧ y.holdOp = some opAcq.id :=
  ⟨_, _, _, _, by decide +kernel, by decide +kernel, by decide, rfl, rfl, by decide +kernel, by decide +kernel⟩
def atomTrap : MemOp := { op0 with aop := .atom 9 false, lanes := [{ lane0 with stat := .performed, flags := 1 }] }
def labTrap : State := (labOp atomTrap).modLaunch 0 fun l => { l with rcd := { l.rcd with tmask := 0x1F } }
theorem witness_AccessesReply_trap : ∃ y, labTrap.wg? 0 = some (wgOf labTrap) ∧ labTrap.launchOf 0 = some (launchAt labTrap) ∧ (wgOf labTrap).op? 20 = some atomTrap ∧
    (∀ k ∈ atomTrap.lanes, k.isOpen = false) ∧ (wgOf labTrap).group? 0 = some y ∧ y.uid = atomTrap.uid ∧ (wgOf labTrap).halt = none ∧ (wgOf labTrap).saving = false ∧
    trapped ((atomTrap.lanes.filter fun k => k.stat == .performed).foldl (fun f k => f ||| k.flags) 0) (launchAt labTrap).rcd.tmask = true :=
  ⟨_, by decide +kernel, by decide +kernel, by decide +kernel, by decide, rfl, by decide +kernel, by decide +kernel, by decide +kernel, by decide +kernel⟩
/-- A write, or an atomic, in flight with one lane. -/
def write0 (a : AOp) (p : Space) (off : Nat) : MemOp := { op0 with aop := a, lanes := [{ lane0 with space := p, off := off }] }
theorem performs_of {s : State} {a : AOp} {p : Space} {off : Nat} {w : Wg} (h1 : s.wg? 0 = some w) (h2 : w.op? 20 = some (write0 a p off)) (h3 : a ≠ .load)
    (h4 : laneBlocked w (write0 a p off) { lane0 with space := p, off := off } = false) (h5 : s.othersClear 0 (write0 a p off) 0 = true) :
    Performs s 0 20 0 w (write0 a p off) { lane0 with space := p, off := off } :=
  ⟨h1, h2, rfl, h3, (by decide : 4 ∈ [1, 2, 4, 8, 16]), rfl, rfl, h4, h5⟩
theorem witness_WritesPerformed_private : Performs (labOp (write0 .store (.priv 0) 0xFFFC)) 0 20 0 (wgOf (labOp (write0 .store (.priv 0) 0xFFFC)))
    (write0 .store (.priv 0) 0xFFFC) { lane0 with space := .priv 0, off := 0xFFFC } :=
  performs_of (by decide +kernel) (by decide +kernel) (by decide) (by decide +kernel) (by decide +kernel)
theorem witness_WritesPerformed_scratch : ∃ v,
    Performs (labOp (write0 (.atom 3 false) (.scratch 0) 0xFFFFC)) 0 20 0 (wgOf (labOp (write0 (.atom 3 false) (.scratch 0) 0xFFFFC)))
      (write0 (.atom 3 false) (.scratch 0) 0xFFFFC) { lane0 with space := .scratch 0, off := 0xFFFFC } ∧
    (labOp (write0 (.atom 3 false) (.scratch 0) 0xFFFFC)).rankAt 0 0 0 = .core 0 ∧ (labOp (write0 (.atom 3 false) (.scratch 0) 0xFFFFC)).wg? 0 = some v ∧
    SMap.getD v.writers (0xFFFFC / 128) v.rank = 0 ∧ (labOp (write0 (.atom 3 false) (.scratch 0) 0xFFFFC)).isPoisoned (scratchKey 0 0xFFFFC) 4 = false :=
  ⟨_, performs_of (by decide +kernel) (by decide +kernel) (by decide) (by decide +kernel) (by decide +kernel), by decide +kernel, rfl, by decide +kernel, by decide +kernel⟩
theorem witness_WritesPerformed_owner : ∃ v,
    Performs (labOp (write0 .wown (.scratch 0) 0)) 0 20 0 (wgOf (labOp (write0 .wown (.scratch 0) 0))) (write0 .wown (.scratch 0) 0)
      { lane0 with space := .scratch 0, off := 0 } ∧ (labOp (write0 .wown (.scratch 0) 0)).rankAt 0 0 0 = .core 0 ∧
    (labOp (write0 .wown (.scratch 0) 0)).wg? 0 = some v ∧ SMap.getD v.writers 0 v.rank = 0 :=
  ⟨_, performs_of (by decide +kernel) (by decide +kernel) (by decide) (by decide +kernel) (by decide +kernel), by decide +kernel, rfl, by decide +kernel⟩

/-- The module is the one that homes region 0 of address space 0. -/
def own (s : State) : State := { s with devNum := (Config.homeDevice 0 0).getD 0 }
theorem own_peer (s : State) {va : Nat} (h : va < 2 ^ 21) : (own s).peerOf 0 va = none := by
  unfold State.peerOf own
  rw [Nat.div_eq_of_lt h]
  cases Config.homeDevice 0 0 <;> simp

theorem present_of {s : State} {asid va gen : Nat} (h : ∀ ti, s.tenantOfAsid asid = some ti → ti = 0) (h0 : (s.tenant 0).genAt (s.homeDie asid va) ≤ gen) :
    Present s asid va gen := fun ti e => by
  rw [h ti e]
  exact Or.inr h0
theorem only {s : State} {asid n : Nat} (h : s.tenantOfAsid asid = some n) (ti : Nat) (e : s.tenantOfAsid asid = some ti) : ti = n := by
  rw [h] at e
  cases e
  rfl

def labW1 : State := own (labOp (write0 .store .trans 0x7C))
theorem witness_WritesPerformed_home :
    Performs labW1 0 20 0 (wgOf labW1) (write0 .store .trans 0x7C) { lane0 with space := .trans, off := 0x7C } ∧ labW1.asidOf 0 = 0 ∧ labW1.peerOf 0 0x7C = none ∧
    labW1.reach 0 0x7C AOp.store.need = true ∧ labW1.place 0 0x7C AOp.store.need = (labW1, .at (memKey 1 0x1007C)) ∧ AOp.store.isRmw = false ∧ Present labW1 0 0x7C 0 ∧
    (labW1.homeWrite 0 0x7C (memKey 1 0x1007C) (natToBytes 4 0xFF) 0 false).isSome = true :=
  ⟨performs_of (by decide +kernel) (by decide +kernel) (by decide) (by decide +kernel) (by decide +kernel), by decide +kernel, own_peer _ (by decide), by decide +kernel, rfl,
    by decide, present_of (only (by decide +kernel)) (by decide +kernel), by decide +kernel⟩

/-- Accesses to a page that no TLB entry maps, and no table; and to one that a table maps. -/
def miss0 (a : AOp) (off : Nat) : MemOp := { op0 with aop := a, lanes := [{ lane0 with space := .trans, off := off }] }
def tableOf (tier : Nat) : Mem :=
  let m := Mem.writeBytes [] (memKey 0 0x40000) (natToBytes 8 0x8000000000041000)
  let m := Mem.writeBytes m (memKey 0 0x41000) (natToBytes 8 0x8000000000042000)
  let m := Mem.writeBytes m (memKey 0 0x42000) (natToBytes 8 0x8000000000043000)
  let m := Mem.writeBytes m (memKey 0 0x43000) (natToBytes 8 0x8000000000044000)
  Mem.writeBytes m (memKey 0 (0x44000 + 8 * 2)) (natToBytes 8 (0xF000000000000000 + tier * 2 ^ 58 + 0x50000))
def table : Mem := tableOf 1
def labMiss (o : MemOp) : State := own { (labOp o) with mem := table, tenants := [(0, { tenant0 with cfg := { tenant0.cfg with root := 0x40000 } })] }
theorem witness_WritesPerformed_miss_load : ∃ u,
    (labMiss (miss0 .load 0x20000)).wg? 0 = some (wgOf (labMiss (miss0 .load 0x20000))) ∧ (wgOf (labMiss (miss0 .load 0x20000))).op? 20 = some (miss0 .load 0x20000) ∧
    laneBlocked (wgOf (labMiss (miss0 .load 0x20000))) (miss0 .load 0x20000) { lane0 with space := .trans, off := 0x20000 } = false ∧
    (labMiss (miss0 .load 0x20000)).asidOf 0 = 0 ∧ (labMiss (miss0 .load 0x20000)).peerOf 0 0x20000 = none ∧
    (labMiss (miss0 .load 0x20000)).reach 0 0x20000 AOp.load.need = false ∧ ((labMiss (miss0 .load 0x20000)).core 0).l1Find 0 0x20000 = none ∧ lane0.early = [] ∧
    (labMiss (miss0 .load 0x20000)).place 0 0x20000 needRead = (u, .at (memKey 1 0x50000)) ∧
    (labMiss (miss0 .load 0x20000)).isPoisoned (memKey 1 0x50000) 4 = false :=
  ⟨_, by decide +kernel, by decide +kernel, by decide +kernel, by decide +kernel, own_peer _ (by decide), by decide +kernel, by decide +kernel, rfl, rfl, by decide +kernel⟩
theorem witness_WritesPerformed_miss_fault : ∃ u,
    (labMiss (miss0 .store 0x30000)).wg? 0 = some (wgOf (labMiss (miss0 .store 0x30000))) ∧ (wgOf (labMiss (miss0 .store 0x30000))).op? 20 = some (miss0 .store 0x30000) ∧
    laneBlocked (wgOf (labMiss (miss0 .store 0x30000))) (miss0 .store 0x30000) { lane0 with space := .trans, off := 0x30000 } = false ∧
    (labMiss (miss0 .store 0x30000)).asidOf 0 = 0 ∧ (labMiss (miss0 .store 0x30000)).peerOf 0 0x30000 = none ∧
    (labMiss (miss0 .store 0x30000)).reach 0 0x30000 AOp.store.need = false ∧
    (labMiss (miss0 .store 0x30000)).place 0 0x30000 AOp.store.need = (u, .fault 0) ∧ (∀ p ∈ (wgOf (labMiss (miss0 .store 0x30000))).log, p.2.op ≠ 20) ∧
    SMap.lowestFree (wgOf (labMiss (miss0 .store 0x30000))).log 64 = some 0 :=
  ⟨_, by decide +kernel, by decide +kernel, by decide +kernel, by decide +kernel, own_peer _ (by decide), by decide +kernel, rfl, by decide +kernel, by decide +kernel⟩
theorem witness_WritesPerformed_miss_write : ∃ u,
    (labMiss (miss0 .store 0x20000)).wg? 0 = some (wgOf (labMiss (miss0 .store 0x20000))) ∧ (wgOf (labMiss (miss0 .store 0x20000))).op? 20 = some (miss0 .store 0x20000) ∧
    laneBlocked (wgOf (labMiss (miss0 .store 0x20000))) (miss0 .store 0x20000) { lane0 with space := .trans, off := 0x20000 } = false ∧
    (labMiss (miss0 .store 0x20000)).asidOf 0 = 0 ∧ (labMiss (miss0 .store 0x20000)).peerOf 0 0x20000 = none ∧
    (labMiss (miss0 .store 0x20000)).reach 0 0x20000 AOp.store.need = false ∧
    (labMiss (miss0 .store 0x20000)).place 0 0x20000 AOp.store.need = (u, .at (memKey 1 0x50000)) :=
  ⟨_, by decide +kernel, by decide +kernel, by decide +kernel, by decide +kernel, own_peer _ (by decide), by decide +kernel, rfl⟩

/-! ## Operations of the engines -/

def engOp (k : EngKind) : EngOp := { eng1 with kind := k }
/-- The lab with an operation in the engine of core 0. -/
def labEng (k : EngKind) : State := own ((labG fun g => { g with handles := [(1, ⟨.copy, 40, false, 0⟩)] }).modCore 0 fun c => { c with eng := [engOp k] })
theorem engaged_of {k : EngKind} : Engaged (labEng k) 0 40 (engOp k) := ⟨rfl, ⟨rfl, rfl, rfl, rfl⟩, rfl, rfl⟩

/-- A copy of one byte within region 0, and of none. -/
def copy0 (n : Nat) : CopyDesc :=
  { src := 0, dst := 64, ext := [n, 1, 1, 1], ss := [1, 1, 1, 1], ds := [1, 1, 1, 1], stamp := 0, sval := 0, cbc := 0, resv := true, esz := 1, chan := none, scope := .none }
theorem witness_EngineOperationsEnd_copy : ∃ u, Engaged (labEng (.copy (copy0 0) false)) 0 40 (engOp (.copy (copy0 0) false)) ∧ (copy0 0).commits = false ∧
    (labEng (.copy (copy0 0) false)).copyWaits (engOp (.copy (copy0 0) false)) (copy0 0) = false ∧
    (labEng (.copy (copy0 0) false)).joining (engOp (.copy (copy0 0) false)) = false ∧ (labEng (.copy (copy0 0) false)).engReady (engOp (.copy (copy0 0) false)) = true ∧
    (labEng (.copy (copy0 0) false)).runElems (engOp (.copy (copy0 0) false)) 1 ((copy0 0).elems false) = (u, none) :=
  ⟨_, engaged_of, by decide +kernel, by decide +kernel, by decide +kernel, by decide +kernel, rfl⟩
theorem witness_EngineOperationsEnd_byte :
    let s := labEng (.copy (copy0 1) false)
    let e := engOp (.copy (copy0 1) false)
    Engaged s 0 40 e ∧ (copy0 1).commits = false ∧ s.copyWaits e (copy0 1) = false ∧ s.joining e = false ∧ s.engReady e = true ∧ e.done = [] ∧ e.taken = [] ∧ (copy0 1).esz = 1 ∧
    (copy0 1).elems false = [(0, 64)] ∧ vaOk 0 = true ∧ vaOk 64 = true ∧ isWindow 0 = false ∧ isWindow 64 = false ∧ s.asidOfLaunch e.launch = 0 ∧
    s.peerOf 0 0 = none ∧ s.peerOf 0 64 = none ∧ s.chanOpen e 0 1 = false ∧ (s.engHear e 0).place 0 0 needRead = (s, .at (memKey 1 0x10000)) ∧
    s.isPoisoned (memKey 1 0x10000) 1 = false ∧ s.chanOpen e 64 1 = false ∧ (s.engHear e 64).place 0 64 needWrite = (s, .at (memKey 1 0x10040)) ∧
    Present s 0 64 0 ∧
    (s.homeWrite 0 64 (memKey 1 0x10040) [Mem.read s.mem (memKey 1 0x10000)] 0 false).isSome = true :=
  ⟨engaged_of, by decide +kernel, by decide +kernel, by decide +kernel, by decide +kernel, rfl, rfl, rfl, by decide +kernel, by decide, by decide, by decide, by decide,
    by decide +kernel, own_peer _ (by decide), own_peer _ (by decide), by decide +kernel, rfl, by decide +kernel, by decide +kernel, rfl, present_of (only (by decide +kernel)) (by decide +kernel),
    by decide +kernel⟩
def gather0 : GatherDesc := ⟨0x100, 0, 0, 0x40, true, 4⟩
theorem witness_EngineOperationsEnd_gather : ∃ u, Engaged (labEng (.gather gather0)) 0 40 (engOp (.gather gather0)) ∧
    (labEng (.gather gather0)).engReady (engOp (.gather gather0)) = true ∧
    (labEng (.gather gather0)).runGather (engOp (.gather gather0)) gather0 ((List.range gather0.count).filter fun i => !(engOp (.gather gather0)).done.contains i) = (u, none) :=
  ⟨_, engaged_of, by decide +kernel, rfl⟩
def drain0 : DrainDesc := { base := 0, rs := 0, cs := 0, x0 := 0, y0 := 0, xlo := 0, xhi := 0, ylo := 0, yhi := 0, resv := true, add := false, fmt := 0, elems := some [] }
theorem witness_EngineOperationsEnd_mdrain : ∃ u, Engaged (labEng (.mdrain drain0)) 0 40 (engOp (.mdrain drain0)) ∧
    (labEng (.mdrain drain0)).engReady (engOp (.mdrain drain0)) = true ∧ (labEng (.mdrain drain0)).runDrain (engOp (.mdrain drain0)) drain0 ((engOp (.mdrain drain0)).left []) = (u, none) :=
  ⟨_, engaged_of, by decide +kernel, rfl⟩
theorem witness_EngineOperationsEnd_drain : Engaged (labEng (.drainChan 2 [50])) 0 40 (engOp (.drainChan 2 [50])) ∧
    ∀ p ∈ (labEng (.drainChan 2 [50])).cores, ∀ o ∈ p.2.chanOps, o.id ∉ [50] :=
  ⟨engaged_of, by
    have h : (labEng (.drainChan 2 [50])).cores.all (fun p => p.2.chanOps.isEmpty) = true := by decide +kernel
    intro p hp o ho
    have := List.all_eq_true.1 h p hp
    simp [List.isEmpty_iff.1 this] at ho⟩

/-- A subscription whose fill is under way, and one that ends; a line of region 0 is in L2. -/
def sub0 : Sub := ⟨0, 0x1000, 128, false, false, 1, 1, 0, false⟩
def labSub : State :=
  (labEng (.subscribe 3)).modWg 0 fun w => { w with subs := [(3, sub0), (4, ⟨0x800, 0x2000, 128, true, true, 1, 1, 0, false⟩)] }
/-- What a run of reads of this module's memory gives, where each finds its place without a change. -/
theorem readRun_of {s : State} {k : Nat} : ∀ {va n : Nat}, (∀ i < n, s.peerOf 0 (va + i) = none ∧ s.place 0 (va + i) needRead = (s, .at (k + va + i)) ∧
    s.isPoisoned (k + va + i) 1 = false) → ∃ bs, s.readRun 0 va n = (s, .ok bs)
  | _, 0, _ => ⟨[], rfl⟩
  | va, n + 1, h => by
    obtain ⟨p, q, r⟩ := h 0 (by omega)
    simp only [Nat.add_zero] at p q r
    obtain ⟨bs, hb⟩ := readRun_of (va := va + 1) (n := n) fun i hi => by
      have := h (i + 1) (by omega)
      simpa only [show va + (i + 1) = va + 1 + i by omega, show k + va + (i + 1) = k + (va + 1) + i by omega] using this
    exact ⟨Mem.read s.mem (k + va) :: bs, by simp [State.readRun, p, q, r, hb]⟩
/-- A line in L2 is found without a change. -/
theorem place_l2 {s : State} {va k : Nat} {need : Need}
    (h1 : (hmOk (s.homeEntry 0 va) && !hmMig (s.homeEntry 0 va) && tierOf (s.homeEntry 0 va) != 2) = true)
    (h2 : ((s.die (hmHome (s.homeEntry 0 va))).l2Find 0 (lineOf va)).any (fun l => need.met l.rd l.wr true && l.key + va % 128 == k) = true) :
    s.place 0 va need = (s, .at k) := by
  simp only [Bool.and_eq_true, Bool.not_eq_true', bne_iff_ne, ne_eq] at h1
  cases hl : (s.die (hmHome (s.homeEntry 0 va))).l2Find 0 (lineOf va) with
  | none => simp [hl] at h2
  | some l =>
    simp only [hl, Option.any_some, Bool.and_eq_true, beq_iff_eq] at h2
    simp [State.place, State.steer, State.migrationOf, State.placeOld, State.placeAt, h1.1.1, h1.1.2, h1.2, hl, h2.1, h2.2]
theorem labSub_line (i : Nat) (hi : i < 128) :
    labSub.place 0 (0 + i) needRead = (labSub, .at (memKey 1 0x10000 + 0 + i)) ∧ labSub.isPoisoned (memKey 1 0x10000 + 0 + i) 1 = false :=
  ⟨place_l2 ((by decide +kernel : ∀ i < 128, (hmOk (labSub.homeEntry 0 (0 + i)) && !hmMig (labSub.homeEntry 0 (0 + i)) && tierOf (labSub.homeEntry 0 (0 + i)) != 2) = true) i hi)
      ((by decide +kernel : ∀ i < 128, ((labSub.die (hmHome (labSub.homeEntry 0 (0 + i)))).l2Find 0 (lineOf (0 + i))).any
        (fun l => needRead.met l.rd l.wr true && l.key + (0 + i) % 128 == memKey 1 0x10000 + 0 + i) = true) i hi),
    (by decide +kernel : ∀ i < 128, labSub.isPoisoned (memKey 1 0x10000 + 0 + i) 1 = false) i hi⟩
theorem labSub_peer (va : Nat) (h : va < 2 ^ 21) : labSub.peerOf 0 va = none := by
  unfold State.peerOf
  rw [Nat.div_eq_of_lt h]
  change (match Config.homeDevice 0 0 with | some d => if d = (Config.homeDevice 0 0).getD 0 then none else some d.toNat | none => none) = none
  cases Config.homeDevice 0 0 <;> simp
theorem witness_EngineQueuesAndCaches_fill : ∃ bs, labSub.wg? 0 = some (wgOf labSub) ∧ SMap.get? (wgOf labSub).subs 3 = some sub0 ∧
    labSub.subEng 0 3 (wgOf labSub) = some (engOp (.subscribe 3)) ∧ labSub.ownerCore 0 0 = some 0 ∧ labSub.asidOf 0 = 0 ∧
    labSub.readRun 0 0 128 = (labSub, .ok bs) := by
  obtain ⟨bs, h⟩ := readRun_of (s := labSub) (k := memKey 1 0x10000) (va := 0) (n := 128) fun i hi =>
    ⟨labSub_peer (0 + i) (by omega), labSub_line i hi⟩
  exact ⟨bs, by decide +kernel, by decide +kernel, by decide +kernel, by decide +kernel, by decide +kernel, h⟩
theorem witness_EngineQueuesAndCaches_unsub : ∃ u, labSub.wg? 0 = some (wgOf labSub) ∧ SMap.get? (wgOf labSub).subs 4 = some u ∧ u.ending = true ∧
    labSub.subEng 0 4 (wgOf labSub) = none :=
  ⟨_, by decide +kernel, rfl, rfl, by decide +kernel⟩
/-- Commands in q0 and q2: an MMA of two rows from 126 on; a copy from a descriptor. -/
def labQ0 : State := labG fun g => { g with ports := [(0, [0x007E0200]), (2, [0, 0, 0])] }
theorem witness_EngineQueuesAndCaches_commands : ∃ y, labQ0.wg? 0 = some (wgOf labQ0) ∧ (wgOf labQ0).group? 0 = some y ∧ labQ0.group? 0 0 = some y ∧
    (y.port 0).length < 4 ∧ (y.port 2).length < 4 ∧ y.port 0 = [0x007E0200] ∧ (wgOf labQ0).mtx.queue.length < 16 ∧ (wgOf labQ0).mtx.dead = false ∧
    (0x007E0200 : Word32).toNat = 0 * 2 ^ 30 + false.toNat * 2 ^ 29 + (0 : BitVec 3).toNat * 2 ^ 26 + (0 : BitVec 3).toNat * 2 ^ 23 + (126 : BitVec 7).toNat * 2 ^ 16 +
      (1 : BitVec 7).toNat * 2 ^ 9 + false.toNat * 2 ^ 8 :=
  ⟨_, by decide +kernel, rfl, rfl, by decide +kernel, by decide +kernel, by decide +kernel, by decide +kernel, by decide +kernel, by decide⟩
theorem witness_EngineQueuesAndCaches_copy : ∃ y off z tr sc, labQ0.wg? 0 = some (wgOf labQ0) ∧ labQ0.launchOf 0 = some (launchAt labQ0) ∧
    (wgOf labQ0).group? 0 = some y ∧ y.port 2 = [0, 0, 0] ∧ y.q2Started < 4 ∧ (labQ0.core 0).eng = [] ∧ q2Command (0 : Word32).toNat = some (off, z, tr, none, sc) ∧
    off + 96 ≤ (launchAt labQ0).rcd.scratch ∧ (wgOf labQ0).writesOpen y.slots off 96 = false ∧ labQ0.isPoisoned (scratchKey 0 off) 96 = false ∧
    (copyDescOf (labQ0.scratchBytes 0 off 96) z none sc).ok tr (wgOf labQ0).cbs = true :=
  ⟨_, _, _, _, _, by decide +kernel, by decide +kernel, rfl, by decide +kernel, by decide +kernel, by decide +kernel, rfl, by decide +kernel⟩
def cache0 (flush : Bool) (cs : List Nat) : CacheOp :=
  { id := 70, uid := 1, ct := 2, flush := flush, lo := 0, hi := 0, all := true, asid := 0, cores := cs, clusters := [0], before := [], started := false }
def labCache (o : CacheOp) : State := lab.modCore 0 fun c => { c with cacheOps := [o] }
theorem witness_EngineQueuesAndCaches_caches (cs : List Nat) (h : cs = [0] ∨ cs = [0, 1]) :
    (labCache (cache0 false cs)).cacheOp? 70 = some (0, cache0 false cs) ∧ cache0 false cs ∈ ((labCache (cache0 false cs)).core 0).cacheOps ∧ 0 ∈ cs ∧
    (labCache (cache0 false cs)).wg? 0 = some (wgOf (labCache (cache0 false cs))) ∧
    (labCache (cache0 false cs)).alive (wgOf (labCache (cache0 false cs))).launch (wgOf (labCache (cache0 false cs))).wgno [] = false ∧ (labCache (cache0 false cs)).heldWrites = [] ∧
    ((labCache (cache0 true [])).core 0).cacheOps.find? (·.id == 70) = some (cache0 true []) := by
  rcases h with rfl | rfl <;> exact ⟨by decide +kernel, by decide +kernel, by decide, by decide +kernel⟩

/-! ## Channels -/

/-- Channel 2 has an open session to die 0 of this module under epoch 5 (stream 21), at the wrap of its sequence numbers: one packet, numbered 0xFFFF, is not
acknowledged; one operation has not been sent. -/
def sess0 : Session := { Session.closed with state := .opened, epoch := 5, next := 0, acked := 0xFFFE, openedAt := 3 }
def opA : ChanOp := { chanOp0 with id := 50, sess := some 3, stream := 21, seq := some 0xFFFF }
def opB : ChanOp := { chanOp0 with id := 51, sess := some 3, stream := 21 }
def pkt0 : Packet := ⟨3, 21, 0xFFFF, 0, [50], [], 0, 0, false⟩
def labCh (x : Session) (ops : List ChanOp) (ps : List Packet) : State :=
  (labW fun w => { w with chans := [(2, [x, Session.closed, Session.closed, Session.closed])] }).modCore 0 fun c => { c with chanOps := ops, packets := ps }
/-- The lab with a message that has arrived, and a resequencer at die 0. -/
def withMsg (s : State) (m : ChanMsg) (e : List ReseqEntry) : State := { (s.modDie 0 fun d => { d with reseq := e }) with msgs := [m] }

theorem witness_PacketsTravel_send :
    let s := labCh sess0 [opB] []
    s.sess? 0 3 = some (2, 0, sess0, false) ∧ sess0.state = .opened ∧ AllInSession s ∧ s.linkOk sess0.dev 0 = true ∧ s.resendable 0 3 sess0.acked = none ∧
    ((s.opsOf 0 3).filter (·.seq.isNone)).take (([] : List ChanOp).length + 1) = [opB] ∧ (∀ q ∈ [opB], s.sendable 0 q = true ∧ q.kind ≤ 3) ∧
    (([opB].map (·.dataBytes)).sum ≤ 256) ∧ (s.core 0).packets.length < 512 ∧ 21 = s.devNum.toNat * 2 ^ 16 + 0 * 2 ^ 7 + 2 * 2 ^ 3 + sess0.epoch :=
  ⟨by decide +kernel, rfl, by unfold AllInSession; decide +kernel, by decide +kernel, by decide +kernel, by decide +kernel, by decide +kernel, by decide,
    by decide +kernel, by decide +kernel⟩
def entry0 : ReseqEntry := ⟨21, 0xFFFF, [], [], [], false⟩
theorem witness_PacketsTravel_arrive :
    let s := withMsg lab (.packet 0 21 0xFFFF [] [opA]) [entry0]
    s.msgs[0]? = some (.packet 0 21 entry0.expected [] [opA]) ∧ (s.die 0).entry? 21 = some entry0 ∧ entry0.held = [] ∧ [opA] = [opA].map (s.retag 21) ∧
    ∃ u done, (((s.takeMsg 0).setDie 0 (s.die 0)).modDie 0 (·.setEntry { entry0 with held := [(entry0.expected, [opA])] })).applyOps 0 entry0.doing [opA] = (u, done) ∧
      ∀ o ∈ [opA], ∃ a ∈ done, a.op = o.id :=
  ⟨by decide +kernel, by decide +kernel, rfl, by decide +kernel, _, _, rfl, by decide +kernel⟩
theorem witness_PacketsTravel_refused :
    let s := withMsg lab (.packet 0 21 63 [] [opA]) [entry0]
    s.msgs[0]? = some (.packet 0 21 63 [] [opA]) ∧ (s.die 0).entry? 21 = some entry0 ∧ seqSub 63 entry0.expected = 64 ∧
    let s := withMsg lab (.packet 0 21 0x7FFE [] [opA]) [entry0]
    s.msgs[0]? = some (.packet 0 21 0x7FFE [] [opA]) ∧ seqSub 0x7FFE entry0.expected = 2 ^ 15 - 1 :=
  ⟨by decide +kernel, by decide +kernel, by decide, by decide +kernel, by decide⟩
theorem witness_PacketsTravel_ack : ((withMsg lab (.scl 0 0) [{ entry0 with owesAck := true }]).die 0).entry? 21 = some { entry0 with owesAck := true } := by decide +kernel

theorem witness_SourcesHear_ack :
    let s := withMsg (labCh sess0 [opA] [pkt0]) (.ack 0 0 21 0xFFFF []) []
    s.msgs[0]? = some (.ack 0 0 21 0xFFFF []) ∧
    s.sessFrom 0 0 21 (fun y => (y.state == .opened || y.state == .resync) && decide (0 < seqSub 0xFFFF y.acked) &&
      decide (seqSub 0xFFFF y.acked ≤ seqSub y.next ((y.acked + 1) % 2 ^ 16))) = some (2, 0, sess0, false) ∧
    s.sess? (streamCore 21) sess0.openedAt = some (2, 0, sess0, false) ∧ AllInSession s ∧ sess0.state = .opened ∧
    (s.wg? (streamCore 21)).all (fun w => !w.retired) = true :=
  ⟨by decide +kernel, by decide +kernel, by decide +kernel, by unfold AllInSession; decide +kernel, rfl, by decide +kernel⟩
theorem witness_SourcesHear_others :
    let s := withMsg (labCh sess0 [opA] [pkt0]) (.nak 0 0 21 0 0xFFFF) []
    s.msgs[0]? = some (.nak 0 0 21 0 0xFFFF) ∧ pkt0 ∈ (s.core (streamCore 21)).packets ∧ s.sess? (streamCore 21) pkt0.sess = some (2, 0, sess0, false) ∧
    sess0.dev = 0 ∧ sess0.die = 0 ∧ (withMsg lab (.scl 0 21) [entry0]).msgs[0]? = some (.scl 0 21) := by
  decide +kernel

/-- A session with another module, whose packet's link is down; the handshake under way, at its first and its last attempt. -/
def sessFar : Session := { sess0 with dev := 3, die := 1 }
theorem witness_HandshakeSteps_lost :
    let s := withMsg (labCh sessFar [opA] [pkt0]) (.linkDown 0 3) []
    s.sess? 0 3 = some (2, 0, sessFar, false) ∧ sessFar.state = .opened ∧ pkt0 ∈ (s.core 0).packets ∧ pkt0.sess = 3 ∧ .linkDown 0 3 ∈ s.msgs ∧
    ∀ q ∈ (s.core 0).packets, q.sess = 3 → pkt0.sentAt ≤ q.sentAt :=
  ⟨by decide +kernel, rfl, by decide +kernel, rfl, by decide +kernel, by decide +kernel⟩
theorem witness_HandshakeSteps_request : (withMsg lab (.rsq 0 21 0xFFFE) [entry0]).msgs[0]? = some (.rsq 0 21 0xFFFE) ∧
    (withMsg lab (.rsd 0 21) [entry0]).msgs[0]? = some (.rsd 0 21) := by decide +kernel
def sessR (n : Nat) : Session := { sessFar with state := .resync, attempt := n }
theorem witness_HandshakeSteps_answer :
    let s : State := { withMsg (labCh (sessR 1) [] []) (.rsa 3 1 21 0xFFFE []) [] with linksUp := [17] }
    s.msgs[0]? = some (.rsa 3 1 21 0xFFFE []) ∧ s.linksUp ≠ [] ∧ s.sessFrom 3 1 21 (fun y => y.state == .resync && !y.rsa) = some (2, 0, sessR 1, false) ∧
    s.sess? (streamCore 21) (sessR 1).openedAt = some (2, 0, sessR 1, false) ∧ AllInSession s ∧ (s.wg? (streamCore 21)).all (fun w => !w.retired) = true ∧
    s.opsOf (streamCore 21) 3 = [] ∧ (∀ p ∈ (s.core (streamCore 21)).packets, p.sess ≠ 3) ∧ (sessR 1).inRange 0xFFFE = false :=
  ⟨by decide +kernel, by decide +kernel, by decide +kernel, by decide +kernel, by unfold AllInSession; decide +kernel, by decide +kernel, by decide +kernel, by decide +kernel,
    by decide⟩
/-- The RSA acknowledges nothing new: the packet numbered 0xFFFF goes again. -/
theorem witness_HandshakeSteps_again : ∃ u,
    let s : State := { withMsg (labCh (sessR 1) [opA] [pkt0]) (.rsa 3 1 21 0xFFFE []) [] with linksUp := [17] }
    s.msgs[0]? = some (.rsa 3 1 21 0xFFFE []) ∧ s.linksUp ≠ [] ∧ s.sessFrom 3 1 21 (fun y => y.state == .resync && !y.rsa) = some (2, 0, sessR 1, false) ∧
    s.sess? (streamCore 21) (sessR 1).openedAt = some (2, 0, sessR 1, false) ∧ AllInSession s ∧ (s.wg? (streamCore 21)).all (fun w => !w.retired) = true ∧
    seqSub (sessR 1).next (sessR 1).acked ≤ 2 ^ 15 ∧
    u = (if (sessR 1).inRange 0xFFFE then ((s.takeMsg 0).hearAck (streamCore 21) (sessR 1)).acceptAck (streamCore 21) (sessR 1).openedAt 0xFFFE (sessR 1) []
      else (s.takeMsg 0).hearAck (streamCore 21) (sessR 1)) ∧
    pkt0 ∈ (u.core (streamCore 21)).packets ∧ pkt0.sess = (sessR 1).openedAt ∧ (sessR 1).inRange pkt0.seq = true :=
  ⟨_, by decide +kernel, by decide +kernel, by decide +kernel, by decide +kernel, by unfold AllInSession; decide +kernel, by decide +kernel, by decide, rfl, by decide +kernel,
    by decide, by decide⟩
theorem witness_HandshakeSteps_attempts (n : Nat) (h : n = 7 ∨ n = 8) :
    let s := labCh (sessR n) [] []
    s.sess? 0 3 = some (2, 0, sessR n, false) ∧ (sessR n).state = .resync ∧ (sessR n).rsa = false ∧ s.opsOf 0 3 = [] ∧ AllInSession s := by
  unfold AllInSession
  rcases h with rfl | rfl <;> exact ⟨by decide +kernel, rfl, rfl, by decide +kernel, by decide +kernel⟩
/-- A link that is up, with a packet of a session with another module on it. -/
theorem witness_HandshakeSteps_links :
    let s : State := { labCh sessFar [opA] [pkt0] with linksUp := [0] }
    (2, 0, sessFar, false) ∈ s.sessionsAt 0 ∧ (0, s.core 0) ∈ s.cores ∧ sessFar.dev ≠ s.devNum.toNat ∧ pkt0 ∈ (s.core 0).packets ∧
    pkt0.sess = sessFar.openedAt ∧ pkt0.link = 0 ∧ 0 ∈ s.linksUp ∧ 17 < 18 := by decide +kernel

/-! ## The matrix engine -/

def mword (i : Instr) : MWord :=
  { id := 30, instr := i, uid := 1, gslot := 0, hdr := 0, wix := 1, pc := 8, ct := 3, sx := 0, sy := 0, drain := none, slots := List.range 8, vals := [], fromQ0 := false
    bad := false, reads := none, before := [], nibbles := none }
def labMx (q : List MWord) (r : Option MWord) (gather : Bool) (gn : Nat) : State :=
  labX1.modWg 0 fun w => { w with mtx := { w.mtx with queue := q, running := r, gather := gather, recs := { w.mtx.recs with gn := gn } } }
theorem witness_MatrixEngineTurns_start :
    let q := mword (.mma plain false 1 1 0 0 0)
    let s := labMx [q] none false 1
    s.wg? 0 = some (wgOf s) ∧ (wgOf s).mtx.queue = [q] ∧ (wgOf s).mtx.running = none ∧ (wgOf s).mtx.dead = false ∧ s.alive (wgOf s).launch (wgOf s).wgno q.before = false ∧
    q.fromQ0 = false ∧ s.coreOn 0 = true ∧ sparsePass q.instr = false ∧ needsPermit (s.recOf 0) (wgOf s).mtx q = false ∧ (wgOf s).mtx.passOpen = none :=
  ⟨by decide +kernel, by decide +kernel, by decide +kernel, by decide +kernel, by decide +kernel, rfl, by decide +kernel, rfl, by decide +kernel, by decide +kernel⟩
theorem witness_MatrixEngineTurns_q0 : commandOk (labX1.recOf 0) (wgOf labX1).mtx.recs { mword (.mma plain false 1 1 0 0 0) with fromQ0 := true } = true := by decide +kernel
theorem witness_MatrixEngineTurns_end : ∃ o,
    let q := mword (.mma plain false 1 1 0 0 0)
    let s := labMx [] (some q) false 1
    s.wg? 0 = some (wgOf s) ∧ (wgOf s).mtx.running = some q ∧ (wgOf s).mtx.gather = false ∧ ¬ gathers q (wgOf s).mtx.recs.gn ∧ q.drain = none ∧ q.reads = none ∧
    mtxEffect (s.recOf 0) q (wgOf s).mtx (q.taken []) none = o ∧ trapped o.fl.word (s.recOf 0).tmask = false :=
  ⟨_, by decide +kernel, by decide +kernel, by decide +kernel, (fun h => by obtain ⟨_, _, _, _, _, _, _, h⟩ := h; cases h), rfl, rfl, rfl, by decide +kernel⟩
theorem witness_MatrixEngineTurns_mzero :
    let q := mword (.mzero plain false true 127 128 0)
    let s := labMx [] (some q) false 1
    s.wg? 0 = some (wgOf s) ∧ (wgOf s).mtx.running = some q ∧ (wgOf s).mtx.gather = false ∧ q.drain = none ∧ q.reads = none :=
  ⟨by decide +kernel, by decide +kernel, by decide +kernel, rfl, rfl⟩
/-- Two cores of a gang hold words that gather. -/
def gword : MWord := { mword (.mldaG plain 1 0 0 0 5) with reads := some (0, 0, 24) }
def labGang : State :=
  let w := { placedWg (placedLaunch 0) 9 0 [0, 0] with wgno := 1, rank := 1, gangSize := 2 }
  let s := (labMx [] (some gword) true 2).modWg 0 fun w => { w with gangSize := 2 }
  let m := (wgOf s).mtx
  (s.modCore 1 fun c => { c with wg := some { w with mtx := m } }).modLaunch 0 fun l => { l with rcd := { l.rcd with gangLog := 1, part := [0, 1] } }
theorem witness_MatrixEngineTurns_gather :
    let s := labMx [] (some gword) false 2
    s.wg? 0 = some (wgOf s) ∧ (wgOf s).mtx.running = some gword ∧ (wgOf s).mtx.gather = false ∧ gathers gword (wgOf s).mtx.recs.gn :=
  ⟨by decide +kernel, by decide +kernel, by decide +kernel, by decide +kernel, _, _, _, _, _, _, rfl⟩
theorem witness_MatrixEngineTurns_transfer :
    labGang.wg? 0 = some (wgOf labGang) ∧ 1 < labGang.jointGn (wgOf labGang) ∧
    (mSet (labGang.jointGn (wgOf labGang)) (wgOf labGang).rank).map (labGang.rankCore (wgOf labGang).launch (wgOf labGang).gang) = [0, 1].map some ∧
    (wgOf labGang).mtx.running = some gword ∧ gword.reads = some (0, 0, 24) ∧ labGang.isPoisoned (scratchKey 0 0) 24 = false ∧
    (gFields (wgOf labGang).mtx).isSome = true ∧
    ∀ e ∈ [0, 1], ∃ y, labGang.wg? e = some y ∧ gFields y.mtx = gFields (wgOf labGang).mtx := by
  refine ⟨by decide +kernel, by decide +kernel, by decide +kernel, by decide +kernel, rfl, by decide +kernel, by decide +kernel, fun e he => ?_⟩
  simp only [List.mem_cons, List.not_mem_nil, or_false] at he
  rcases he with rfl | rfl <;> exact ⟨_, rfl, rfl⟩
/-- An island at 95.0 degrees, with a core that waits for a permit. -/
def labTG : State :=
  (labMx [] none false 1).modIsland 0 (fun i => { i with temp := 760, waiters := [⟨1024, true, 0⟩] }) |>.modWg 0 fun w => { w with mtx := { w.mtx with waitsPermit := true } }
theorem witness_MatrixEngineTurns_tollgate : (labTG.island 0).cur ≠ 4 ∧ 760 ≤ (labTG.island 0).temp.toNat ∧
    (labTG.island 0).win < (labTG.island 0).ck / 1024 + 1 ∧
    (labTG.island 0).waiters = [0].map (fun c => ⟨1024 * ((labTG.island 0).ck / 1024 + 1), true, c⟩) ∧
    (∀ c ∈ [0], ((labTG.wg? c).any fun w => w.mtx.waitsPermit) = true) ∧ [0].Nodup := by decide +kernel

/-! ## Exceptions and faults -/

theorem witness_ExceptionsHalt :
    (lab.ctx? (headOf ((0x3F : BitVec 8).toNat * 2 ^ 56 + (0 : BitVec 56).toNat)) (0x3F : BitVec 8).toNat none).isSome = true ∧
    (labCap.ctx? (headOf ((0x3F : BitVec 8).toNat * 2 ^ 56 + (0 : BitVec 56).toNat)) (0x3F : BitVec 8).toNat none).isSome = true ∧
    labCap.dbgOk (launchAt labCap) = true ∧ lab.dbgOk (launchAt lab) = false := by decide +kernel

/-- A core that waits to save; one that goes on; one that halted in this clock, or before. -/
def exc0 : Exc := ⟨0x10, 0, 0, 1, 8⟩
theorem witness_ExceptionsHalt_kept : let s := labW fun w => { w with saving := true }
    s.wg? 0 = some (wgOf s) ∧ s.launchOf 0 = some (launchAt s) ∧ (wgOf s).saving = true ∧ (wgOf s).halt = none := by decide +kernel
theorem witness_ExceptionsHalt_raised (s : State) (h : s = lab ∨ s = lab.raise 0 exc0 1 ∨ s = (lab.raise 0 exc0 1).modCore 0 fun k => { k with ck := k.ck + 1 }) :
    s.wg? 0 = some (wgOf s) ∧ s.launchOf 0 = some (launchAt s) ∧ (wgOf s).saving = false := by
  rcases h with rfl | rfl | rfl <;> decide +kernel
theorem witness_ExceptionsHalt_clocks : let s := lab.raise 0 exc0 1; let s' := s.modCore 0 fun k => { k with ck := k.ck + 1 }
    (wgOf lab).halt = none ∧ (wgOf s).halt.any (fun h => h.ck == some (s.core 0).ck) = true ∧ (wgOf s').halt.any (fun h => h.ck != some (s'.core 0).ck) = true := by
  decide +kernel
/-- The ring of tenant 0 stands at 0x8000 in host memory and holds four records; the host has read `n`. -/
def rec0 : FRec := { id := none, va := 0x30040, asid := 0, core := 0, kind := 1, cause := 0, uid := 90 }
def labRing (w : Nat) (arr held un : List FRec) : State :=
  { lab with tenants := [(0, { tenant0 with ringW := w, arriving := arr, held := held, unanswered := un })] }
theorem witness_FaultsRecordedAndAnswered_ring :
    ((labRing 3 [rec0] [] []).tenant 0).arriving = [rec0] ∧ ((labRing 3 [rec0] [] []).tenant 0).held = [] ∧ ¬ RingFull (labRing 3 [rec0] [] []) 0 ∧ rec0.kind ≠ 0xFF ∧
    ((labRing 3 [rec0] [] []).tenant 0).unanswered.length < 2 ^ 16 ∧ ((labRing 4 [rec0] [] []).tenant 0).arriving = [rec0] ∧ RingFull (labRing 4 [rec0] [] []) 0 ∧
    ((labRing 3 [] [rec0] []).tenant 0).held = [rec0] ∧ ¬ RingFull (labRing 3 [] [rec0] []) 0 := by
  unfold RingFull
  decide +kernel
/-- A load whose page the host's answer is about, in the operand log; and a group that cannot fetch its clause. -/
def rec1 : FRec := { rec0 with id := some 7 }
def logEntry0 : LogEntry := ⟨0, 8, 1, false, 0, 20, [(3, 0)], 1, [0x30040], [0]⟩
def labLog : State :=
  { (labW fun w => { w with ops := [{ miss0 .load 0x30040 with lanes := [{ lane0 with space := .trans, off := 0x30040, stat := .logged 0 }] }]
                            log := [(0, logEntry0), (1, { logEntry0 with op := 1 })]
                            groups := w.groups.map fun p => (p.1, { p.2 with wait := some .clauseFault }) }) with
    tenants := [(0, { tenant0 with unanswered := [rec1] })] }
theorem witness_FaultsRecordedAndAnswered_answer : labLog.answered 0 7 = some rec1 ∧ rec1.depot = false ∧ rec1.core ≠ 512 ∧ labLog.wg? 0 = some (wgOf labLog) ∧ labLog.asidOf 0 = 0 ∧
    labLog.ownerCore (wgOf labLog).launch (wgOf labLog).wgno = some 0 ∧ labLog.launchOf 0 = some (launchAt labLog) ∧ NothingHeld labLog ∧ (labLog.core 0).chanOps = [] ∧
    (∀ o ∈ (wgOf labLog).ops, o.chan = none) ∧ (wgOf labLog).log ≠ [] := by
  unfold NothingHeld
  decide +kernel
/-- The record of a dump. -/
def labDep : State := labRing 3 [] [] [{ rec1 with depot := true }]
theorem witness_FaultsRecordedAndAnswered_depot : labDep.answered 0 7 = some { rec1 with depot := true } := by decide +kernel
def labSw : State :=
  let l := { placedLaunch 5 with stat := .pending }
  { labLog with launches := labLog.launches ++ [l] }
theorem witness_FaultsRecordedAndAnswered_switch : labSw.wg? 0 = some (wgOf labSw) ∧ (wgOf labSw).halt = none ∧ (wgOf labSw).saving = false ∧ (wgOf labSw).retired = false ∧
    (wgOf labSw).groups ≠ [] ∧ (∀ p ∈ (wgOf labSw).groups, (wgOf labSw).blockedOnFault p.2 = true) ∧ labSw.otherContext 0 (wgOf labSw).launch = true := by decide +kernel

/-! ## Homes and milestones -/

theorem witness_HomesChange_map : lab.ready = true ∧ (∀ p ∈ lab.dies, ∀ m ∈ p.2.slots, m.2.asid = 0 → m.2.region ≠ 2 ^ 36 - 1) ∧ 2 ^ 36 - 1 < 2 ^ 36 := by decide +kernel
def labSh : State := lab.modCore 0 fun c => { c with shoots := [(70, 0, 0, 0x20000)] }
theorem witness_HomesChange_shoot : (labSh.core 0).shoots = [(70, 0, 0, 0x20000)] := by decide +kernel
/-- The TLB's record of a page of a confidential tenant, whose table maps it no more; a module that is not ready. -/
def labWm : State :=
  { lab with tenants := [(0, { tenant0 with key := some 77, cfg := { tenant0.cfg with conf := true, root := 0x40000 } })],
             dies := [(0, { die0 with wmaps := [⟨5, 1, 0, 0x20000⟩] })] }
theorem witness_HomesChange_freed : labWm.ready = true ∧ State.reset.ready = false ∧ Freed labWm { labWm with dies := [(0, die0)] } 0 (memKey 0 0x50000) :=
  ⟨by decide +kernel, by decide +kernel, 0, by decide +kernel, by decide +kernel, (memKey 0 0x50000, 0x10000), by decide +kernel, 0, by decide, by decide +kernel,
    by decide +kernel, by decide +kernel⟩
/-- Three migrations are under way at die 0; region 1 is in host memory. -/
def labMig : State :=
  { (lab.modDie 0 fun d => { d with slots := (List.range 3).map fun k => (k, ⟨0, 5 + k, 1, 0, 0, 0, 60⟩) }) with homeMap := [(0, 0x88000000), (1, 0x80200000)] }
theorem witness_HomesChange_migrate : let e := labMig.homeEntry 0 (0 * 2 ^ 21)
    labMig.ready = true ∧ hmOk e = true ∧ hmHost e = false ∧ hmMig e = false ∧ SMap.lowestFree (labMig.die (hmHome e)).slots 4 = some 3 ∧
    (∀ ti, labMig.tenantOfAsid 0 = some ti → (labMig.tenant ti).cut = none) ∧ 3 < 4 ∧ 1 < 2 ∧ hmHost (labMig.homeEntry 0 (1 * 2 ^ 21)) = true :=
  ⟨by decide +kernel, by decide +kernel, by decide +kernel, by decide +kernel, by decide +kernel, fun ti e => by rw [only (by decide +kernel : labMig.tenantOfAsid 0 = some 0) ti e]; decide +kernel,
    by decide, by decide, by decide +kernel⟩
/-- A fourth migration, or an open window, makes the next one wait. -/
def labMig4 : State := labMig.modDie 0 fun d => { d with slots := d.slots ++ [(3, ⟨0, 8, 1, 0, 0, 0, 60⟩)] }
theorem witness_HomesChange_waits : let e := labMig4.homeEntry 0 (0 * 2 ^ 21)
    labMig4.ready = true ∧ hmOk e = true ∧ hmHost e = false ∧ hmMig e = false ∧ SMap.lowestFree (labMig4.die (hmHome e)).slots 4 = none := by decide +kernel
def mig0 : Migration := ⟨0, 0, 1, 0, 0x200000, 0, 60⟩
def labMv : State := lab.modDie 0 fun d => { d with slots := [(2, mig0)] }
theorem witness_HomesChange_move : SMap.get? (labMv.die 0).slots 2 = some mig0 ∧ mig0.line + 1 < 2 ^ 14 ∧ NothingHeld labMv ∧
    (∀ p ∈ labMv.cores, ∀ q ∈ p.2.shoots, q.1 ≠ mig0.told) ∧
    (labMv.die 0).l2Find mig0.asid (mig0.region * 2 ^ 14 + mig0.line) = some ⟨0, 0, memKey 1 0x10000, true, true, false⟩ := by
  unfold NothingHeld
  decide +kernel
/-- A core has not yet heard of it. -/
def labTold : State := labMv.modCore 0 fun c => { c with shoots := [(60, 0, 0, 0x200000)] }
theorem witness_HomesChange_untold : SMap.get? (labTold.die 0).slots 2 = some mig0 ∧ ∃ p ∈ labTold.cores, ∃ q ∈ p.2.shoots, q.1 = mig0.told := by decide +kernel

/-- A cut to generation 1 that core 0 and die 2 have to hear of, with a marker to send and one on its way. -/
def cut0 : Cut := { gen := 1, op := none, pkt := none, coresToMove := [0], diesToMove := [2], owe := [(true, 0, 3)], sent := [(false, 0, 1)] }
def labCut (k : Cut) : State := { lab with tenants := [(0, { tenant0 with cut := some k })] }
theorem witness_MilestonesAdvance_hear : ((labCut cut0).tenant 0).cut = some cut0 ∧ 0 ∈ cut0.coresToMove ∧ 2 ∈ cut0.diesToMove ∧ (true, 0, 3) ∈ cut0.owe ∧
    (labCut cut0).hubMarkerReady 0 cut0.gen 3 = true ∧ (false, 0, 1) ∈ cut0.sent ∧ cut0.owe ≠ [] := by decide +kernel
/-- A core that has heard of the cut sends its marker. -/
theorem witness_MilestonesAdvance_core : let k : Cut := { cut0 with coresToMove := [], owe := [(false, 0, 3)] }
    ((labCut k).tenant 0).cut = some k ∧ (false, 0, 3) ∈ k.owe ∧ (labCut k).markerReady 0 k.gen 0 3 = true := by decide +kernel
def cut1 : Cut := { cut0 with coresToMove := [], diesToMove := [], owe := [] }
theorem witness_MilestonesAdvance_last : ((labCut cut1).tenant 0).cut = some cut1 ∧ cut1.owe = [] ∧ cut1.sent = [(false, 0, 1)] ∧ cut1.diesToMove = [] ∧ cut1.pkt = none ∧
    ((labCut cut1).tenant 0).snaps = [] := by decide +kernel
/-- Generation 0 is frozen with one page mapped, and its image begins at 0x200000. -/
def frozen1 : Frozen := { frozen0 with pages := [(0, memKey 1 0x10000)], base := some 0x200000 }
def labFz : State := { lab with tenants := [(0, { tenant0 with gen := 1, maxGen := 1, frozen := [frozen1] })] }
theorem witness_MilestonesAdvance_drain : (labFz.tenant 0).toDrain = some frozen1 ∧ frozen1.base = some 0x200000 ∧
    frozen1.pages[frozen1.drained.length]? = some (0, memKey 1 0x10000) := by decide +kernel
def revert0 : Pkt := { num := 3, ty := 6, tok := 0xFFF, tval := 0, irq := false, started := true, f := [0x0600000000000000, 0, 0, 0, 0, 0, 0, 0], fault := none, refused := none }
def labRv : State := { labFz with launches := [], queues := [(4, { Queue.none with mapped := true, log := 4, readIx := 4, writeIx := 4, pkts := [revert0] })] }
theorem witness_MilestonesAdvance_revert : (labRv.queue 4).pkts.find? (fun p => p.ty == 6 && p.started) = some revert0 ∧
    (∀ l ∈ labRv.launches, l.tenant = (labRv.queue 4).tenant → l.stat ≠ .resident) ∧ (labRv.tenant (labRv.queue 4).tenant).cut = none ∧
    (labRv.tenant (labRv.queue 4).tenant).snaps = [] ∧ revert0.word 1 = 0 ∧
    (labRv.tenant (labRv.queue 4).tenant).frozen.find? (fun f => f.gen == (revert0.word 2).toNat % 2 ^ 32) = some frozen1 ∧ frozen1.pages = [(0, memKey 1 0x10000)] ∧
    ∀ i < 512, labRv.byteNow (labRv.tenant (labRv.queue 4).tenant) 0 (memKey 1 0x10000) (128 * i) = memKey 1 0x10000 + 128 * i := by
  decide +kernel

/-! ## Queues and packets -/

def queue4 : Queue := { Queue.none with mapped := true, log := 4, base := 0x1000, readIx := 4, writeIx := 5 }
/-- A lab whose queue 4 stands at the packet of the given words. -/
def labPk (ws : List Nat) (s : State := lab) : State := { s with queues := [(4, queue4)], mem := Mem.writeBytes s.mem (memKey 1 0x11100) (ws.flatMap (natToBytes 8)) }
def pk (s : State) : Pkt := match s.headPkt 4 with | some (.ok p) => p | _ => revert0
def stands (s : State) (ty : Nat) : Bool :=
  match s.headPkt 4 with
  | some (.ok p) => p.ty == ty && bits (p.word 0).toNat 53 44 == 0 && bits (p.word 0).toNat 31 0 == 0
  | _ => false
theorem packet_of {s : State} {ty : Nat} (h : stands s ty = true) : AtPacket s 4 ty (pk s) := by
  unfold stands at h
  split at h
  · rename_i p e
    have hp : pk s = p := by simp [pk, e]
    simp only [Bool.and_eq_true, beq_iff_eq] at h
    exact hp ▸ ⟨e, h.1.1, h.1.2, h.2⟩
  · cases h
/-- The words of a packet. -/
def wd (s : State) (i : Nat) : Nat := ((pk s).word i).toNat

theorem witness_PacketsComplete_doorbell : let s := labPk [] ; let n := (4 : Nat)
    (s.queue n).mapped = true ∧ (s.queue n).unmapping = false ∧ s.ready = true ∧ (s.queue n).writeIx < (20 : BitVec 64).toNat ∧
    (20 : BitVec 64).toNat ≤ (s.queue n).readIx + 2 ^ (s.queue n).log ∧ (s.queue n).readIx + 2 ^ (s.queue n).log < (21 : BitVec 64).toNat := by decide +kernel
theorem witness_PacketsComplete_unassigned : (labPk [9 * 2 ^ 56]).headPkt 4 = some (.ok (pk (labPk [9 * 2 ^ 56]))) ∧ 9 ≤ (pk (labPk [9 * 2 ^ 56])).ty :=
  ⟨(packet_of (ty := 9) (by decide +kernel)).head, by decide +kernel⟩
def nop0 : State := labPk [0xFFF * 2 ^ 32, 0, 0, 0, 0, 0, 0, 5]
theorem witness_PacketsComplete_nop : AtPacket nop0 4 0 (pk nop0) ∧ ∀ i, 1 ≤ i → i ≤ 6 → (pk nop0).word i = 0 :=
  ⟨packet_of (by decide +kernel), between 1 6 (by decide +kernel)⟩
theorem waitHolds_iff : ∀ {c : Nat} {v x : Word64}, waitHolds c v x ↔ waitCond c v.toNat x.toNat = true
  | 0, v, x => by simp [waitHolds, waitCond, BitVec.toNat_eq]
  | 1, v, x => by simp [waitHolds, waitCond, BitVec.toNat_eq]
  | 2, v, x => by simp [waitHolds, waitCond]
  | n + 3, v, x => by simp [waitHolds, waitCond]
/-- A WAIT on the last token slot, for each condition. -/
def wait0 (cond cmp : Nat) : State := labPk [2 * 2 ^ 56, 0xFFE, cmp, 9 + 2 * cond]
theorem witness_PacketsComplete_wait (cond cmp : Nat) (h : cond = 0 ∧ cmp = 0 ∨ cond = 1 ∧ cmp = 1 ∨ cond = 2 ∧ cmp = 0 ∨ cond = 3 ∧ cmp = 1) :
    let s := wait0 cond cmp
    AtPacket s 4 2 (pk s) ∧ cond < 4 ∧ ((pk s).word 3).toNat = 9 + 2 * cond ∧ (∀ i, 4 ≤ i → i ≤ 6 → (pk s).word i = 0) ∧ ((pk s).word 1).toNat < 0xFFF ∧
    waitHolds cond (s.token (s.queue 4).tenant ((pk s).word 1).toNat) ((pk s).word 2) := by
  rcases h with ⟨rfl, rfl⟩ | ⟨rfl, rfl⟩ | ⟨rfl, rfl⟩ | ⟨rfl, rfl⟩ <;>
    exact ⟨packet_of (by decide +kernel), by decide, by decide +kernel, between 4 6 (by decide +kernel), by decide +kernel, waitHolds_iff.2 (by decide +kernel)⟩
theorem witness_PacketsComplete_waits (cond cmp : Nat) (h : cond = 0 ∧ cmp = 1 ∨ cond = 1 ∧ cmp = 0 ∨ cond = 2 ∧ cmp = 1 ∨ cond = 3 ∧ cmp = 0) :
    let s := wait0 cond cmp
    AtPacket s 4 2 (pk s) ∧ cond < 4 ∧ ((pk s).word 3).toNat = 9 + 2 * cond ∧ (∀ i, 4 ≤ i → i ≤ 6 → (pk s).word i = 0) ∧ ((pk s).word 1).toNat < 0xFFF ∧
    ¬ waitHolds cond (s.token (s.queue 4).tenant ((pk s).word 1).toNat) ((pk s).word 2) := by
  rcases h with ⟨rfl, rfl⟩ | ⟨rfl, rfl⟩ | ⟨rfl, rfl⟩ | ⟨rfl, rfl⟩ <;>
    exact ⟨packet_of (by decide +kernel), by decide, by decide +kernel, between 4 6 (by decide +kernel), by decide +kernel, mt waitHolds_iff.1 (by decide +kernel)⟩

/-- A run of reads of this module's memory gives its bytes. -/
theorem readRun_val {s : State} {k : Nat} : ∀ {va n : Nat}, (∀ i < n, s.peerOf 0 (va + i) = none ∧ s.place 0 (va + i) needRead = (s, .at (k + va + i)) ∧
    s.isPoisoned (k + va + i) 1 = false) → s.readRun 0 va n = (s, .ok ((List.range n).map fun i => Mem.read s.mem (k + va + i)))
  | _, 0, _ => rfl
  | va, n + 1, h => by
    obtain ⟨p, q, r⟩ := h 0 (by omega)
    simp only [Nat.add_zero] at p q r
    have hb := readRun_val (va := va + 1) (n := n) fun i hi => by
      have := h (i + 1) (by omega)
      simpa only [show va + (i + 1) = va + 1 + i by omega, show k + va + (i + 1) = k + (va + 1) + i by omega] using this
    simp [State.readRun, p, q, r, hb, List.range_succ_eq_map, show ∀ i, k + (va + 1) + i = k + va + (i + 1) by omega]
theorem readRun_line {s : State} {n : Nat} (hp : s.devNum = (Config.homeDevice 0 0).getD 0) (hn : n ≤ 128)
    (h : ((List.range n).all fun i => hmOk (s.homeEntry 0 i) && !hmMig (s.homeEntry 0 i) && tierOf (s.homeEntry 0 i) != 2 &&
      ((s.die (hmHome (s.homeEntry 0 i))).l2Find 0 (lineOf i)).any (fun l => needRead.met l.rd l.wr true && l.key + i % 128 == memKey 1 0x10000 + i) &&
      !s.isPoisoned (memKey 1 0x10000 + i) 1) = true) :
    s.readRun 0 0 n = (s, .ok ((List.range n).map fun i => Mem.read s.mem (memKey 1 0x10000 + i))) := by
  have := readRun_val (s := s) (k := memKey 1 0x10000) (va := 0) (n := n) fun i hi => by
    have := List.all_eq_true.1 h i (List.mem_range.2 hi)
    rw [Bool.and_eq_true, Bool.and_eq_true, Bool.not_eq_true'] at this
    simp only [Nat.zero_add, Nat.add_zero]
    refine ⟨?_, place_l2 this.1.1 this.1.2, this.2⟩
    unfold State.peerOf
    rw [Nat.div_eq_of_lt (by omega), hp]
    cases Config.homeDevice 0 0 <;> simp
  simpa using this
/-- A WAIT on the word at 0. -/
def waitM (wide : Bool) : State := own (labPk [2 * 2 ^ 56, 0, 0, if wide then 8 else 0])
theorem witness_PacketsComplete_waitMemory (wide : Bool) : ∃ u bs, let s := waitM wide
    AtPacket s 4 2 (pk s) ∧ 0 < 4 ∧ ((pk s).word 3).toNat = (if wide then 8 else 0) + 2 * 0 ∧ (wide = false → (pk s).high 2 = 0) ∧
    (∀ i, 4 ≤ i → i ≤ 6 → (pk s).word i = 0) ∧ ((pk s).word 1).toNat % 8 = 0 ∧ vaOk ((pk s).word 1) = true ∧ isWindow ((pk s).word 1).toNat = false ∧
    (s.hubHearHome (s.queue 4).tenant ((pk s).word 1).toNat).readRun (s.tenant (s.queue 4).tenant).cfg.asid ((pk s).word 1).toNat (if wide then 8 else 4) =
      (u, .ok bs) ∧
    waitHolds 0 (BitVec.ofNat 64 (bytesToNat bs)) ((pk s).word 2) := by
  cases wide <;>
    exact ⟨_, _, packet_of (by decide +kernel), by decide, by decide +kernel, by decide +kernel, between 4 6 (by decide +kernel), by decide +kernel, by decide +kernel,
      by decide +kernel, readRun_line rfl (by decide) (by decide +kernel), waitHolds_iff.2 (by decide +kernel)⟩
def waiting0 : Pkt := { revert0 with num := 4, ty := 2, started := false, f := [0x0200000000000000, 0xFFE, 0, 9, 0, 0, 0, 0] }
def labWt : State := { lab with queues := [(4, { queue4 with pkts := [waiting0] })] }
theorem witness_PacketsComplete_met : ∃ p u, (labWt.queue 4).pkts.find? (fun p => !p.started && p.ty == 2) = some p ∧ (labWt.queue 4).halted = false ∧
    (labWt.queue 4).unmapping = false ∧ (labWt.queue 4).resetting = false ∧ labWt.waitLook 4 p = (u, .ok true) := ⟨waiting0, labWt, rfl, rfl, rfl, rfl, rfl⟩
def signal0 (add : Bool) : State := labPk [3 * 2 ^ 56, 0xFFE, 7, if add then 11 else 9]
theorem witness_PacketsComplete_signal (add : Bool) : let s := signal0 add
    AtPacket s 4 3 (pk s) ∧ ((pk s).word 3).toNat = 9 + (if add then 2 else 0) ∧ (∀ i, 4 ≤ i → i ≤ 6 → (pk s).word i = 0) ∧ ((pk s).word 1).toNat < 0xFFF := by
  cases add <;> exact ⟨packet_of (by decide +kernel), by decide +kernel, between 4 6 (by decide +kernel), by decide +kernel⟩
/-- A write of this module's memory within a unit. -/
theorem writeRun_of {s : State} {va k gen : Nat} {bs : List Byte} (h1 : s.peerOf 0 va = none) (h2 : s.place 0 va needWrite = (s, .at k)) (h3 : unitPieces va bs = [(va, bs)])
    (h4 : (s.homeWrite 0 va k bs gen false).isSome = true) : ∃ u, s.writeRun 0 va gen bs = (u, none) := by
  cases e : s.homeWrite 0 va k bs gen false with
  | none => simp [e] at h4
  | some u => exact ⟨u, by simp [State.writeRun, h3, State.writePieces, h1, h2, e]⟩
def signalM (wide : Bool) : State := own (labPk [3 * 2 ^ 56, 0x78, 0xFF, if wide then 8 else 0])
theorem witness_PacketsComplete_signalMemory (wide : Bool) : ∃ u, let s := signalM wide
    AtPacket s 4 3 (pk s) ∧ ((pk s).word 3).toNat = (if wide then 8 else 0) ∧ (wide = false → (pk s).high 2 = 0) ∧ (∀ i, 4 ≤ i → i ≤ 6 → (pk s).word i = 0) ∧
    ((pk s).word 1).toNat % 8 = 0 ∧ vaOk ((pk s).word 1) = true ∧ isWindow ((pk s).word 1).toNat = false ∧
    let v := s.hubHearHome (s.queue 4).tenant ((pk s).word 1).toNat
    v.writeRun (s.tenant (s.queue 4).tenant).cfg.asid ((pk s).word 1).toNat (v.tenant (s.queue 4).tenant).hubGen
      (natToBytes (if wide then 8 else 4) ((pk s).word 2).toNat) = (u, none) := by
  cases wide
  · obtain ⟨u, hu⟩ := writeRun_of (s := signalM false) (va := 0x78) (k := memKey 1 0x10078) (gen := 0) (bs := natToBytes 4 0xFF) (own_peer _ (by decide)) rfl
      (by decide +kernel) (by decide +kernel)
    exact ⟨u, packet_of (by decide +kernel), by decide +kernel, by decide +kernel, between 4 6 (by decide +kernel), by decide +kernel, by decide +kernel,
      by decide +kernel, hu⟩
  · obtain ⟨u, hu⟩ := writeRun_of (s := signalM true) (va := 0x78) (k := memKey 1 0x10078) (gen := 0) (bs := natToBytes 8 0xFF) (own_peer _ (by decide)) rfl
      (by decide +kernel) (by decide +kernel)
    exact ⟨u, packet_of (by decide +kernel), by decide +kernel, by decide +kernel, between 4 6 (by decide +kernel), by decide +kernel, by decide +kernel,
      by decide +kernel, hu⟩
/-- A SIGNAL that adds to the word at 0. -/
def signalA (wide : Bool) : State := own (labPk [3 * 2 ^ 56, 0, 0xFF, if wide then 10 else 2])
theorem witness_PacketsComplete_signalAdds (wide : Bool) : ∃ bs u, let s := signalA wide
    AtPacket s 4 3 (pk s) ∧ ((pk s).word 3).toNat = (if wide then 8 else 0) + 2 ∧ (wide = false → (pk s).high 2 = 0) ∧ (∀ i, 4 ≤ i → i ≤ 6 → (pk s).word i = 0) ∧
    ((pk s).word 1).toNat % 8 = 0 ∧ vaOk ((pk s).word 1) = true ∧ isWindow ((pk s).word 1).toNat = false ∧
    s.readRun (s.tenant (s.queue 4).tenant).cfg.asid ((pk s).word 1).toNat (if wide then 8 else 4) = (s, .ok bs) ∧
    let v := s.hubHearHome (s.queue 4).tenant ((pk s).word 1).toNat
    v.writeRun (s.tenant (s.queue 4).tenant).cfg.asid ((pk s).word 1).toNat (v.tenant (s.queue 4).tenant).hubGen
      (natToBytes (if wide then 8 else 4) (bytesToNat bs + ((pk s).word 2).toNat)) = (u, none) := by
  cases wide
  · obtain ⟨u, hu⟩ := writeRun_of (s := signalA false) (va := 0) (k := memKey 1 0x10000) (gen := 0) (bs := natToBytes 4 0xFF) (own_peer _ (by decide)) rfl
      (by decide +kernel) (by decide +kernel)
    exact ⟨_, u, packet_of (by decide +kernel), by decide +kernel, by decide +kernel, between 4 6 (by decide +kernel), by decide +kernel, by decide +kernel,
      by decide +kernel, readRun_line rfl (by decide) (by decide +kernel), hu⟩
  · obtain ⟨u, hu⟩ := writeRun_of (s := signalA true) (va := 0) (k := memKey 1 0x10000) (gen := 0) (bs := natToBytes 8 0xFF) (own_peer _ (by decide)) rfl
      (by decide +kernel) (by decide +kernel)
    exact ⟨_, u, packet_of (by decide +kernel), by decide +kernel, by decide +kernel, between 4 6 (by decide +kernel), by decide +kernel, by decide +kernel,
      by decide +kernel, readRun_line rfl (by decide) (by decide +kernel), hu⟩
/-- The launch is a stream; four more coordinates come to it, and its end. -/
def append0 : State :=
  (labPk [7 * 2 ^ 56, 0, 2 ^ 32 + 4]).modLaunch 0 fun l => { l with rcd := { l.rcd with ctl := 0x28 }, disp := { l.disp with extent := 2 ^ 32 - 5, ended := false } }
theorem witness_PacketsComplete_append : let s := append0
    AtPacket s 4 7 (pk s) ∧ (∀ i, 3 ≤ i → i ≤ 6 → (pk s).word i = 0) ∧ ((pk s).word 2).toNat < 2 ^ 33 ∧
    s.launches.find? (fun l => l.tenant == (s.queue 4).tenant && l.lid == (pk s).word 1 && l.rcd.stream) = some (launchAt s) ∧ (launchAt s).disp.ended = false ∧
    (launchAt s).disp.extent + ((pk s).word 2).toNat % 2 ^ 32 < 2 ^ 32 :=
  ⟨packet_of (by decide +kernel), between 3 6 (by decide +kernel), by decide +kernel⟩

def copyP : State := labPk [4 * 2 ^ 56, 0, 0x40, 8]
theorem witness_PacketsStart_copy : let s := copyP
    AtPacket s 4 4 (pk s) ∧ (∀ i, 4 ≤ i → i ≤ 6 → (pk s).word i = 0) ∧ isWindow ((pk s).word 1).toNat = false ∧ isWindow ((pk s).word 2).toNat = false :=
  ⟨packet_of (by decide +kernel), between 4 6 (by decide +kernel), by decide +kernel, by decide +kernel⟩
def copying (n : Nat) : Pkt := { revert0 with ty := 4, f := [0x0400000000000000, 0, 0x40, BitVec.ofNat 64 n] }
def labCp (n : Nat) : State := own { lab with queues := [(4, { queue4 with pkts := [copying n] })] }
theorem witness_PacketsStart_copied : ∃ u, let s := labCp 8
    (s.queue 4).pkts.find? (fun p => p.num == 3 && p.started && p.ty == 4) = some (copying 8) ∧ (copying 8).fault = none ∧
    s.hubCopy (s.queue 4).tenant ((copying 8).word 1).toNat ((copying 8).word 2).toNat ((copying 8).word 3).toNat = (u, none) ∧ (u.queue 4).unmapping = false ∧
    (u.queue 4).resetting = false := by
  have hr : (labCp 8).readRun 0 0 8 = _ := readRun_line rfl (by decide) (by decide +kernel)
  have hw : ∃ u, (labCp 8).homeWrite 0 0x40 (memKey 1 0x10040) ((List.range 8).map fun i => Mem.read (labCp 8).mem (memKey 1 0x10000 + i)) 0 false = some u ∧
      (u.queue 4).unmapping = false ∧ (u.queue 4).resetting = false :=
    someOf (P := fun (u : State) => (u.queue 4).unmapping = false ∧ (u.queue 4).resetting = false) (by decide +kernel)
  obtain ⟨u, hu, hq⟩ := hw
  have hp : (labCp 8).place 0 0x40 needWrite = (labCp 8, .at (memKey 1 0x10040)) := rfl
  refine ⟨u, by decide +kernel, rfl, ?_, hq⟩
  change State.hubCopy (labCp 8) 0 0 0x40 8 = _
  have hh : ∀ va, va = 0 ∨ va = 0x40 → (labCp 8).hubHearHome 0 va = labCp 8 := by rintro va (rfl | rfl) <;> rfl
  have ha : ((labCp 8).tenant 0).cfg.asid = 0 := by decide +kernel
  have hg : ((labCp 8).tenant 0).hubGen = 0 := by decide +kernel
  have hx : unitPieces 0x40 (List.replicate 8 (0 : Byte)) = [(0x40, List.replicate 8 0)] := by decide
  have hy : ∀ a b c d e f g h : Byte, unitPieces 0x40 [a, b, c, d, e, f, g, h] = [(0x40, [a, b, c, d, e, f, g, h])] := by
    intro a b c d e f g h; simp [unitPieces]
  have hz : hubAddr 0 = true ∧ hubAddr 7 = true ∧ hubAddr 0x40 = true := by decide
  simp only [List.range, List.range.loop, List.map, Nat.add_zero] at hr hu
  have hd : (labCp 8).peerOf 0 0x40 = none := own_peer _ (by decide)
  generalize labCp 8 = s at *
  rw [State.hubCopy, hx]
  simp [State.hubPiecesCopy, hz, hh, ha, hg, hr, State.writeRun, hy, State.writePieces, hd, hp, hu]
theorem witness_PacketsStart_snap : let s := labPk [5 * 2 ^ 56]
    AtPacket s 4 5 (pk s) ∧ (∀ i, 2 ≤ i → i ≤ 6 → (pk s).word i = 0) ∧ ((pk s).word 1).toNat % 4 = 0 ∧ (s.tenant (s.queue 4).tenant).generations < 4 :=
  ⟨packet_of (by decide +kernel), between 2 6 (by decide +kernel), by decide +kernel, by decide +kernel⟩
/-- Three frozen generations are not yet written. -/
def labFull (ws : List Nat) : State :=
  { labPk ws with tenants := [(0, { tenant0 with gen := 3, frozen := (List.range 3).map fun n => { frozen0 with gen := n } })] }
theorem witness_PacketsStart_snapFull : let s := labFull [5 * 2 ^ 56]
    AtPacket s 4 5 (pk s) ∧ (∀ i, 2 ≤ i → i ≤ 6 → (pk s).word i = 0) ∧ ((pk s).word 1).toNat % 4 = 0 ∧ 4 ≤ (s.tenant (s.queue 4).tenant).generations ∧
    (pk s).word 1 = 0 :=
  ⟨packet_of (by decide +kernel), between 2 6 (by decide +kernel), by decide +kernel⟩
theorem witness_PacketsStart_revert : let s := labFull [6 * 2 ^ 56, 0, 2]
    AtPacket s 4 6 (pk s) ∧ (∀ i, 3 ≤ i → i ≤ 6 → (pk s).word i = 0) ∧ ((pk s).word 2).toNat < 2 ^ 32 ∧ ((pk s).word 1).toNat % 4 = 0 ∧
    (∃ f ∈ (s.tenant (s.queue 4).tenant).frozen, f.gen = ((pk s).word 2).toNat) :=
  ⟨packet_of (by decide +kernel), between 3 6 (by decide +kernel), by decide +kernel⟩
theorem witness_PacketsStart_revertNone : let s := labFull [6 * 2 ^ 56, 0, 3]
    AtPacket s 4 6 (pk s) ∧ (∀ i, 3 ≤ i → i ≤ 6 → (pk s).word i = 0) ∧ ((pk s).word 2).toNat < 2 ^ 32 ∧ ((pk s).word 1).toNat % 4 = 0 ∧
    (∀ f ∈ (s.tenant (s.queue 4).tenant).frozen, f.gen ≠ ((pk s).word 2).toNat) ∧ (pk s).word 1 = 0 :=
  ⟨packet_of (by decide +kernel), between 3 6 (by decide +kernel), by decide +kernel⟩
/-- The group's workgroup is halted by a TRAP, with a dump. -/
def halt0 : Halt := Halt.begin 0 0x50 true
def labHalt (h : Halt) (s : State := lab) : State := s.modWg 0 fun w => { w with halt := some h, excs := [⟨0x50, 0, 0, 9, 8⟩] }
def dumpResume0 : State := labHalt { halt0 with stopped := true } (labPk [8 * 2 ^ 56])
theorem witness_PacketsStart_dumpResume : let s := dumpResume0
    AtPacket s 4 8 (pk s) ∧ (∀ i, 3 ≤ i → i ≤ 6 → (pk s).word i = 0) ∧ ((pk s).word 2).toNat < 2 ^ 32 ∧
    s.launches.find? (fun l => l.tenant == (s.queue 4).tenant && l.lid == (pk s).word 1) = some (launchAt s) ∧
    s.ownerCore (launchAt s).uid ((pk s).word 2).toNat = some 0 ∧ s.wg? 0 = some (wgOf s) ∧ (wgOf s).halt = some { halt0 with stopped := true } :=
  ⟨packet_of (by decide +kernel), between 3 6 (by decide +kernel), by decide +kernel⟩

/-! ## Launches -/

/-- A launch record of one workgroup of eight threads on core 1, from its words. -/
def launchRec0 : List Byte :=
  natToBytes 8 0x2000 ++ natToBytes 2 8 ++ natToBytes 2 8 ++ natToBytes 2 8 ++ [0, 1] ++ [1, 0, 0, 0] ++ natToBytes 4 128 ++ natToBytes 4 16 ++ natToBytes 4 0x103 ++
    natToBytes 64 2 ++ natToBytes 12 0 ++ natToBytes 2 1 ++ natToBytes 2 1 ++ natToBytes 2 1 ++ natToBytes 2 0 ++ natToBytes 4 0 ++ natToBytes 8 0 ++
    natToBytes 96 0 ++ natToBytes 32 0
/-- A LAUNCH of the record at 0x3000 with launch id 7, and without a completion record. -/
def labLaunch (rec_ : List Byte) (done : Nat := 0) : State :=
  let s := labPk [2 ^ 56, 0x3000, done, 0, 7]
  { s with mem := Mem.writeBytes s.mem (memKey 1 0x13000) rec_ }
def recAt (s : State) : List Byte := (s.readVa 0 0x3000 256).toOption.getD []
theorem read_of {α : Type} {x : Except Nat α} {d : α} (h : x.toOption.isSome = true) : x = .ok (x.toOption.getD d) := by
  cases x with
  | error e => simp [Except.toOption] at h
  | ok a => rfl
theorem labLaunch_at {r : List Byte} {done : Nat} (h : stands (labLaunch r done) 1 = true) (h5 : ∀ i, i < 3 → (pk (labLaunch r done)).word (5 + i) = 0)
    (h1 : ((pk (labLaunch r done)).word 1).toNat = 0x3000) (h2 : ((pk (labLaunch r done)).word 2).toNat % 32 = 0)
    (hr : ((labLaunch r done).readVa 0 0x3000 256).toOption.isSome = true) (h0 : ((labLaunch r done).tenant ((labLaunch r done).queue 4).tenant).cfg.asid = 0) :
    let s := labLaunch r done
    AtPacket s 4 1 (pk s) ∧ (∀ i, 5 ≤ i → i ≤ 7 → (pk s).word i = 0) ∧ ((pk s).word 1).toNat % 256 = 0 ∧ isWindow ((pk s).word 1).toNat = false ∧
    ((pk s).word 2).toNat % 32 = 0 ∧ s.readVa (s.tenant (s.queue 4).tenant).cfg.asid ((pk s).word 1).toNat 256 = .ok (recAt s) := by
  refine ⟨packet_of h, between 5 7 h5, by rw [h1], by rw [h1]; decide, h2, ?_⟩
  rw [h0, h1]
  exact read_of hr
theorem witness_LaunchesPend_pending : let s := labLaunch launchRec0
    (AtPacket s 4 1 (pk s) ∧ (∀ i, 5 ≤ i → i ≤ 7 → (pk s).word i = 0) ∧ ((pk s).word 1).toNat % 256 = 0 ∧ isWindow ((pk s).word 1).toNat = false ∧
      ((pk s).word 2).toNat % 32 = 0 ∧ s.readVa (s.tenant (s.queue 4).tenant).cfg.asid ((pk s).word 1).toNat 256 = .ok (recAt s)) ∧
    s.refusals (s.queue 4).tenant ((pk s).word 4) none (recordOf (recAt s)) = [] :=
  ⟨labLaunch_at (by decide +kernel) (by decide +kernel) (by decide +kernel) (by decide +kernel) (by decide +kernel) (by decide +kernel), by decide +kernel⟩
/-- A record whose workgroup size is no multiple of its group width; with a completion record at 0x20. -/
def launchRecBad : List Byte := launchRec0.set 10 9
theorem witness_LaunchesPend_refused : let s := labLaunch launchRecBad
    (AtPacket s 4 1 (pk s) ∧ (∀ i, 5 ≤ i → i ≤ 7 → (pk s).word i = 0) ∧ ((pk s).word 1).toNat % 256 = 0 ∧ isWindow ((pk s).word 1).toNat = false ∧
      ((pk s).word 2).toNat % 32 = 0 ∧ s.readVa (s.tenant (s.queue 4).tenant).cfg.asid ((pk s).word 1).toNat 256 = .ok (recAt s)) ∧
    s.refusals (s.queue 4).tenant ((pk s).word 4) none (recordOf (recAt s)) ≠ [] ∧ (pk s).word 2 = 0 :=
  ⟨labLaunch_at (by decide +kernel) (by decide +kernel) (by decide +kernel) (by decide +kernel) (by decide +kernel) (by decide +kernel), by decide +kernel, by decide +kernel⟩
theorem ends_of {α : Type} {x : State × Option α} (h : x.2.isNone = true) : x = (x.1, none) := Prod.ext rfl (Option.isNone_iff_eq_none.1 h)
theorem witness_LaunchesPend_refusedRecord (c : Nat) (hc : c = 2) : ∃ u, let s := labLaunch launchRecBad 0x20
    (AtPacket s 4 1 (pk s) ∧ (∀ i, 5 ≤ i → i ≤ 7 → (pk s).word i = 0) ∧ ((pk s).word 1).toNat % 256 = 0 ∧ isWindow ((pk s).word 1).toNat = false ∧
      ((pk s).word 2).toNat % 32 = 0 ∧ s.readVa (s.tenant (s.queue 4).tenant).cfg.asid ((pk s).word 1).toNat 256 = .ok (recAt s)) ∧
    s.refusals (s.queue 4).tenant ((pk s).word 4) none (recordOf (recAt s)) = [c] ∧ (pk s).word 2 ≠ 0 ∧
    (s.startPkt 4 (pk s)).hubWrite (s.queue 4).tenant ((pk s).word 2).toNat (natToBytes 4 1 ++ natToBytes 4 c ++ natToBytes 8 0 ++
      natToBytes 8 ((pk s).word 4).toNat ++ natToBytes 8 0) = (u, none) ∧ (u.queue 4).unmapping = false ∧ (u.queue 4).resetting = false := by
  subst hc
  exact ⟨_, labLaunch_at (by decide +kernel) (by decide +kernel) (by decide +kernel) (by decide +kernel) (by decide +kernel) (by decide +kernel), by decide +kernel,
    by decide +kernel, ends_of (by decide +kernel), by decide +kernel⟩
/-- The launch of the record stands at the head of the queue. -/
def newL (r : LaunchRec) (n : Nat) : Launch :=
  { placedLaunch n with lid := 7, queue := 4, num := 4, stat := .pending, rcd := r, recAddr := 0x3000, age := n, disp := ⟨0, 0, 0, [], false, []⟩ }
def pending0 : State :=
  let s := labLaunch launchRec0
  { s with launches := s.launches ++ [newL (recordOf launchRec0) 9], nextId := 10, queues := [(4, { queue4 with pkts := [{ pk s with started := false }] })],
           islands := [(0, { s.island 0 with cur := 3 })] }
theorem witness_LaunchesPend_admitted : ∃ l p, let s := pending0
    s.launch? l.uid = some l ∧ s.nextLaunch = some l ∧ l.stat = .pending ∧ (s.queue l.queue).pkts.find? (fun p => p.num == l.num) = some p ∧
    s.readVa (s.tenant l.tenant).cfg.asid l.recAddr.toNat 256 = .ok (recAt s) ∧ s.refusals l.tenant l.lid (some l.uid) (recordOf (recAt s)) = [] ∧
    (∀ c ∈ (recordOf (recAt s)).part, s.coreFree c = true) ∧ (recordOf (recAt s)).part = [1] :=
  ⟨newL (recordOf launchRec0) 9, { pk (labLaunch launchRec0) with started := false }, by decide +kernel, by decide +kernel, rfl, by decide +kernel, read_of (by decide +kernel), by decide +kernel⟩

/-- A pending launch of priority 3 needs core 0; the resident one has priority 0. -/
def preempt0 : State := { lab with launches := lab.launches ++ [newL { placedRec with ctl := 3 } 9], queues := [(4, queue4)] }
theorem witness_LaunchesSwitch_preempt : ∃ l, preempt0.launch? l.uid = some l ∧ preempt0.canTake l = false ∧ NeedsFrom preempt0 l [0] ∧
    ∃ h, preempt0.holder 0 = some h ∧ h.uid = 0 :=
  ⟨newL { placedRec with ctl := 3 } 9, by decide +kernel, by decide +kernel, Or.inl ⟨rfl, by decide +kernel, rfl⟩, launchAt lab, by decide +kernel, by decide +kernel⟩
/-- A launch that was saved needs the same core. -/
def saved0 (reason : Nat) : Saved := { wg := { wg0 with launch := 9, groups := wg0.groups.map fun p => (p.1, p.2.stored) }, core := 0, ms := 0, reason := reason, pending := [] }
def savedL (ctl : Word32) (stat : LStat) (v : Saved) : Launch := { newL { placedRec with ctl := ctl } 9 with stat := stat, saved := [v] }
def preempt1 : State := { lab with launches := lab.launches ++ [savedL 3 .saved (saved0 0)] }
theorem witness_LaunchesSwitch_preemptSaved : ∃ l, preempt1.launch? l.uid = some l ∧ preempt1.canTake l = false ∧ NeedsFrom preempt1 l [0] :=
  ⟨savedL 3 .saved (saved0 0), by decide +kernel, by decide +kernel, Or.inr ⟨rfl, [(0, 0)], by decide +kernel, rfl⟩⟩
def saving0 : State := labW fun w => { w with saving := true }
theorem witness_LaunchesSwitch_save : saving0.wg? 0 = some (wgOf saving0) ∧ saving0.launchOf 0 = some (launchAt saving0) ∧ (wgOf saving0).saving = true ∧
    (wgOf saving0).retired = false ∧ MatrixIdle (wgOf saving0) ∧ AllInSession saving0 ∧ saving0.saveReady 0 (wgOf saving0) (launchAt saving0) = true := by
  unfold MatrixIdle AllInSession
  decide +kernel
/-- Core 0 is free, and a saved launch goes on there, or at the first gang position that is free. -/
def empty0 (l : Launch) : State := { (lab.setWg 0 none) with launches := [l] }
theorem witness_LaunchesSwitch_resume (ctl : Word32) (h : ctl = 0 ∨ ctl = 0x100) : ∃ ps, let l := savedL ctl .saved (saved0 0); let s := empty0 l
    s.launch? l.uid = some l ∧ s.nextLaunch = some l ∧ l.stat = .saved ∧ s.placement l s.coreFree = some ps ∧ (l.saved.map fun v => v.wg.wgno).Nodup ∧
    (ps.map (·.2)).Nodup := by
  rcases h with rfl | rfl <;> exact ⟨[(0, 0)], by decide +kernel, by decide +kernel, rfl, by decide +kernel, by decide +kernel, by decide⟩
/-- Of two saved workgroups one waits for the answers of its faults. -/
def two0 : Launch :=
  { savedL 0 .saved (saved0 0) with saved := [saved0 0, { saved0 1 with core := 1, wg := { (saved0 1).wg with wgno := 1, log := [(0, logEntry0)] } }] }
theorem witness_LaunchesSwitch_resumePart : ∃ ps, let l := two0; let s := empty0 l
    s.launch? l.uid = some l ∧ s.nextLaunch = some l ∧ l.stat = .saved ∧ s.placement l s.coreFree = some ps ∧ (l.saved.map fun v => v.wg.wgno).Nodup ∧
    (ps.map (·.2)).Nodup ∧ ∃ v ∈ l.saved, ¬ (v.reason = 0 ∨ s.answeredOut v = true) :=
  ⟨[(0, 0), (1, 1)], by decide +kernel, by decide +kernel, rfl, by decide +kernel, by decide +kernel, by decide, by decide +kernel⟩
theorem witness_LaunchesSwitch_answered : let l := savedL 0 .resident (saved0 1); let s := empty0 l
    s.launch? l.uid = some l ∧ l.saved.find? (fun x => x.wg.wgno == (saved0 1).wg.wgno && x.reason == 1) = some (saved0 1) ∧ s.answeredOut (saved0 1) = true ∧ l.stat = .resident ∧
    s.beingSaved l.uid = false ∧ s.coreFree (saved0 1).core = true := by decide +kernel
theorem witness_LaunchesSwitch_answeredHeld : let l := savedL 0 .resident (saved0 1); let s := { lab with launches := lab.launches ++ [l] }
    s.launch? l.uid = some l ∧ l.saved.find? (fun x => x.wg.wgno == (saved0 1).wg.wgno && x.reason == 1) = some (saved0 1) ∧ s.answeredOut (saved0 1) = true ∧ l.stat = .resident ∧
    s.beingSaved l.uid = false ∧ s.coreFree (saved0 1).core = false ∧ s.holder (saved0 1).core = some (launchAt lab) ∧ (launchAt lab).uid ≠ l.uid := by decide +kernel

/-- A saved workgroup's claim keeps its core free for it. -/
theorem witness_LaunchesSwitch_answeredClaim : let v := { saved0 1 with claim := true }; let l := savedL 0 .resident v; let s := empty0 l
    s.launch? l.uid = some l ∧ l.saved.find? (fun x => x.wg.wgno == v.wg.wgno && x.reason == 1) = some v ∧ s.answeredOut v = true ∧ l.stat = .resident ∧
    s.beingSaved l.uid = false ∧ s.coreFree v.core = false ∧ v.claim = true ∧ s.coreVacant v.core = true := by decide +kernel

/-! ## The end of a launch -/

/-- The workgroup of core 0 has retired; the record of its launch is to be written at `done`, if that is not 0. -/
def retired0 (done : Word64) : State :=
  { ((labW fun w => { w with retired := true }).modLaunch 0 fun l => { l with queue := 4, num := 3, done := done }) with
    queues := [(4, { queue4 with pkts := [{ revert0 with ty := 1 }] })] }
/-- It stands dumped, in a launch that ends. -/
def dumped0 : State := (labHalt { halt0 with dumpDone := true }).modLaunch 0 fun l => { l with halting := true }
/-- Another workgroup of the launch is on core 1. -/
def with1 (s : State) : State := s.modCore 1 fun k => { k with wg := some { wg0 with wgno := 1 } }
theorem witness_LaunchesComplete_leaves (s : State) (h : s = with1 (retired0 0) ∨ s = with1 dumped0) :
    s.wg? 0 = some (wgOf s) ∧ s.launchOf 0 = some (launchAt s) ∧
    (((wgOf s).halt = none ∧ (wgOf s).retired = true) ∨ ∃ h, (wgOf s).halt = some h ∧ (wgOf s).allEnded = false ∧ (launchAt s).halting = true ∧ s.drained 0 (wgOf s) = true ∧
      (h.dumps = false ∨ h.dumpDone = true ∨ h.noSlot = true)) ∧
    s.trackerEmpty (wgOf s) = true ∧ MatrixIdle (wgOf s) ∧ (∀ m ∈ (launchAt s).mchecks, m.1 ≠ (wgOf s).gang) ∧
    (∃ d, d ≠ 0 ∧ ∃ x, s.wg? d = some x ∧ x.launch = (launchAt s).uid) := by
  unfold MatrixIdle
  rcases h with rfl | rfl
  · exact ⟨by decide +kernel, by decide +kernel, Or.inl (by decide +kernel), by decide +kernel, by decide +kernel, by decide +kernel, 1, by decide, _, rfl, by decide +kernel⟩
  · exact ⟨by decide +kernel, by decide +kernel, Or.inr ⟨{ halt0 with dumpDone := true }, by decide +kernel⟩, by decide +kernel, by decide +kernel, by decide +kernel, 1,
      by decide, _, rfl, by decide +kernel⟩
theorem lone {s : State} {u c : Nat} (h : (s.cores.all fun p => p.1 == c || (p.2.wg.all fun w => w.launch != u)) = true)
    (d : Nat) (x : Wg) (e : s.wg? d = some x) (hx : x.launch = u) : d = c := by
  unfold State.wg? State.core SMap.getD at e
  cases hg : SMap.get? s.cores d with
  | none => simp [hg, Core.reset] at e
  | some k =>
    simp only [hg, Option.getD_some] at e
    have := entries (P := fun j (k : Core) => (j == c || (k.wg.all fun w => w.launch != u)) = true) (fun p hp => List.all_eq_true.1 h p hp) d k hg
    simp only [e, hx, Bool.or_eq_true, beq_iff_eq, Option.all_some, bne_self_eq_false, Bool.false_eq_true, or_false] at this
    exact this
theorem witness_LaunchesComplete_last (done : Word64) (h : done = 0 ∨ done = 0x20) : ∃ p v, let s := retired0 done
    s.wg? 0 = some (wgOf s) ∧ s.launchOf 0 = some (launchAt s) ∧ (wgOf s).halt = none ∧ (wgOf s).retired = true ∧ s.trackerEmpty (wgOf s) = true ∧
    MatrixIdle (wgOf s) ∧ (∀ m ∈ (launchAt s).mchecks, m.1 ≠ (wgOf s).gang) ∧
    (∀ d x, s.wg? d = some x → x.launch = (launchAt s).uid → d = 0) ∧ (launchAt s).saved = [] ∧ (launchAt s).killed = [] ∧ (launchAt s).stat = .resident ∧
    s.profOk (launchAt s) = false ∧ (s.queue (launchAt s).queue).pkts.find? (fun p => p.num == (launchAt s).num) = some p ∧
    (s.queue (launchAt s).queue).unmapping = false ∧ (s.queue (launchAt s).queue).resetting = false ∧ (v.queue (launchAt s).queue).unmapping = false ∧
    (v.queue (launchAt s).queue).resetting = false ∧
    (done ≠ 0 → (s.setWg 0 none).hubWrite (s.queue (launchAt s).queue).tenant (launchAt s).done.toNat (natToBytes 4 0 ++ natToBytes 4 0 ++
      natToBytes 4 ((launchAt s).flags ||| (wgOf s).allGroups.foldl (fun f g => f ||| g.flags) (wgOf s).flags).toNat ++ natToBytes 4 (launchAt s).kills ++
      natToBytes 8 (launchAt s).lid.toNat ++ natToBytes 4 0 ++ natToBytes 4 (launchAt s).nodump) = (v, none)) := by
  unfold MatrixIdle
  rcases h with rfl | rfl
  · exact ⟨_, retired0 0, by decide +kernel, by decide +kernel, by decide +kernel, by decide +kernel, by decide +kernel, by decide +kernel, by decide +kernel,
      lone (by decide +kernel), by decide +kernel, by decide +kernel, by decide +kernel, by decide +kernel, rfl, by decide +kernel, by decide +kernel, by decide +kernel, by decide +kernel,
      fun h => absurd rfl h⟩
  · exact ⟨_, _, by decide +kernel, by decide +kernel, by decide +kernel, by decide +kernel, by decide +kernel, by decide +kernel, by decide +kernel,
      lone (by decide +kernel), by decide +kernel, by decide +kernel, by decide +kernel, by decide +kernel, rfl, by decide +kernel, by decide +kernel, by decide +kernel, by decide +kernel,
      fun _ => ends_of (by decide +kernel)⟩
def flight0 : Flight := ⟨30, 4, false, 1, 2, [(.vec 0 4, 7)], [(.vec 0 4, 9)], false⟩

theorem witness_LaunchesComplete_flight : let s := labW fun w => { w with flights := [flight0], pend := [(30, .vec 0 4)] }
    s.wg? 0 = some (wgOf s) ∧ (wgOf s).flights.find? (·.id == flight0.id) = some flight0 ∧ (flight0.vals.map (·.1)).Nodup ∧ (.vec 0 4, 9) ∈ flight0.vals ∧
    (∀ g ∈ (wgOf s).flights, g.id ≠ flight0.id → g.openAt flight0.due = true → g.val? (.vec 0 4) = none) ∧ flight0.val? (.vec 0 5) = none ∧
    ∀ slot p, flight0.val? (.pred slot p) = none :=
  ⟨by decide +kernel, by decide +kernel, by decide, by decide, by decide +kernel, by decide, fun _ _ => rfl⟩

/-! ## Gangs, dumps and debugging -/

/-- Gang 0 is to be killed. -/
def check0 (kills : Nat) (arrived : Bool) : State :=
  ((labG fun g => if arrived then { g with resN := some ⟨false, 3, 2, 0x48, 2, false⟩, wait := some .resample } else g).modLaunch 0 fun l =>
    { l with mchecks := [(0, 0x40)], kills := kills })
theorem witness_GangsKilled_kill (s : State) (h : s = check0 0 false ∨ s = check0 16 false ∨ s = check0 0 true) :
    s.launch? (launchAt s).uid = some (launchAt s) ∧ (launchAt s).mchecks.find? (fun m => m.1 == 0) = some (0, 0x40) ∧ s.gangCores (launchAt s).uid 0 ≠ [] ∧
    (launchAt s).halting = false := by rcases h with rfl | rfl | rfl <;> decide +kernel
theorem witness_GangsKilled_ends : (check0 0 true).lArrived 0 = true ∧ (check0 16 false).lArrived 0 = false ∧ 16 ≤ (launchAt (check0 16 false)).kills +
    (launchAt (check0 16 false)).killed.length := by decide +kernel
def killed0 : KilledGang := ⟨0, 0, 0x40, [(0, wg0)]⟩
def labKg : State := (lab.setWg 0 none).modLaunch 0 fun l => { l with killed := [killed0] }
theorem witness_GangsKilled_relaunch : ∃ l, labKg.launches = [l] ∧ labKg.launch? l.uid = some l ∧ l.killed.find? (fun x => x.gang == killed0.gang) = some killed0 ∧
    (∀ m ∈ killed0.members, labKg.outstanding l.uid m.2.wgno true = false) ∧ l.halting = false ∧ l.stat = .resident ∧ labKg.beingSaved l.uid = false ∧
    (killed0.members.map (·.1)).Nodup ∧
    (∀ m ∈ killed0.members, labKg.wg? m.1 = none ∧ labKg.coreOn m.1 = true ∧ labKg.claimed m.1 = false ∧
      ∀ l2 ∈ labKg.launches, ∀ k2 ∈ l2.killed, (l2.uid = l.uid ∧ k2.gang = killed0.gang) ∨ ∀ m2 ∈ k2.members, m2.1 ≠ m.1) :=
  ⟨{ placedLaunch 0 with killed := [killed0] }, by decide +kernel⟩
theorem witness_GangsKilled_broadcast (s : State) (h : s = lab.modCore 0 (fun k => { k with haltMsg := true }) ∨ s = (labHalt halt0).modCore 0 fun k => { k with haltMsg := true }) :
    (s.core 0).haltMsg = true ∧ s.wg? 0 = some (wgOf s) ∧ s.launchOf 0 = some (launchAt s) ∧ s.dbgOk (launchAt s) = false := by
  rcases h with rfl | rfl <;> decide +kernel

/-- The tenant's dump area has one slot at 0x100000, which the TLB maps, or none. -/
def labDump (h : Halt) (slots : Nat) : State :=
  let s := labHalt h
  { s with tenants := [(0, { tenant0 with cfg := { tenant0.cfg with dump := 0, slotSize := 0x1010, slotCount := slots } })] }
theorem witness_DumpsWritten_slot (slots : Nat) (h : slots = 0 ∨ slots = 1) : let s := labDump halt0 slots
    s.wg? 0 = some (wgOf s) ∧ s.launchOf 0 = some (launchAt s) ∧ (wgOf s).halt = some halt0 ∧ halt0.dumps = true ∧ halt0.dumpDone = false ∧ halt0.noSlot = false ∧
    halt0.stopped = false ∧ halt0.slot = none ∧ MatrixIdle (wgOf s) ∧ s.drained 0 (wgOf s) = true ∧ s.dbgOk (launchAt s) = false ∧
    s.freeSlot (launchAt s).tenant = if slots = 0 then none else some 0 := by
  unfold MatrixIdle
  rcases h with rfl | rfl <;> decide +kernel
/-- The dump has its slot, and an image of eleven sections: the one exception of its first, and eight bytes of each other. -/
def halt1 (place : Option (Nat × Nat)) : Halt :=
  { halt0 with slot := some 0, place := place, image := (List.range 11).map fun n => (n, List.replicate (if n = 0 then 16 else 8) 0) }
theorem labDump_at (place : Option (Nat × Nat)) (h : place = none ∨ place = some (0, 0) ∨ place = some (3, 0) ∨ place = some (11, 0)) :
    let s := labDump (halt1 place) 1
    s.wg? 0 = some (wgOf s) ∧ s.launchOf 0 = some (launchAt s) ∧ (wgOf s).halt = some (halt1 place) ∧ (halt1 place).dumps = true ∧ (halt1 place).dumpDone = false ∧
    (halt1 place).noSlot = false ∧ (halt1 place).stopped = false ∧ (halt1 place).slot = some 0 := by
  rcases h with rfl | rfl | rfl | rfl <;> decide +kernel
set_option maxRecDepth 200000 in
theorem witness_DumpsWritten_header : ∃ u, let s := labDump (halt1 none) 1; let h1 := { halt1 none with place := some (0, 0), dseq := some (s.core (halt1 none).core).seq.toNat }
    (halt1 none).place = none ∧ s.hubWrite (launchAt s).tenant 0 (s.dumpHead (launchAt s) (wgOf s) (halt1 none).code h1) = (u, none) ∧ (u.wg? 0).isSome = true :=
  ⟨_, rfl, ends_of (by decide +kernel), by decide +kernel⟩
theorem witness_DumpsWritten_section : ∃ u sec bs, let s := labDump (halt1 (some (0, 0))) 1; let h := halt1 (some (0, 0))
    h.place = some (0, 0) ∧ (h.image.getD 0 (0, [])).2.length = 16 * (wgOf s).excs.length ∧ (placeSections (s.tenant (launchAt s).tenant).cfg.slotSize 4096 (h.image.map fun p => p.2.length))[0]? = some sec ∧ sec.2.2 = true ∧
    (h.image.map (·.2))[0]? = some bs ∧ s.hubWrite (launchAt s).tenant (0 + sec.1 + 0) (bs.drop 0) = (u, none) ∧ (u.wg? 0).isSome = true :=
  ⟨_, (4096, 16, true), List.replicate 16 0, rfl, by decide +kernel, by decide +kernel, rfl, by decide +kernel, ends_of (by decide +kernel), by decide +kernel⟩
theorem witness_DumpsWritten_left : ∃ sec, let s := labDump (halt1 (some (3, 0))) 1; let h := halt1 (some (3, 0))
    h.place = some (3, 0) ∧ (h.image.getD 0 (0, [])).2.length = 16 * (wgOf s).excs.length ∧ (placeSections (s.tenant (launchAt s).tenant).cfg.slotSize 4096 (h.image.map fun p => p.2.length))[3]? = some sec ∧ sec.2.2 = false :=
  ⟨(0, 8, false), rfl, by decide +kernel, by decide +kernel, rfl⟩
set_option maxRecDepth 200000 in
theorem witness_DumpsWritten_end : ∃ u, let s := labDump (halt1 (some (11, 0))) 1; let h := halt1 (some (11, 0))
    h.place = some (11, 0) ∧ (h.image.getD 0 (0, [])).2.length = 16 * (wgOf s).excs.length ∧ s.hubWrite (launchAt s).tenant 0 (s.dumpHead (launchAt s) (wgOf s) h.code h) = (u, none) ∧ (u.wg? 0).isSome = true ∧
    u.dbgOk (launchAt s) = false :=
  ⟨_, rfl, by decide +kernel, ends_of (by decide +kernel), by decide +kernel, by decide +kernel⟩

/-- An exception has come since the first sections were taken. -/
theorem witness_DumpsWritten_renewed : let s := labDump { halt1 (some (3, 0)) with image := [] } 1
    (wgOf s).halt = some { halt1 (some (3, 0)) with image := [] } ∧ ((([] : List (Nat × List Byte)).getD 0 (0, [])).2.length ≠ 16 * (wgOf s).excs.length) := by decide +kernel

/-- A reference with debug rights to a slot of tenant 0. -/
def labDbg (s : State := lab) : State := { s with caps := [slot0] }
theorem witness_DebugCommands (s : State) (h : s = labDbg ∨ s = labDbg (labHalt halt0) ∨ s = labDbg ((labHalt { halt0 with reason := 1 }).modLaunch 0 fun l => { l with traceOff := true })) :
    s.debugTarget ⟨0, 0⟩ 0x0100000000000007 = some (launchAt s) ∧ s.launch? (launchAt s).uid = some (launchAt s) ∧ (launchAt s).halting = false ∧ s.wg? 0 = some (wgOf s) ∧
    (wgOf s).launch = (launchAt s).uid ∧ Named 0xFFFFFFFF (wgOf s) ∧ Named 0 (wgOf s) ∧ ¬ Named 1 (wgOf s) ∧
    ∃ d x, s.wg? d = some x ∧ x.launch = (launchAt s).uid := by
  unfold Named
  rcases h with rfl | rfl | rfl <;>
    exact ⟨by decide +kernel, by decide +kernel, by decide +kernel, by decide +kernel, by decide +kernel, by decide +kernel, by decide +kernel, by decide +kernel, 0, _, rfl,
      by decide +kernel⟩
theorem witness_DebugCommands_halts : (wgOf (labDbg)).halt = none ∧ (wgOf labDbg).retired = false ∧ (wgOf (labDbg (labHalt halt0))).halt = some halt0 ∧ halt0.reason = 0 ∧
    halt0.code = 0x50 := by decide +kernel

/-! ## Capabilities, the host and the module -/

theorem witness_CapabilitiesHeld_mint : let r : CapReq := ⟨0, true, false, false, 5, 0x4000, 16, 0, 0, 0⟩
    lab.ready = true ∧ (lab.tenant r.tenant).live = true ∧ ∃ n < 2 ^ 16, ∀ x ∈ lab.caps, x.slot ≠ n :=
  ⟨by decide +kernel, by decide +kernel, 0, by decide, by decide +kernel⟩
theorem witness_CapabilitiesHeld_delegate : ∃ p, let r : CapChild := ⟨0, 0, true, false, true, 6⟩
    labDbg.ready = true ∧ labDbg.capSlot? r.parent = some p ∧ p.tenant = r.page ∧ labDbg.capLive (labDbg.caps.length + 1) r.parent = true ∧ (r.dbg = true → p.dbg = true) ∧
    (r.trace = true → p.trace = true) ∧ (r.prof = true → p.prof = true) ∧ ∃ n < 2 ^ 16, ∀ x ∈ labDbg.caps, x.slot ≠ n :=
  ⟨slot0, by decide +kernel, by decide +kernel, rfl, by decide +kernel, by decide, by decide, by decide, 1, by decide, by decide +kernel⟩

/-- The slot's own tenant's page, another's, and a slot that is not there. -/
theorem witness_CapabilitiesHeld_revoke : labDbg.capSlot? 0 = some slot0 ∧ slot0.tenant = 0 ∧ slot0.tenant ≠ 1 ∧ labDbg.capSlot? 1 = none := by decide +kernel
/-- The page at 0x20000 of tenant 0 is mapped to the frame at 0x50000; the tenant may be confidential, with a key. -/
def labHost (conf : Bool) : State :=
  { lab with mem := tableOf 0, tenants := [(0, { tenant0 with key := if conf then some 77 else none, cfg := { tenant0.cfg with conf := conf, root := 0x40000 } })] }
theorem witness_HostAccesses_plain : lab.ready = true ∧ 4 * Config.hbmPerDie - 1 < 4 * Config.hbmPerDie ∧ lab.confKey (4 * Config.hbmPerDie - 1) = none ∧
    lab.mappedAt (memKey 0 (4 * Config.hbmPerDie - 1)) = none ∧ lab.pinnedAt (4 * Config.hbmPerDie - 1) = none := by decide +kernel
theorem witness_HostAccesses_confidential : (labHost true).ready = true ∧ (labHost true).confKey 0x5FFFF = some 77 := by decide +kernel
theorem witness_HostAccesses_mapped : (labHost false).ready = true ∧ (labHost false).confKey 0x5FFFF = none ∧
    (labHost false).mappedAt (memKey 0 0x5FFFF) = some (0, 0x2FFFF) ∧
    ((labHost false).homeWrite ((labHost false).tenant 0).cfg.asid 0x2FFFF (memKey 0 0x5FFFF) [7] ((labHost false).tenant 0).hubGen false).isSome = true ∧
    (labHost false).heldWrites = [] := by decide +kernel
/-- A write to the page is held; one finds the pool empty, a frozen generation needing a copy of the page. -/
def labHeld : State := { labHost false with heldWrites := [⟨60, 0, 0, 0x20000, .store 0 0x20000 [1]⟩] }
def labEmpty : State :=
  { labHost false with tenants := [(0, { tenant0 with gen := 1, maxGen := 1, frozen := [{ frozen0 with pages := [(2, memKey 0 0x50000)] }],
                                                      cfg := { tenant0.cfg with root := 0x40000, frames := 0 } })] }
theorem witness_HostAccesses_held : labHeld.ready = true ∧ 0x5FFFF < 4 * Config.hbmPerDie ∧ labHeld.confKey 0x5FFFF = none ∧
    labHeld.mappedAt (memKey 0 0x5FFFF) = some (0, 0x2FFFF) ∧ (∃ h ∈ labHeld.heldWrites, h.asid = (labHeld.tenant 0).cfg.asid ∧ h.va / 2 ^ 16 = 0x2FFFF / 2 ^ 16) ∧
    labEmpty.ready = true ∧ labEmpty.confKey 0x5FFFF = none ∧ labEmpty.mappedAt (memKey 0 0x5FFFF) = some (0, 0x2FFFF) ∧
    (labEmpty.homeWrite (labEmpty.tenant 0).cfg.asid 0x2FFFF (memKey 0 0x5FFFF) [7] (labEmpty.tenant 0).hubGen false).isNone = true := by decide +kernel
/-- A byte of the private memory of the workgroup on core 0, in a launch with a reservation at 0. -/
def labPin : State := (labW fun w => { w with priv := [(privKey 0 5, 9)] }).modLaunch 0 fun l =>
  { l with pin := some (0, imageSize + parkAreaSize + 2 ^ 20), rcd := { l.rcd with part := [0] } }
theorem witness_HostAccesses_pinned : ∃ l, let pa := imageSize + parkAreaSize + 5
    labPin.ready = true ∧ pa < 4 * Config.hbmPerDie ∧ labPin.confKey pa = none ∧ labPin.pinnedAt pa = some (l, pa) ∧ labPin.pinnedByte l pa = some 9 :=
  ⟨_, by decide +kernel, by decide +kernel, by decide +kernel, rfl, by decide +kernel⟩
theorem witness_HostAccesses_number : lab.ready = true ∧ lab.devNumSet = false ∧ ({ lab with devNumSet := true } : State).devNumSet = true := by decide +kernel

theorem witness_TenantsAndQueues_create : lab.ready = true ∧ 15 < 16 ∧ (lab.tenant 15).live = false := by decide +kernel
def labNone (conf : Bool) : State := { labHost conf with launches := [] }
theorem witness_TenantsAndQueues_delete (conf : Bool) : (labNone conf).ready = true ∧ ((labNone conf).tenant 0).live = true ∧
    (∀ q ∈ (labNone conf).queues, ¬ (q.2.mapped = true ∧ q.2.tenant = 0)) ∧ (∀ l ∈ (labNone conf).launches, l.tenant ≠ 0) ∧ ((labNone conf).tenant 0).cfg.conf = conf := by
  cases conf <;> decide +kernel
theorem witness_TenantsAndQueues_map : lab.ready = true ∧ 63 < 64 ∧ (lab.queue 63).mapped = false ∧ (lab.tenant 0).live = true ∧ 4 ≤ 16 ∧ 16 ≤ 16 ∧ 4 ≤ 4 ∧
    (64 * 2 ^ 16) % (64 * 2 ^ 16) = 0 ∧ (64 * 2 ^ 4) % (64 * 2 ^ 4) = 0 := by decide +kernel
/-- A tenant that a queue names, a queue that is mapped, a ring that is too long. -/
theorem witness_TenantsAndQueues_refused : let s : State := { lab with queues := [(4, queue4)] }
    s.ready = true ∧ (s.tenant 0).live = true ∧ (∃ q ∈ s.queues, q.2.mapped = true ∧ q.2.tenant = 0) ∧ (∃ l ∈ s.launches, l.tenant = 0) ∧ 4 < 64 ∧
    (s.queue 4).mapped = true ∧ (s.queue 5).mapped = false ∧ (s.tenant 15).live = false ∧ 3 < 4 ∧ 16 < 17 ∧ (64 * 2 ^ 4 + 64) % (64 * 2 ^ 4) ≠ 0 := by decide +kernel
def labUq (n : Bool) : State := { lab with queues := [(4, { queue4 with pkts := [{ revert0 with started := n }] })] }
theorem witness_TenantsAndQueues_unmap : ((labUq false).queue 4).mapped = true ∧ ((labUq false).queue 4).unmapping = false ∧
    (∀ p ∈ ((labUq false).queue 4).pkts, p.started = false) ∧ ((labUq true).queue 4).mapped = true ∧ ∃ p ∈ ((labUq true).queue 4).pkts, p.started = true := by
  decide +kernel
theorem witness_TenantsAndQueues_entry (n : Nat) (h : n = 0 ∨ n = 15) :
    lab.ready = true ∧ n < 16 ∧ EntryField 0x40 8 (0x40000 : BitVec 64).toNat (lab.tenant n).cfg { (lab.tenant n).cfg with root := 0x40000 } ∧
    { (lab.tenant n).cfg with root := 0x40000 } ≠ (lab.tenant n).cfg ∧ (lab.tenant n).live = decide (n = 0) := by
  rcases h with rfl | rfl <;>
    exact ⟨by decide +kernel, by decide, by unfold EntryField; exact .inr (.inr (.inr (.inr (.inr (.inr (.inr (.inr (.inr (.inr (.inr ⟨rfl, rfl, rfl⟩)))))))))),
      by decide +kernel, by decide +kernel⟩

/-- Tenant 15's free entry: its state and confidential bits, all clear, or created; tenant 0's live one, the same, deleted or changed. -/
theorem witness_TenantsAndQueues_state (n : Nat) (v : BitVec 64) (h : (n = 15 ∨ n = 0) ∧ (v = 0 ∨ v = 1 ∨ v = 2)) :
    lab.ready = true ∧ n < 16 ∧ EntryField 0 4 v.toNat (lab.tenant n).cfg { (lab.tenant n).cfg with conf := v.toNat / 2 % 2 == 1 } ∧ v.toNat < 4 ∧
    (lab.tenant n).live = decide (n = 0) ∧ (decide ({ (lab.tenant n).cfg with conf := v.toNat / 2 % 2 == 1 } = (lab.tenant n).cfg)) = decide (v ≠ 2) := by
  obtain ⟨rfl | rfl, rfl | rfl | rfl⟩ := h <;> exact ⟨by decide +kernel, by decide, .inl ⟨rfl, rfl, rfl⟩, by decide, by decide +kernel, by decide +kernel⟩
/-- Queue 5 is not mapped; queue 4 is, for tenant 0, with sixteen slots at 0x1000, with or without a packet that has started. -/
theorem witness_TenantsAndQueues_queues (n : Bool) : let s := labUq n
    s.ready = true ∧ 5 < 64 ∧ (s.queue 5).mapped = false ∧ (s.queue 4).mapped = true ∧ (s.queue 4).unmapping = false ∧
    ((s.queue 4).pkts.any (·.started)) = n ∧ (s.queue 4).base = (0x1000 : BitVec 64).toNat ∧ (0x2000 : BitVec 64).toNat ≠ (s.queue 4).base := by
  cases n <;> decide +kernel
theorem witness_TenantsAndQueues_queueCtl (v : BitVec 64) (h : v = 0x400 ∨ v = 0x401 ∨ v = 0x403 ∨ v = 0x500 ∨ v = 0x410) : let s := labUq true
    v.toNat < 2 ^ 13 ∧ v.toNat / 4 % 4 = 0 ∧
      (decide (v.toNat / 16 % 16 = (s.queue 4).tenant) && decide (v.toNat / 256 % 32 = (s.queue 4).log)) = decide (v ≠ 0x500 ∧ v ≠ 0x410) := by
  rcases h with rfl | rfl | rfl | rfl | rfl <;> exact ⟨by decide, by decide, by decide +kernel⟩
theorem witness_IslandsAndTables_point : lab.ready = true ∧ 63 < 64 ∧ (4 : BitVec 3).toNat ≤ 4 ∧ (lab.island 63).busy = false ∧ lab.islandHeld 63 = false ∧
    (3 : BitVec 3).toNat ≤ 4 ∧ (lab.island 0).busy = false ∧ lab.islandHeld 0 = true := by decide +kernel
def labIs (req : Nat) : State := lab.modIsland 5 fun i => { i with req := req, busy := true }
theorem witness_IslandsAndTables_done : ((labIs 3).island 5).busy = true ∧ ((labIs 3).island 5).req < 4 ∧ ((labIs 4).island 5).busy = true ∧
    ((labIs 4).island 5).req = 4 := by decide +kernel
theorem witness_IslandsAndTables_thermal : 63 < 64 ∧ (839 : BitVec 16).toNat < 840 ∧ 840 ≤ (840 : BitVec 16).toNat ∧ lab.trip = false := by decide +kernel
def labTrip : State := { lab with trip := true, islands := [(0, { Island.reset with temp := 679 })] }
theorem witness_IslandsAndTables_clear : labTrip.trip = true ∧ (1 : BitVec 32).toNat % 2 = 1 ∧ ∀ p ∈ labTrip.islands, p.2.temp.toNat < 680 := by decide +kernel
theorem witness_IslandsAndTables_busy : lab.ready = true ∧ (lab.island 63).busy = false ∧ ((labIs 3).island 5).busy = true := by decide +kernel
theorem witness_IslandsAndTables_erasure : lab.ready = true ∧ 95 < 96 ∧ 3 < 4 ∧ (0x8023 : BitVec 16).toNat % 64 ≤ 35 ∧ lab.listedElsewhere 95 3 0x8023 = false ∧
    ({ lab with erasure := [(380, 0x8023)] } : State).listedElsewhere 95 3 0x8023 = true := by decide +kernel
theorem witness_IslandsAndTables_corrected : lab.ready = true ∧ (0 = 0 ∧ 511 < 512 ∨ (0 : Nat) = 1 ∧ 511 < 12 ∨ (0 : Nat) = 2 ∧ 511 < 4) ∧
    ((1 : Nat) = 0 ∧ 11 < 512 ∨ 1 = 1 ∧ 11 < 12 ∨ (1 : Nat) = 2 ∧ 11 < 4) ∧ ((2 : Nat) = 0 ∧ 3 < 512 ∨ (2 : Nat) = 1 ∧ 3 < 12 ∨ 2 = 2 ∧ 3 < 4) := by decide +kernel

/-- A unit with two symbols in error, which are corrected, and one with three, which are not. -/
def labLat : State := { lab with latent := [(8, [0, 35]), (9, [0, 1, 2])] }
theorem witness_IslandsAndTables_scrub : SMap.get? labLat.latent 7 = none ∧ SMap.get? labLat.latent 8 = some [0, 35] ∧ labLat.decodes (8, [0, 35]) = true ∧
    SMap.get? labLat.latent 9 = some [0, 1, 2] ∧ labLat.decodes (9, [0, 1, 2]) = false ∧ KeepsMemory labTrip :=
  ⟨by decide +kernel, by decide +kernel, rfl, by decide +kernel, rfl, by unfold KeepsMemory; decide +kernel⟩
theorem witness_ResetAndAttestation : ({ lab with spdmSession := 1 } : State).spdmSession = 1 := rfl
theorem witness_ResetAndAttestation_reset : lab.trip = false ∧ KeepsMemory lab ∧ labTrip.trip = true ∧ KeepsMemory labTrip := by
  unfold KeepsMemory
  decide +kernel
theorem witness_TokensAtCompletion : lab.ready = true ∧ 15 < 16 ∧ (lab.tenant 15).live = false ∧ 4094 < 4095 := by decide +kernel
theorem witness_OwnershipTransferred : let s := { State.reset with nonceOut := some 5 }
    (∀ p ∈ s.tenants, p.2.live = false) ∧ s.nonceOut = some 5 ∧ (∀ k, s.ownerKey = some k → Config.mldsaVerify k [5, (9 : BitVec 256).toNat] 0 = true) ∧
    (∃ p ∈ lab.tenants, p.2.live = true) ∧ lab.nonceOut ≠ some 5 :=
  ⟨by decide +kernel, rfl, (fun k h => by cases h), by decide +kernel, by decide +kernel⟩

theorem witness_OwnershipTransferred_cut : ({ State.reset with nonceOut := some 5, transfer := some 9 } : State).transfer ≠ none ∧ State.reset.transfer = none ∧
    State.reset.trip = false ∧ labTrip.trip = true := by decide +kernel

/-! ## Steps -/

/-- An IADD at core 0's turn; a word with a bit of a reserved field set; an event; no turn. -/
def labStep (w : Nat) : State := { (labG fun g => { g with words := [BitVec.ofNat 64 w] }) with turns := [.issue 0 0] }
theorem comes_to {s : State} {g : Nat} {x : Group} {w : Word64} (h : (s.group? 0 g = some x ∧ s.issues 0 = true) ∧ (x.fetched = true ∧ x.tested = true) ∧
    x.words[x.wix - 1]? = some w ∧ s.first 0 g x = true) : ComesTo s 0 g x w := ⟨h.1.1, h.1.2, h.2.1.1, .inl h.2.1.2, h.2.2.1, h.2.2.2⟩
theorem witness_StepRunsDecoded_word : ∃ x, (labStep 0x1401C0C017020000).turns = .issue 0 0 :: [] ∧ ComesTo (labStep 0x1401C0C017020000) 0 0 x 0x1401C0C017020000 ∧
    decodeWord (0x1401C0C017020000 : Word64).toNat ((x.words[x.wix]?).map (·.toNat)) = .ok (.shl ⟨0, 0, 7, false⟩ ⟨false, 6⟩ (.vec 5) (.short 2) none) :=
  ⟨{ (((labStep 0x1401C0C017020000).group? 0 0).getD (startGroup placedRec 0 0 0)) with }, rfl, comes_to (by decide +kernel), rfl⟩
theorem witness_StepRunsDecoded_rejected : ∃ x e, (labStep 0x1401C0C017020001).turns = .issue 0 0 :: [] ∧ ComesTo (labStep 0x1401C0C017020001) 0 0 x 0x1401C0C017020001 ∧
    decodeWord (0x1401C0C017020001 : Word64).toNat ((x.words[x.wix]?).map (·.toNat)) = .error e :=
  ⟨((labStep 0x1401C0C017020001).group? 0 0).getD (startGroup placedRec 0 0 0), .modifier, rfl, comes_to (by decide +kernel), rfl⟩
theorem witness_StepRunsDecoded_event : ({ lab with turns := [.happen (.patrolScrub 3)] } : State).turns = .happen (.patrolScrub 3) :: [] ∧
    isWord (.patrolScrub 3) = false ∧ ({ lab with turns := [] } : State).turns = [] := by decide +kernel
theorem witness_DecodeEncodeAgree : (Instr.iadd ⟨4, 0, 7, false⟩ false false ⟨false, 3⟩ (.vec 1) .long (some 1000)).wf = true ∧
    encodeWords (.iadd ⟨4, 0, 7, false⟩ false false ⟨false, 3⟩ (.vec 1) .long (some 1000)) ≠ [] := by decide +kernel
theorem witness_DecodedWordsEncode : 0x1401C0C017020000 < 2 ^ 64 ∧
    decodeWord 0x1401C0C017020000 none = .ok (.shl ⟨0, 0, 7, false⟩ ⟨false, 6⟩ (.vec 5) (.short 2) none) := ⟨by decide, rfl⟩
/-- A step of a machine whose memory is in its canonical form. -/
theorem witness_StepKeepsMemory : ∃ t, MemOk (labStep 0x1401C0C017020000) ∧ step (labStep 0x1401C0C017020000) = .next t :=
  ⟨_, by unfold MemOk; decide +kernel, rfl⟩

/-! ## Litmus tests (Notes on consistency) -/

/-- A store or a load of one byte by one thread. -/
def access (a : Act) (seat : Seat) (t : Nat) (x : Site) (s : Scope) (acq rel : Bool) : Event :=
  { act := a, seat := seat, threads := [t], eng := none, elem := 0, stamp := false, reads := if a = .read then [x] else [], writes := if a = .write then [x] else []
    whole := true, scope := s, acq := acq, rel := rel, chan := none, meet := none, peer := false }
/-- Core 10 and core 100, on one die. -/
def seatX : Seat := ⟨0, false, 0, 0, 0, 0⟩
def seatY : Seat := ⟨0, false, 0, 0, 1, 2⟩
def siteX : Site := .global 0 0
def siteY : Site := .global 0 64
/-- X stores x and releases y at one scope; Y acquires y at another and loads x. -/
def passing (s s' : Scope) : Program :=
  { events := [access .write seatX 0 siteX .none false false, access .write seatX 0 siteY s false true, access .read seatY 1 siteY s' true false,
      access .read seatY 1 siteX .none false false]
    forks := [], joins := [], drains := [], tokens := [], starts := [], deps := [], replicas := [], result := fun _ _ _ => 1, init := fun _ => 0 }
/-- Y reads the new y and the old x. -/
def stale (r : Nat) (x : Site) : Byte := if r = 2 ∧ x = siteY then 1 else 0

theorem passing_ev {s s' : Scope} {n : Nat} {e : Event} (h : (passing s s').Ev n e) :
    n = 0 ∧ e = access .write seatX 0 siteX .none false false ∨ n = 1 ∧ e = access .write seatX 0 siteY s false true ∨
      n = 2 ∧ e = access .read seatY 1 siteY s' true false ∨ n = 3 ∧ e = access .read seatY 1 siteX .none false false := by
  unfold Program.Ev passing at h
  rcases n with _ | _ | _ | _ | n <;> simp at h <;> simp [h]
theorem passing_reads {s s' : Scope} {n : Nat} {x : Site} : (passing s s').Reads n x ↔ n = 2 ∧ x = siteY ∨ n = 3 ∧ x = siteX := by
  constructor
  · rintro ⟨e, h, hx⟩
    rcases passing_ev h with ⟨rfl, rfl⟩ | ⟨rfl, rfl⟩ | ⟨rfl, rfl⟩ | ⟨rfl, rfl⟩ <;> simp_all [access]
  · rintro (⟨rfl, rfl⟩ | ⟨rfl, rfl⟩)
    · exact ⟨_, rfl, by simp [access]⟩
    · exact ⟨_, rfl, by simp [access]⟩
theorem passing_writes {s s' : Scope} {n : Nat} {x : Site} : (passing s s').Writes n x ↔ n = 0 ∧ x = siteX ∨ n = 1 ∧ x = siteY := by
  constructor
  · rintro ⟨e, h, hx⟩
    rcases passing_ev h with ⟨rfl, rfl⟩ | ⟨rfl, rfl⟩ | ⟨rfl, rfl⟩ | ⟨rfl, rfl⟩ <;> simp_all [access]
  · rintro (⟨rfl, rfl⟩ | ⟨rfl, rfl⟩)
    · exact ⟨_, rfl, by simp [access]⟩
    · exact ⟨_, rfl, by simp [access]⟩

/-- 16, the first row: one `.die` instance contains both, and the old x is forbidden. -/
theorem test_passing_forbidden : ¬ (passing .die .die).Allows stale := by
  rintro ⟨k, hk, hv⟩
  have put : ∀ {n x}, (passing .die .die).Writes n x → k.put n x = 1 := fun h => hk.computed _ _ h
  have h2 : k.rf 2 siteY = some 1 := by
    have := hv 2 siteY (passing_reads.2 (.inl ⟨rfl, rfl⟩))
    unfold Choice.value at this
    cases hr : k.rf 2 siteY with
    | none => simp [hr, passing, stale] at this
    | some w =>
      have hw := hk.sound.source 2 siteY w (passing_reads.2 (.inl ⟨rfl, rfl⟩)) hr
      rcases passing_writes.1 hw with ⟨-, h⟩ | ⟨rfl, -⟩
      · exact absurd h (by decide)
      · rfl
  have h3 : k.rf 3 siteX = none := by
    have := hv 3 siteX (passing_reads.2 (.inr ⟨rfl, rfl⟩))
    unfold Choice.value at this
    cases hr : k.rf 3 siteX with
    | none => rfl
    | some w =>
      have hw := hk.sound.source 3 siteX w (passing_reads.2 (.inr ⟨rfl, rfl⟩)) hr
      rcases passing_writes.1 hw with ⟨rfl, -⟩ | ⟨-, h⟩
      · rw [hr] at this
        exact absurd ((put (passing_writes.2 (.inl ⟨rfl, rfl⟩))).symm.trans this) (by decide)
      · exact absurd h (by decide)
  have plainEv : ∀ n, ¬ (passing .die .die).Channelled n := by
    rintro n ⟨e, h, hc⟩
    rcases passing_ev h with ⟨-, rfl⟩ | ⟨-, rfl⟩ | ⟨-, rfl⟩ | ⟨-, rfl⟩ <;> simp [access] at hc
  have hs : k.Sw (passing .die .die) 1 2 :=
    ⟨.die, _, _, .write (r := 2) rfl rfl rfl rfl ⟨_, rfl, rfl, .inl ⟨rfl, rfl, rfl⟩⟩ ⟨1, siteY, .inl rfl, passing_reads.2 (.inl ⟨rfl, rfl⟩), h2⟩, rfl, rfl, by decide⟩
  exact message_passing hk (a := 0) (l := 1) (q := 2) (r := 3) (x := siteX) ⟨by decide, _, _, rfl, rfl, 0, by decide, by decide⟩ (plainEv 0) hs
    ⟨by decide, _, _, rfl, rfl, 1, by decide, by decide⟩ (plainEv 2) (passing_writes.2 (.inl ⟨rfl, rfl⟩)) (passing_reads.2 (.inr ⟨rfl, rfl⟩))
    ⟨passing_reads.2 (.inr ⟨rfl, rfl⟩), by decide, (hk.sound.total siteX 0).2 (passing_writes.2 (.inl ⟨rfl, rfl⟩)), fun v h => by simp [h3] at h⟩

/-- 16, the third row: a release at `.die` and an acquire at `.sys` order nothing, and the old x is allowed. -/
def staleChoice : Choice :=
  { rf := fun r x => if r = 2 ∧ x = siteY then some 1 else none, put := fun _ _ => 1, co := fun x => if x = siteX then [0] else if x = siteY then [1] else [], updates := fun _ => [], held := fun _ => 0 }
theorem passing_eng {s s' : Scope} {n : Nat} {e : Event} (h : (passing s s').Ev n e) : e.eng = none := by
  rcases passing_ev h with ⟨-, rfl⟩ | ⟨-, rfl⟩ | ⟨-, rfl⟩ | ⟨-, rfl⟩ <;> rfl
theorem passing_inner {s s' : Scope} {a b : Nat} : ¬ (passing s s').Inner a b := by
  intro h
  cases h with
  | element he _ h => simp [passing_eng he] at h
  | source he _ h => simp [passing_eng he] at h
  | stamp he _ h => simp [passing_eng he] at h
  | commit he _ h => simp [passing_eng he] at h
theorem stale_po {a b : Nat} (h : staleChoice.Hb (passing .die .sys) a b) : a / 2 = b / 2 ∧ a < b := by
  have po : ∀ {a b}, (passing .die .sys).Po a b → a / 2 = b / 2 ∧ a < b := by
    rintro a b ⟨hl, e, f, he, hf, t, ht, ht'⟩
    refine ⟨?_, hl⟩
    rcases passing_ev he with ⟨rfl, rfl⟩ | ⟨rfl, rfl⟩ | ⟨rfl, rfl⟩ | ⟨rfl, rfl⟩ <;>
      rcases passing_ev hf with ⟨rfl, rfl⟩ | ⟨rfl, rfl⟩ | ⟨rfl, rfl⟩ | ⟨rfl, rfl⟩ <;> simp_all [access]
  have noFence : ∀ {r s n}, (passing .die .sys).AcquiresAt r s n → s = .sys := by
    rintro r s n ⟨e, he, -, ⟨-, h⟩ | ⟨f, -, hf, ha, -⟩⟩
    · rcases passing_ev he with ⟨-, rfl⟩ | ⟨-, rfl⟩ | ⟨-, rfl⟩ | ⟨-, rfl⟩ <;> simp_all [access]
    · rcases passing_ev hf with ⟨-, rfl⟩ | ⟨-, rfl⟩ | ⟨-, rfl⟩ | ⟨-, rfl⟩ <;> simp [access] at ha
  have sw : ∀ {a b}, ¬ staleChoice.Sw (passing .die .sys) a b := by
    rintro a b ⟨s, e, f, h, -⟩
    cases h with
    | write he hr _ hs hb _ =>
      have := noFence hb
      rcases passing_ev he with ⟨-, rfl⟩ | ⟨-, rfl⟩ | ⟨-, rfl⟩ | ⟨-, rfl⟩ <;> simp_all [access]
    | fence he hr =>
      rcases passing_ev he with ⟨-, rfl⟩ | ⟨-, rfl⟩ | ⟨-, rfl⟩ | ⟨-, rfl⟩ <;> simp [access] at hr
    | word he _ _ _ _ _ hm =>
      rcases passing_ev he with ⟨-, rfl⟩ | ⟨-, rfl⟩ | ⟨-, rfl⟩ | ⟨-, rfl⟩ <;> simp [access] at hm
    | stamp he hr =>
      rcases passing_ev he with ⟨-, rfl⟩ | ⟨-, rfl⟩ | ⟨-, rfl⟩ | ⟨-, rfl⟩ <;> simp [access] at hr
  have edge : ∀ {a b}, staleChoice.HbEdge (passing .die .sys) a b → a / 2 = b / 2 ∧ a < b := by
    intro a b h
    cases h with
    | po h => exact po h
    | sw h => exact absurd h sw
    | saved _ _ he hr =>
      rcases passing_ev he with ⟨-, rfl⟩ | ⟨-, rfl⟩ | ⟨-, rfl⟩ | ⟨-, rfl⟩ <;> simp [access] at hr
    | fork h => simp [passing] at h
    | join h => simp [passing] at h
    | joinSw _ _ _ _ h => exact absurd h sw
    | inner h => exact absurd h passing_inner
    | token h => simp [passing] at h
    | start h => simp [passing] at h
  rcases h with h | h
  · exact po h
  · induction h with
    | single e => exact edge e
    | tail _ e ih => exact ⟨ih.1.trans (edge e).1, Nat.lt_trans ih.2 (edge e).2⟩
theorem test_passing_allowed : (passing .die .sys).Allows stale := by
  have noVis : ∀ {a q}, ¬ staleChoice.Vis (passing .die .sys) a q := by
    intro a q h
    cases h with
    | chained _ he hc =>
      rcases passing_ev he with ⟨-, rfl⟩ | ⟨-, rfl⟩ | ⟨-, rfl⟩ | ⟨-, rfl⟩ <;> simp [access] at hc
    | drained h => simp [passing] at h
  have noCho : ∀ {a b}, ¬ (passing .die .sys).Cho a b := by
    have : ∀ {a b}, ¬ (passing .die .sys).ChoEdge a b := by
      intro a b h
      have none : ∀ {n e}, (passing .die .sys).Ev n e → e.chan = .none := by
        intro n e h
        rcases passing_ev h with ⟨-, rfl⟩ | ⟨-, rfl⟩ | ⟨-, rfl⟩ | ⟨-, rfl⟩ <;> rfl
      cases h with
      | session _ he _ _ hc => simp [none he] at hc
      | chain _ _ _ _ hf _ _ _ _ hc => simp [none hf] at hc
      | chainAll _ _ _ _ hf _ _ _ _ hc => simp [none hf] at hc
      | copy he _ hc => simp [none he] at hc
    intro a b h
    cases h with
    | single e => exact this e
    | tail _ e => exact this e
  have rf : ∀ {x w r}, staleChoice.Rf (passing .die .sys) x w r → w = 1 ∧ r = 2 := by
    rintro x w r ⟨-, h⟩
    simp only [staleChoice] at h
    split at h <;> simp_all
  have co : ∀ {x a b}, ¬ staleChoice.Co x a b := by
    rintro x a b ⟨i, j, hij, -, hj⟩
    have hl : (staleChoice.co x).length ≤ 1 := by
      simp only [staleChoice]
      split
      · simp
      · split <;> simp
    have := (List.getElem?_eq_some_iff.1 hj).1
    omega
  refine ⟨staleChoice, ⟨⟨?_, ?_, ?_⟩, ⟨?_, ?_⟩, ?_, ?_, fun _ _ _ _ _ => rfl, fun _ _ _ => rfl, ?_, ⟨?_, ?_, ?_, ?_, ?_⟩⟩, ?_⟩
  · intro r x w hr h
    obtain ⟨rfl, rfl⟩ := rf ⟨hr, h⟩
    rcases passing_reads.1 hr with ⟨-, rfl⟩ | ⟨h, -⟩
    · exact passing_writes.2 (.inr ⟨rfl, rfl⟩)
    · cases h
  · intro x w
    rw [passing_writes]
    by_cases h : x = siteX
    · subst h; simp [staleChoice, show siteX ≠ siteY by decide]
    · by_cases h' : x = siteY <;> simp [staleChoice, h, h']
      subst h'; simp [show siteY ≠ siteX by decide]
  · intro x
    simp only [staleChoice]
    split
    · simp
    · split <;> simp
  · exact fun a b e f x y _ _ _ _ _ _ h => absurd h co
  · rintro r e x y w he - hx hy hw hwx ⟨-, -, -, hf⟩
    obtain ⟨rfl, rfl⟩ := rf ⟨⟨e, he, hy⟩, hw⟩
    rcases passing_writes.1 hwx with ⟨h, -⟩ | ⟨-, rfl⟩
    · cases h
    · exact absurd (hf 1 rfl) co
  · intro x
    refine acyclic_of_rank (fun n => [1, 0, 1, 0].getD n 0) fun a b ⟨ha, hb, h⟩ => ?_
    rcases h with h | h | h | h | ⟨hr, -, hw, hv⟩
    · rcases h with h | ⟨q, h, -⟩
      · have := stale_po h
        rcases ha with ha | ha <;> rcases hb with hb | hb <;> simp only [passing_reads, passing_writes] at ha hb <;>
          rcases ha with ⟨rfl, rfl⟩ | ⟨rfl, rfl⟩ <;> rcases hb with ⟨rfl, hb⟩ | ⟨rfl, hb⟩ <;> simp_all [siteX, siteY]
      · exact absurd h noVis
    · exact absurd h noCho
    · obtain ⟨rfl, rfl⟩ := rf h
      decide
    · exact absurd h co
    · rcases passing_reads.1 hr with ⟨rfl, rfl⟩ | ⟨rfl, rfl⟩
      · exact absurd (hv 1 rfl) co
      · have : b = 0 := by simpa [staleChoice] using hw
        subst this
        decide
  · intro n e x v he hm hx
    rcases passing_ev he with ⟨-, rfl⟩ | ⟨-, rfl⟩ | ⟨-, rfl⟩ | ⟨-, rfl⟩ <;> simp [access, Event.isRmw] at hm
  · refine acyclic_of_rank (fun n => n) fun a b h => ?_
    rcases h with h | ⟨x, h⟩
    · simp [passing] at h
    · obtain ⟨rfl, rfl⟩ := rf h
      decide
  all_goals try (intro m hm; simp [passing] at hm)
  intro r x hr
  rcases passing_reads.1 hr with ⟨rfl, rfl⟩ | ⟨rfl, rfl⟩ <;> decide

end Sys2Proof.Tests
end

section
/-! Unassigned opcodes (R133): the 72 codes, the words that hold one, and the exception such a word raises. -/

namespace Sys2Proof

open Sys2Proof.Machine Sys2Proof.Claims

/-! ## The codes -/

theorem unassignedCode_lt {n : Nat} (h : UnassignedCode n) : n < 256 := by
  unfold UnassignedCode at h
  omega

/-- The decoder's test for an unassigned code is R133's list of ranges. -/
theorem unassigned_iff {n : Nat} (hn : n < 256) : unassigned n = true ↔ UnassignedCode n := by
  simp only [unassigned, UnassignedCode, Bool.or_eq_true, Bool.and_eq_true, decide_eq_true_eq]
  omega

/-- The unassigned codes in ascending order. -/
def unassignedCodes : List Nat := (List.range 256).filter unassigned

theorem mem_unassignedCodes (n : Nat) : n ∈ unassignedCodes ↔ n < 256 ∧ UnassignedCode n := by
  rw [unassignedCodes, List.mem_filter, List.mem_range]
  exact and_congr_right unassigned_iff

theorem unassignedCodes_nodup : unassignedCodes.Nodup := List.nodup_range.filter _

theorem unassignedCodes_length : unassignedCodes.length = 72 := by decide

/-! ## The words that hold one -/

/-- R112: the opcode is the top byte of a word. -/
theorem opcodeOf_eq_div {w : Nat} (hw : w < 2 ^ 64) : opcodeOf w = w / 2 ^ 56 :=
  Nat.mod_eq_of_lt (Nat.div_lt_of_lt_mul hw)

theorem opcodeOf_code_body (code : BitVec 8) (body : BitVec 56) : opcodeOf (code.toNat * 2 ^ 56 + body.toNat) = code.toNat := by
  have hc := code.isLt
  have hb := body.isLt
  rw [opcodeOf_eq_div (by omega)]
  omega

theorem decodeWord_of_unassigned {w : Nat} (h : unassigned (opcodeOf w) = true) (next : Option Nat) :
    decodeWord w next = .ok (.unassignedOpcode (BitVec.ofNat 8 (opcodeOf w)) (BitVec.ofNat 56 w)) := by
  rw [decodeWord, if_pos h]

/-- Any word with an unassigned code decodes to the instruction of that code, whatever its other bits and the word behind it. -/
theorem decodeWord_unassignedCode {w : Nat} (hw : w < 2 ^ 64) (h : UnassignedCode (w / 2 ^ 56)) (next : Option Nat) :
    decodeWord w next = .ok (.unassignedOpcode (BitVec.ofNat 8 (w / 2 ^ 56)) (BitVec.ofNat 56 w)) := by
  rw [← opcodeOf_eq_div hw] at h ⊢
  exact decodeWord_of_unassigned ((unassigned_iff (unassignedCode_lt h)).2 h) next

/-! ## The exception -/

/-- The PC of an issue is the address of the group's next word. -/
theorem ctx?_pc {s : State} {h : Head} {op : Nat} {lit : Lit} {x : Ctx} (hx : s.ctx? h op lit = some x) : x.pc = x.grp.pc := by
  unfold State.ctx? at hx
  split at hx
  · dsimp only at hx
    split at hx
    · cases hx
      rfl
    · cases hx
  · cases hx

/-- A word that cannot be decoded raises ILLEGAL_INSTR at its own PC, with its executing lanes. -/
theorem illegalWord_raises {s : State} {w : Nat} {x : Ctx} (hx : s.ctx? (headOf w) (opcodeOf w) none = some x) :
    s.illegalWord w =
      .next ((s.advanceTo x.c x.now).raise x.c ⟨cIllegalInstr, 0, x.g, laneMask x.ex % 2 ^ 32, x.grp.pc⟩ (laneMask x.ex)) := by
  rw [← ctx?_pc hx, State.illegalWord, hx]
  rfl

theorem exec_unassignedOpcode (code : BitVec 8) (body : BitVec 56) (s : State) :
    exec (.unassignedOpcode code body) s = s.illegalWord (code.toNat * 2 ^ 56 + body.toNat) := rfl

/-- R133: the instruction of an unassigned code raises ILLEGAL_INSTR in the group that comes to it. -/
theorem unassignedOpcode_raises {s : State} {x : Ctx} {code : BitVec 8} {body : BitVec 56}
    (hx : s.ctx? (headOf (code.toNat * 2 ^ 56 + body.toNat)) code.toNat none = some x) :
    exec (.unassignedOpcode code body) s =
      .next ((s.advanceTo x.c x.now).raise x.c ⟨cIllegalInstr, 0, x.g, laneMask x.ex % 2 ^ 32, x.grp.pc⟩ (laneMask x.ex)) := by
  rw [exec_unassignedOpcode]
  exact illegalWord_raises (by rwa [opcodeOf_code_body])

/-- Settles O6: the decoder's test agrees with R133's list of codes, and the instruction it answers raises the exception through `State.illegalWord`. -/
theorem unassignedOpcodeRaises : Obligations.UnassignedOpcodeRaises :=
  ⟨fun _ next hw h => decodeWord_unassignedCode hw h next,
    ⟨unassignedCodes, unassignedCodes_length, unassignedCodes_nodup, mem_unassignedCodes⟩,
    fun _ _ _ _ hx => unassignedOpcode_raises hx⟩

end Sys2Proof
end

section
/-! What an exception leaves of the workgroups (R423 to R427): the operations that record it change no workgroup but in its exceptions, its scratchpad, where a
trace record in memory updates a replica (R286, R441), and its counts of ck. -/

namespace Sys2Proof.Machine

open Sys2Proof

/-- A workgroup but for what recording an exception may change of it. -/
def Wg.steady (w : Wg) : Wg := { w with scratch := [], undo := [], excs := [], kept := [], halt := none, hist := [], reasons := [] }

/-- The workgroup of a core but for what recording an exception may change of it. -/
def State.steady (s : State) (c : Nat) : Option Wg := (s.wg? c).map Wg.steady

theorem State.steady_of_cores {s t : State} (h : t.cores = s.cores) (d : Nat) : t.steady d = s.steady d := by
  simp only [State.steady, State.wg?, State.core, h]

theorem State.steady_modCore (s : State) (c d : Nat) {f : Core → Core} (hf : ∀ k, (f k).wg.map Wg.steady = k.wg.map Wg.steady := by intro; rfl) :
    (s.modCore c f).steady d = s.steady d := by
  simp only [State.steady, State.wg?_modCore]
  split
  · next h => rw [hf, h, State.wg?]
  · rfl

theorem State.steady_modWg (s : State) (c d : Nat) {f : Wg → Wg} (hf : ∀ w, (f w).steady = w.steady := by intro; rfl) :
    (s.modWg c f).steady d = s.steady d :=
  State.steady_modCore s c d fun k => by simp [Function.comp_def, hf]

theorem State.steady_setWg {s : State} {c : Nat} {w v : Wg} (hw : s.wg? c = some w) (hv : v.steady = w.steady) (d : Nat) :
    (s.setWg c (some v)).steady d = s.steady d := by
  simp only [State.setWg, State.steady, State.wg?_modCore]
  split
  · next h => rw [h, hw, Option.map_some, Option.map_some, hv]
  · rfl

theorem State.steady_foldl {α : Type} {f : State → α → State} {d : Nat} (hf : ∀ s a, (f s a).steady d = s.steady d) (as : List α) (s : State) :
    (as.foldl f s).steady d = s.steady d := by
  induction as generalizing s with
  | nil => rfl
  | cons a as ih => rw [List.foldl_cons, ih, hf]

/-- A group's slot is part of what stays. -/
theorem State.group?_of_steady {s t : State} {c : Nat} (h : t.steady c = s.steady c) (g : Nat) : t.group? c g = s.group? c g := by
  have key (u : State) : u.group? c g = (u.steady c).bind (·.group? g) := by
    simp only [State.group?, State.steady, Option.bind_map]
    rfl
  rw [key, key, h]

/-- The spawn entries are part of what stays. -/
theorem State.spawn_of_steady {s t : State} {c : Nat} (h : t.steady c = s.steady c) : (t.wg? c).map (·.spawn) = (s.wg? c).map (·.spawn) := by
  have key (u : State) : (u.wg? c).map (·.spawn) = (u.steady c).map (·.spawn) := by
    simp only [State.steady, Option.map_map]
    rfl
  rw [key, key, h]

/-! ## Finding a place changes no core -/

theorem State.setXl_cores (s : State) (c : Option (Nat × Nat)) (t : List TlbEntry) (m : List WMap) : (s.setXl c t m).cores = s.cores := by
  cases c <;> rfl

theorem State.translate_cores (s : State) (asid va : Nat) (c : Option (Nat × Nat)) (tier : Nat) (need : Need) (leaf : Except Nat Leaf) :
    (s.translate asid va c tier need leaf).1.cores = s.cores := by
  unfold State.translate
  split
  · rfl
  · split
    · rfl
    · dsimp only
      rw [apply_ite Prod.fst, apply_ite State.cores, State.setXl_cores, ite_self]

theorem State.placeAt_cores (s : State) (asid va : Nat) (need : Need) (home tier : Nat) (leaf : Except Nat Leaf) :
    (s.placeAt asid va need home tier leaf).1.cores = s.cores := by
  have h := s.translate_cores asid va (ctlOf asid va home tier) tier need leaf
  unfold State.placeAt
  dsimp only
  split
  · rfl
  · split
    · next e =>
      rw [e] at h
      split
      · exact h
      · exact (State.modDie_cores ..).trans h
    · exact h

theorem State.place_cores (s : State) (asid va : Nat) (need : Need) : (s.place asid va need).1.cores = s.cores := by
  unfold State.place
  dsimp only
  split
  · rfl
  · split
    · rfl
    · exact State.placeAt_cores ..
    · exact State.placeAt_cores ..

theorem State.moveLine_cores (s : State) (die slot : Nat) (m : Migration) : (s.moveLine die slot m).cores = s.cores := by
  unfold State.moveLine
  dsimp only
  rw [State.modDie_cores]
  split <;> rfl

theorem State.moveHeld_cores (s : State) (asid va : Nat) : (s.moveHeld asid va).cores = s.cores := by
  unfold State.moveHeld
  dsimp only
  split
  · exact State.moveLine_cores ..
  · rfl

theorem State.placeHub_cores (s : State) (asid va : Nat) (need : Need) : (s.placeHub asid va need).1.cores = s.cores :=
  (State.place_cores ..).trans (State.moveHeld_cores ..)

/-! ## A write of the hub -/

theorem State.hear_steady (s : State) (c g d : Nat) : (s.hear c g).steady d = s.steady d := by
  unfold State.hear
  split
  · exact (State.steady_of_cores (State.modTenant_cores ..) d).trans (State.steady_modCore s c d)
  · rfl

theorem State.hearHome_steady (s : State) (c va d : Nat) : (s.hearHome c va).steady d = s.steady d := by
  unfold State.hearHome
  split <;> exact State.hear_steady ..

theorem State.hubHearHome_cores (s : State) (ti va : Nat) : (s.hubHearHome ti va).cores = s.cores := by
  unfold State.hubHearHome
  dsimp only
  split <;> rfl

theorem State.updateReplicas_steady (s : State) (asid va : Nat) (bs : List Byte) (d : Nat) : (s.updateReplicas asid va bs).steady d = s.steady d := by
  refine State.steady_foldl (fun s c => ?_) _ _
  split
  · rfl
  · split
    · rfl
    · refine State.steady_foldl (fun s p => ?_) _ _
      dsimp only
      split
      · exact (State.steady_modWg _ c d).trans (State.hearHome_steady ..)
      · rfl

theorem State.homeWrite_steady {s t : State} {asid va key tag : Nat} {bs : List Byte} {keep : Bool} (h : s.homeWrite asid va key bs tag keep = some t) (d : Nat) :
    t.steady d = s.steady d := by
  have replicas {u : State} {bs' : List Byte} (hu : u.cores = s.cores) : (u.updateReplicas asid va bs').steady d = s.steady d :=
    (State.updateReplicas_steady ..).trans (State.steady_of_cores hu d)
  have dropped (u : State) (die n : Nat) : (if keep = true then u else u.dropShadows die key n).cores = u.cores := by split <;> rfl
  unfold State.homeWrite at h
  split at h
  · cases h
    exact State.steady_of_cores rfl d
  · split at h
    · cases h
      exact replicas rfl
    · dsimp only at h
      split at h
      · cases h
        exact replicas (by simp only [State.modTenant_cores, State.memWrite_cores, dropped])
      · split at h
        · cases h
        · cases h
          refine replicas ?_
          simp only [State.modDie_cores, State.modTenant_cores, State.memWrite_cores]
          split <;> simp only [State.modTenant_cores, dropped]

theorem State.hubPieces_steady (tenant d : Nat) : ∀ (ps : List (Nat × List Byte)) (s : State), (s.hubPieces tenant ps).1.steady d = s.steady d
  | [], _ => rfl
  | (va, p) :: ps, s => by
    unfold State.hubPieces
    dsimp only
    split
    · rfl
    · have hu := State.steady_of_cores (s.placeHub_cores (s.tenant tenant).cfg.asid va needWrite) d
      split
      · next e => rwa [e] at hu
      · next e => rwa [e] at hu
      · next e =>
        rw [e] at hu
        split
        · exact hu
        · next ht =>
          rw [State.hubPieces_steady tenant d ps, State.steady_of_cores (State.hubHearHome_cores ..), State.homeWrite_steady ht]
          exact hu

theorem State.hubWrite_steady (s : State) (tenant va : Nat) (bs : List Byte) (d : Nat) : (s.hubWrite tenant va bs).1.steady d = s.steady d :=
  State.hubPieces_steady ..

/-! ## A trace record (R441, R442) -/

theorem State.traceSuspend_cores (s : State) (u ti va core cause : Nat) : (s.traceSuspend u ti va core cause).cores = s.cores := by
  unfold State.traceSuspend State.reportDepot
  dsimp only
  split <;> rfl

theorem State.traceRing_steady (s : State) (l : Launch) (core : Nat) (es : List (List Byte)) (d : Nat) : (s.traceRing l core es).1.steady d = s.steady d := by
  have suspended (u : State) (a b v e f : Nat) : (u.traceSuspend a b v e f).steady d = u.steady d := State.steady_of_cores (State.traceSuspend_cores ..) d
  unfold State.traceRing
  split
  · rfl
  · dsimp only
    split
    · exact suspended ..
    · split
      · exact State.steady_of_cores (State.modLaunch_cores ..) d
      · generalize hp : List.foldl _ (s, none) _ = put
        have hput : put.1.steady d = s.steady d := by
          rw [← hp]
          refine List.foldlRecOn (motive := fun p : State × Option (Nat × Nat) => p.1.steady d = s.steady d) _ _ rfl fun p h i _ => ?_
          split
          · exact h
          · exact (State.hubWrite_steady ..).trans h
        split
        · exact (suspended ..).trans hput
        · next u =>
          have hw {a : Nat} {bs : List Byte} {p : State × Option (Nat × Nat)} (e : u.hubWrite l.tenant a bs = p) : p.1.steady d = s.steady d :=
            e ▸ (State.hubWrite_steady ..).trans hput
          split
          · next e => exact (suspended ..).trans (hw e)
          · next e => exact hw e

theorem State.traceGap_steady (s : State) (l : Launch) (c x y z ph d : Nat) : (s.traceGap l c x y z ph).1.steady d = s.steady d := by
  unfold State.traceGap
  split
  · rfl
  · have numbered (es : List (List Byte)) : ((s.traceRing l c es).1.modCore c fun k => { k with seq := k.seq + 1 }).steady d = s.steady d :=
      (State.steady_modCore _ c d).trans (State.traceRing_steady ..)
    dsimp only
    split
    · exact (State.steady_of_cores (State.modLaunch_cores ..) d).trans (numbered _)
    · exact numbered _

theorem State.traceRecord_steady (s : State) (c ty tag : Nat) (pc mask : Word64) (extra : List (List Byte)) (d : Nat) :
    (s.traceRecord c ty tag pc mask extra).steady d = s.steady d := by
  unfold State.traceRecord
  split
  · split
    · rfl
    · split
      · exact State.steady_of_cores (State.modLaunch_cores ..) d
      · next w l _ _ _ _ =>
        have hg := s.traceGap_steady l c (wgCoords l.rcd w.wgno).1 (wgCoords l.rcd w.wgno).2.1 (wgCoords l.rcd w.wgno).2.2 (SMap.getD w.phases 0 0) d
        dsimp only
        split
        · next e => rwa [e] at hg
        · next e =>
          rw [e] at hg
          exact ((State.steady_modCore _ c d).trans (State.traceRing_steady ..)).trans hg
  · rfl

/-! ## Taking an exception -/

theorem State.reportClass_cores (s : State) (l : Launch) (c code : Nat) : (s.reportClass l c code).cores = s.cores := by
  unfold State.reportClass
  split <;> rfl

theorem State.haltLaunch_steady (s : State) (c u code d : Nat) : (s.haltLaunch c u code).steady d = s.steady d := by
  refine (State.steady_foldl (fun s e => ?_) _ _).trans (State.steady_of_cores (State.modLaunch_cores ..) d)
  split
  · rfl
  · exact State.steady_modCore s e d

theorem State.advanceTo_steady (s : State) (c ck d : Nat) : (s.advanceTo c ck).steady d = s.steady d := by
  refine State.steady_modCore s c d fun k => ?_
  split
  · rw [Option.map_map]
    refine congrArg (Option.map · k.wg) (funext fun w => ?_)
    obtain ⟨hi, re, e⟩ := countCks_eq w k.ck (ck - k.ck)
    rw [Function.comp_apply, e]
    rfl
  · rfl

theorem Wg.recorded_steady (w : Wg) (e : Exc) (k n ck : Nat) (h0 : Halt) : (w.recorded e k n ck h0).steady = w.steady := by
  unfold Wg.recorded
  split
  · rfl
  · split <;> rfl

/-- R424 to R427: an exception changes nothing of any workgroup but its exceptions and what its trace record does. -/
theorem State.raise_steady (s : State) (c : Nat) (e : Exc) (mask d : Nat) : (s.raise c e mask).steady d = s.steady d := by
  unfold State.raise
  split
  · next w l hw _ =>
    split
    · exact State.steady_modWg s c d
    · dsimp only
      have recorded (k n ck : Nat) (h0 : Halt) (m : Word64) :
          (((s.setWg c (some (w.recorded e k n ck h0))).fresh.traceRecord c 2 e.code e.pc m []).reportClass l c e.code).steady d = s.steady d := by
        rw [State.steady_of_cores (State.reportClass_cores ..), State.traceRecord_steady, State.steady_of_cores (State.fresh_cores ..),
          State.steady_setWg hw (w.recorded_steady ..)]
      split
      · split
        · exact recorded ..
        · exact (State.haltLaunch_steady ..).trans (recorded ..)
      · exact (State.steady_of_cores (State.modLaunch_cores ..) d).trans (recorded ..)
  · rfl

theorem State.raisePrecise_steady (s : State) (x : Ctx) (code aux d : Nat) : (s.raisePrecise x code aux).steady d = s.steady d :=
  (State.raise_steady ..).trans (State.advanceTo_steady ..)

end Sys2Proof.Machine
end

section
/-! Words that write no register (R126, R182): their issue moves the group and changes nothing else of the workgroup but its times. -/

namespace Sys2Proof

open Sys2Proof.Machine Sys2Proof.Claims

/-! ## The frame of the control row -/

theorem Claims.Comes.ctx?_eq {s : State} {h : Head} {op : Nat} {x : Ctx} {places : List Loc} (hx : Comes s h op x places) :
    s.ctx? h op none = some x := hx.1.1

theorem Claims.Comes.checked {s : State} {h : Head} {op : Nat} {x : Ctx} {reads writes : List Loc} (hx : Comes s h op x (reads ++ writes)) :
    Checked x (headLocs x ++ reads ++ writes) := by simpa only [List.append_assoc] using hx.2

section
variable {s : State} {h : Head} {op : Nat} {x : Ctx} {illegal : Ctx → Bool} {reads writes : Ctx → List Loc} {eff : Ctx → State → Res}

/-- A control word whose frame passes and whose effect is done answers what the effect does. -/
theorem control_done {t : State} (hx : Comes s h op x (reads x ++ writes x)) (hl : illegal x = false) (he : eff x s = .done t) :
    control s h op illegal reads writes eff = .next t := by
  simp only [Machine.control, word_eff (reads := fun x => headLocs x ++ reads x) hx.1 hl hx.checked, he]

/-- A control word whose frame passes and whose effect is an exception raises it at the word, with the executing lanes. -/
theorem control_exc {code : Nat} (hx : Comes s h op x (reads x ++ writes x)) (hl : illegal x = false) (he : eff x s = .exc code 0) :
    control s h op illegal reads writes eff = .next (s.raisePrecise x code (laneMask x.ex % 2 ^ 32)) := by
  simp only [Machine.control, word_eff (reads := fun x => headLocs x ++ reads x) hx.1 hl hx.checked, he, ↓reduceIte]

end

/-! ## What of a group a move keeps -/

/-- A group but for its place, its wait and its times of issue. -/
def Machine.Group.unplaced (g : Group) : Group :=
  { g with hdr := 0, wix := 0, fetched := false, tested := false, seen := [], notBefore := 0, settle := false, lastIssue := 0, wait := none }

theorem next_unplaced (g : Group) (l : Bool) : (g.next l).unplaced = g.unplaced := by
  by_cases hc : g.words.length < g.wix + (if l then 2 else 1) <;> simp only [Group.next, hc, ↓reduceIte, Group.unplaced]

theorem goto_pc (g : Group) (a : Word64) : (g.goto a).pc = a := by simp [Group.pc, Group.goto]

theorem advanced_unplaced (x : Ctx) (g : Group) : (advanced x g).unplaced = g.unplaced := next_unplaced g x.lit.isSome

/-! ## The workgroup -/

/-- The workgroup `w` has come out of `x.wg` by moves of the issuing group, which is `b` now. -/
structure Moved (x : Ctx) (w : Wg) (b : Group) : Prop where
  rest : w = { x.wg with groups := w.groups, lastIssue := w.lastIssue, issues := w.issues, hist := w.hist, reasons := w.reasons }
  group : w.group? x.g = some b
  others : ∀ j, j ≠ x.g → w.group? j = x.wg.group? j
  kept : b.unplaced = x.grp.unplaced

theorem Moved.modGroup {x : Ctx} {w : Wg} {b : Group} (h : Moved x w b) (f : Group → Group) (hf : ∀ y, (f y).unplaced = y.unplaced) :
    Moved x (w.modGroup x.g f) (f b) where
  rest := by rw [Wg.modGroup, h.rest]
  group := by
    have := h.group
    rw [Wg.group?] at this
    rw [Wg.group?, Wg.modGroup, SMap.get?_modify, if_pos rfl, this, Option.map_some]
  others j hj := by rw [← h.others j hj, Wg.group?, Wg.modGroup, SMap.get?_modify, if_neg hj, Wg.group?]
  kept := (hf b).trans h.kept

theorem Moved.threads {x : Ctx} {w : Wg} {b : Group} (h : Moved x w b) : w.threads = x.wg.threads := by rw [h.rest]

theorem Moved.spawn {x : Ctx} {w : Wg} {b : Group} (h : Moved x w b) : w.spawn = x.wg.spawn := by rw [h.rest]

theorem Moved.field {x : Ctx} {w : Wg} {b : Group} (h : Moved x w b) {α : Type} (f : Group → α) (hf : ∀ g, f g.unplaced = f g := by intro; rfl) :
    f b = f x.grp := by rw [← hf, h.kept, hf]

theorem Moved.start {x : Ctx} (h : x.wg.group? x.g = some x.grp) : Moved x x.wg x.grp := ⟨rfl, h, fun _ _ => rfl, rfl⟩

theorem Moved.times {x : Ctx} {w : Wg} {b : Group} (h : Moved x w b) (li : Nat) (ss hi re : SMap Nat) :
    Moved x { w with lastIssue := li, issues := ss, hist := hi, reasons := re } b :=
  ⟨by rw [h.rest], h.group, h.others, h.kept⟩

/-! ## The module -/

theorem Claims.OnlyCore.modCore {s t : State} {x : Ctx} (h : OnlyCore s t x) (f : Core → Core)
    (hf : ∀ k, f k = { k with ck := (f k).ck, vecFree := (f k).vecFree, sideFree := (f k).sideFree, wg := (f k).wg } := by intro; rfl) :
    OnlyCore s (t.modCore x.c f) x where
  world := by rw [h.world]; rfl
  cores d hd := (State.core_modCore_ne hd).trans (h.cores d hd)
  core := by rw [State.core_modCore_self, hf, h.core]

/-- `t` has come out of `s` by a word that moves its group and does nothing else: the workgroup is `w` and the group `b` now. -/
structure MovedS (s t : State) (x : Ctx) (w : Wg) (b : Group) : Prop where
  only : OnlyCore s t x
  wg : t.wg? x.c = some w
  moved : Moved x w b

section
variable {s t : State} {x : Ctx} {w : Wg} {b : Group}

theorem MovedS.start (hw : s.wg? x.c = some x.wg) (hg : x.wg.group? x.g = some x.grp) : MovedS s s x x.wg x.grp :=
  ⟨⟨rfl, fun _ _ => rfl, rfl⟩, hw, Moved.start hg⟩

theorem MovedS.modWg (h : MovedS s t x w b) (f : Wg → Wg) {b' : Group} (hm : Moved x (f w) b') : MovedS s (t.modWg x.c f) x (f w) b' :=
  ⟨h.only.modCore _, by rw [State.wg?_modWg_self, h.wg, Option.map_some], hm⟩

theorem MovedS.modGroup (h : MovedS s t x w b) (f : Group → Group) (hf : ∀ y, (f y).unplaced = y.unplaced := by intro; rfl) :
    MovedS s (t.modGroup x.c x.g f) x (w.modGroup x.g f) (f b) :=
  h.modWg _ (h.moved.modGroup f hf)

theorem MovedS.draw (h : MovedS s t x w b) : MovedS s t.draw x w b :=
  ⟨⟨by rw [h.only.world]; rfl, h.only.cores, h.only.core⟩, h.wg, h.moved⟩

theorem MovedS.advanceTo (h : MovedS s t x w b) (ck : Nat) : ∃ w', MovedS s (t.advanceTo x.c ck) x w' b := by
  have hw : (t.core x.c).wg = some w := h.wg
  have ho : OnlyCore s (t.advanceTo x.c ck) x := h.only.modCore _ fun k => by split <;> rfl
  by_cases hc : (t.core x.c).ck < ck
  · obtain ⟨hi, re, e⟩ := countCks_eq w (t.core x.c).ck (ck - (t.core x.c).ck)
    exact ⟨_, ho, by rw [State.advanceTo, State.wg?_modCore, if_pos rfl, if_pos hc, hw, Option.map_some, e], h.moved.times _ _ hi re⟩
  · exact ⟨w, ho, by rw [State.advanceTo, State.wg?_modCore, if_pos rfl, if_neg hc, hw], h.moved⟩

/-- R126: the issue moves the group past its word. -/
theorem MovedS.advance (h : MovedS s t x w b) : ∃ w', MovedS s (t.advance x) x w' (advanced x b) := by
  obtain ⟨w1, h1⟩ := h.advanceTo x.now
  have h2 : MovedS s ((t.advanceTo x.c x.now).modCore x.c fun k =>
      if x.op < 0x60 then { k with vecFree := x.fin + 1 } else { k with sideFree := x.fin + 1 }) x w1 b := by
    refine ⟨h1.only.modCore _ fun k => by split <;> rfl, ?_, h1.moved⟩
    have hw : ((t.advanceTo x.c x.now).core x.c).wg = some w1 := h1.wg
    rw [State.wg?_modCore, if_pos rfl]
    split <;> exact hw
  have h3 := h2.modWg (fun w => { w with lastIssue := x.now, issues := x.wg.issued x.op }) (h2.moved.times x.now (x.wg.issued x.op) w1.hist w1.reasons)
  exact ⟨_, (h3.modGroup (advanced x) (advanced_unplaced x)).draw⟩

/-! ## In the terms of the statements -/

theorem MovedS.group? (h : MovedS s t x w b) : t.group? x.c x.g = some b := by
  rw [State.group?, h.wg, Option.bind_some, h.moved.group]

/-- No register, queue or handle has changed, and no counter. -/
theorem MovedS.regs (h : MovedS s t x w b) : Regs t x [] false := by
  have e := h.moved.rest
  refine ⟨⟨w, h.wg, fun slot r _ => by rw [e]; rfl, by rw [e], by rw [e], by rw [e], by rw [e], by rw [e], fun j th th' h1 h2 p _ => ?_,
      fun j => by rw [h.moved.threads], h.moved.others⟩,
    ⟨b, h.group?, h.moved.field (·.uid), h.moved.field (·.stage), h.moved.field (·.sregs), fun n => h.moved.field (SMap.get? ·.handles n),
      h.moved.field (·.ports), h.moved.field (·.flags), h.moved.field (·.lease), fun n _ => ?_⟩⟩
  · rw [h.moved.threads, h1] at h2
    cases h2
    rfl
  · simpa using h.moved.field (·.ct n)

/-- No thread has another spawn entry or another mr. -/
theorem MovedS.others (h : MovedS s t x w b) : Others t x [] :=
  ⟨w, h.wg, by rw [h.moved.rest], fun j _ => by rw [h.moved.spawn], fun j _ => by rw [h.moved.threads], fun j => by rw [h.moved.threads]⟩

/-- The group stands whole where the move has put it. -/
theorem MovedS.at (h : MovedS s t x w b) (hb : b.wait = none) : At t x (b.pc, b.wix) x.grp.slots :=
  ⟨b, h.group?, rfl, rfl, h.moved.field (·.slots), hb⟩

end

end Sys2Proof
end

section
/-! The uniform branch (R183). -/

namespace Sys2Proof

open Sys2Proof.Machine Sys2Proof.Claims

theorem exSlots_eq_nil {x : Ctx} : exSlots x = [] ↔ x.ex = [] := List.map_eq_nil_iff

theorem splitTo_of_none {x : Ctx} (h : exSlots x = []) (s : State) (tgt : Word64) : s.splitTo x tgt = s := by
  simp [State.splitTo, h]

/-- R183: with every thread of the group executing, the group goes to the target whole. -/
theorem splitTo_of_all {x : Ctx} (h : exSlots x ≠ []) (hi : idleSlots x = []) (s : State) (tgt : Word64) :
    s.splitTo x tgt = s.modGroup x.c x.g (·.goto tgt) := by
  simp [State.splitTo, h, hi]

theorem exec_braU (h : Head) (off : BitVec 24) (s : State) : exec (.braU h false off) s = execBraU h false off s := rfl

/-- With every thread of the group, or none, the word branches or goes on. -/
theorem braU_uniform {s : State} {x : Ctx} {h : Head} {off : BitVec 24} (hx : Comes s h 0x62 x []) (hu : exSlots x = [] ∨ idleSlots x = []) :
    exec (.braU h false off) s = .next ((s.advance x).splitTo x (target x off)) := by
  have he : (!x.ex.isEmpty && !(idleSlots x).isEmpty) = false := by
    rw [exSlots_eq_nil] at hu
    rcases hu with hu | hu <;> simp [hu]
  rw [exec_braU, execBraU]
  exact control_done hx rfl (if_neg (by simp [he]))

/-- With another set the word raises ILLEGAL_CONVERGENCE. -/
theorem braU_mixed {s : State} {x : Ctx} {h : Head} {off : BitVec 24} (hx : Comes s h 0x62 x []) (he : exSlots x ≠ []) (hi : idleSlots x ≠ []) :
    exec (.braU h false off) s = .next (s.raisePrecise x cIllegalConvergence (laneMask x.ex % 2 ^ 32)) := by
  rw [Ne, exSlots_eq_nil] at he
  rw [exec_braU, execBraU]
  exact control_exc hx rfl (if_pos (by simp [he, hi]))

/-- A precise exception leaves the group at its word, and every spawn entry of its workgroup. -/
theorem raisePrecise_stays {s : State} {x : Ctx} (hw : s.wg? x.c = some x.wg) (hg : x.wg.group? x.g = some x.grp) (code aux : Nat) :
    (s.raisePrecise x code aux).group? x.c x.g = some x.grp ∧ ((s.raisePrecise x code aux).wg? x.c).map (·.spawn) = some x.wg.spawn := by
  have hs := s.raisePrecise_steady x code aux x.c
  rw [State.group?_of_steady hs, State.spawn_of_steady hs, State.group?, hw]
  exact ⟨hg, rfl⟩

/-- Settles O8: a uniform set never takes a side of the split that writes spawn entries, and the exception of any other leaves its group and the spawn entries. -/
theorem uniformBranch : Obligations.UniformBranch := by
  intro s x h off hx
  obtain ⟨hw, hg, -⟩ := ctx?_some hx.ctx?_eq
  refine ⟨fun hu => ?_, fun he hi => ?_⟩
  · rw [braU_uniform hx hu]
    obtain ⟨w, hm⟩ := (MovedS.start hw hg).advance
    by_cases he : exSlots x = []
    · rw [splitTo_of_none he, if_pos he]
      exact ⟨_, w, rfl, hm.only, hm.regs, hm.at rfl, hm.wg, hm.moved.spawn, hm.others⟩
    · have ht := hm.modGroup (·.goto (target x off))
      have hat := ht.at rfl
      rw [goto_pc] at hat
      rw [splitTo_of_all he (hu.resolve_left he), if_neg he]
      exact ⟨_, _, rfl, ht.only, ht.regs, hat, ht.wg, ht.moved.spawn, ht.others⟩
  · refine ⟨_, rfl, ?_, ?_⟩
    · rw [braU_mixed hx he hi, ← ctx?_pc hx.ctx?_eq]
      rfl
    · have := raisePrecise_stays hw hg cIllegalConvergence (laneMask x.ex % 2 ^ 32)
      rwa [State.raisePrecise, ctx?_pc hx.ctx?_eq] at this

end Sys2Proof
end

section
/-! Token slots (R405): what the completion of a packet leaves in its tenant's slots, what a new tenant's slots hold, and where a packet names its slot and value. -/

namespace Sys2Proof.Machine

open Sys2Proof

/-! ## The slots of a tenant -/

theorem State.token_congr {s t : State} (h : t.tenants = s.tenants) (ti n : Nat) : t.token ti n = s.token ti n := by
  rw [State.token, State.token, State.tenant, State.tenant, h]

@[simp] theorem State.token_modQueue (s : State) (q ti n : Nat) (f : Queue → Queue) : (s.modQueue q f).token ti n = s.token ti n :=
  State.token_congr (s.modQueue_tenants q f) ti n

theorem State.token_setToken (s : State) (ti m n : Nat) (v : Word64) : (s.setToken ti m v).token ti n = if n = m then v else s.token ti n := by
  simp only [State.token, State.setToken, State.tenant_modTenant, if_true, SMap.getD_set]

theorem State.token_modTenant_of_tokens {f : Tenant → Tenant} (hf : ∀ t, (f t).tokens = t.tokens) (s : State) (tj ti n : Nat) :
    (s.modTenant tj f).token ti n = s.token ti n := by
  rw [State.token, State.token, State.tenant_modTenant]
  split
  case isTrue h => rw [hf, h]
  case isFalse => rfl

@[simp] theorem State.token_interrupt (s : State) (tj ti n : Nat) : (s.interrupt tj).token ti n = s.token ti n := by
  rw [State.interrupt, State.token_congr (State.emit_tenants _ _)]
  exact State.token_modTenant_of_tokens (by intro; rfl) s tj ti n

/-! ## Completion -/

/-- R405: slot `tok` takes the larger of its value and the packet's; 0xFFF names no slot, and an interrupt changes none. -/
theorem State.token_tokenOf (s : State) (ti tok n : Nat) (tval : Word64) (irq : Bool) :
    (s.tokenOf ti tok tval irq).token ti n = if n = tok ∧ n ≠ 0xFFF ∧ (s.token ti n).toNat < tval.toNat then tval else s.token ti n := by
  have hirq : ∀ t : State, (if irq then t.interrupt ti else t).token ti n = t.token ti n := by
    intro t
    cases irq <;> simp
  rw [State.tokenOf, hirq]
  by_cases hf : tok = 0xFFF
  · have : ¬ (n = tok ∧ n ≠ 0xFFF ∧ (s.token ti n).toNat < tval.toNat) := fun ⟨hn, hslot, _⟩ => hslot (hn.trans hf)
    rw [if_pos hf, if_neg this]
  · rw [if_neg hf, State.token_setToken]
    by_cases hn : n = tok
    · simp [hn, hf]
    · simp [hn]

@[simp] theorem State.settleUnmap_tenants (s : State) (q : Nat) : (s.settleUnmap q).tenants = s.tenants := by
  unfold State.settleUnmap
  split
  case isTrue => rfl
  case isFalse =>
    split
    case isTrue => rfl
    case isFalse =>
      split
      case isTrue => rfl
      case isFalse => rfl

/-- The packet leaves its queue's list, which keeps its tenant. -/
theorem State.tenant_queue_modQueue_pkts (s : State) (q : Nat) (f : List Pkt → List Pkt) :
    ((s.modQueue q fun k => { k with pkts := f k.pkts }).queue q).tenant = (s.queue q).tenant := by
  rw [State.queue_modQueue, if_pos rfl]

/-- R405, for every slot number that a packet can hold. -/
theorem State.token_completePkt (s : State) (q : Nat) (p : Pkt) (n : Nat) :
    (s.completePkt q p).token (s.queue q).tenant n =
      if n = p.tok ∧ n ≠ 0xFFF ∧ (s.token (s.queue q).tenant n).toNat < p.tval.toNat then p.tval else s.token (s.queue q).tenant n := by
  rw [State.completePkt, State.token_congr (State.settleUnmap_tenants _ q),
    State.tenant_queue_modQueue_pkts s q (·.filter fun k => k.num != p.num), State.token_tokenOf, State.token_modQueue]

/-- R405: no completion lowers a slot. -/
theorem State.token_le_completePkt (s : State) (q : Nat) (p : Pkt) (n : Nat) :
    (s.token (s.queue q).tenant n).toNat ≤ ((s.completePkt q p).token (s.queue q).tenant n).toNat := by
  rw [State.token_completePkt]
  split
  case isTrue h =>
    obtain ⟨-, -, hlt⟩ := h
    exact Nat.le_of_lt hlt
  case isFalse => exact Nat.le_refl _

/-! ## Creation -/

theorem State.tenant_setTenant_self (s : State) (i : Nat) (x : Tenant) : (s.setTenant i x).tenant i = x :=
  SMap.getD_set_self s.tenants i x Tenant.none

theorem exec_tenantCreate (n : Nat) (cfg : TenantCfg) (s : State) : exec (.tenantCreate n cfg) s = execTenantCreate n cfg s := rfl

/-- R405: every slot of a tenant that is created is zero. -/
theorem State.token_createTenant {s : State} {n : Nat} (cfg : TenantCfg) (hr : s.ready = true) (hn : n < 16) (hl : (s.tenant n).live = false) (k : Nat) :
    (s.createTenant n cfg).token n k = 0 := by
  have hfree : ¬ (!s.ready || decide (16 ≤ n)) = true := by simp [hr, hn]
  have hdead : ¬ (s.tenant n).live = true := by simp [hl]
  rw [State.createTenant, if_neg hfree, if_neg hdead, State.token_congr (State.draw_tenants _), State.token, State.tenant_setTenant_self]
  rfl

/-! ## The fields of a packet (R404) -/

theorem hdrType_eq_div (h : Word64) : hdrType h = h.toNat / 2 ^ 56 := opcodeOf_eq_div h.isLt

theorem pktOf_tval (num : Nat) (ws : List Word64) :
    (pktOf num ws).tval = if (ws.getD 0 0).toNat / 2 ^ 56 = 1 then ws.getD 3 0 else ws.getD 7 0 := by
  rw [← hdrType_eq_div]
  rfl

theorem pktOf_tok (num : Nat) (ws : List Word64) : (pktOf num ws).tok = (ws.getD 0 0).toNat / 2 ^ 32 % 2 ^ 12 := rfl

end Sys2Proof.Machine

namespace Sys2Proof

open Sys2Proof.Machine

/-- Settles O53: a slot below 0xFFF is one that a packet can name, so the value of `State.token_completePkt` stands without its test for 0xFFF. -/
theorem tokensAtCompletion : Obligations.TokensAtCompletion := by
  refine ⟨fun s n cfg hr hn hl => ⟨_, exec_tenantCreate n cfg s, State.token_createTenant cfg hr hn hl⟩, pktOf_tval, pktOf_tok,
    fun s q p n hn => ⟨?_, s.token_le_completePkt q p n⟩⟩
  have hslot : n ≠ 0xFFF := Nat.ne_of_lt hn
  simpa only [hslot, ne_eq, not_false_eq_true, true_and] using s.token_completePkt q p n

end Sys2Proof
end
